-- ==== Sys2Proof/Word.lean ====
section
/-! DEFINITION. The words of the GL-416 (00_scope.md, Section 0.5.4 and Table 0.2): what the manual shifts, masks or
wraps is a bit vector; a number that only names one of a fixed count of things is a Fin. -/

namespace Sys2Proof

/-- One byte of a frame or record (12_frame_and_record_formats.md). -/
abbrev Byte := BitVec 8

/-- A carrier's frame number, 0 to 65535, wrapping to 0 (R75). -/
abbrev FrameNo := BitVec 16

/-- A counter of 32 bits that wraps to 0 (00_scope.md, Section 0.5.4). -/
abbrev Counter := BitVec 32

/-- A terminal number, 0..255. -/
abbrev TermNo := Fin 256

/-- A carrier number, 0..3. -/
abbrev CarrierNo := Fin 4

/-- An upstream slot number, 0..31. -/
abbrev SlotNo := Fin 32

/-- A profile index, 0..7; 0 is the most robust. -/
abbrev ProfileNo := Fin 8

/-- A tag value, 0..4095. -/
abbrev Tag := Fin 4096

/-- A six-byte Ethernet address, first byte most significant. -/
abbrev Addr := BitVec 48

end Sys2Proof
end

