-- ==== Sys2Proof/Syntax.lean ====
section
/-! DEFINITION. The commands of the GL-416: one constructor of `Instr` for each row of spec/opcode_table.json, with the
operands its rule reads. -/

namespace Sys2Proof

/-- The blocks that keep counts of a carrier's frame starts, each handling its own (Section 4.3). `csp` stands for the
Carrier Controller with the Re-entry Scheduler, whose work R77, R78 and R89 put inside the one event. -/
inductive Block
  | csp | lsv | rng | pld | hfs
  deriving DecidableEq, Repr

/-- A report fragment of four bits with its start mark (R125, Table 12.2). -/
structure Fragment where
  start : Bool
  bits : BitVec 4
  deriving DecidableEq, Repr

/-- The kinds of burst and what each carries beyond the fields all bursts have (Table 12.2). A payload frame is given
as its bytes from the destination address to the last byte of the check sequence. -/
inductive BurstKind
  | call (keptLock : Bool) (lastProfile : ProfileNo)
  | trim (fragment : Fragment)
  | traffic (fragment : Fragment) (pause : Bool) (payload : List (List Byte))
  deriving DecidableEq, Repr

/-- A burst as the modem reports it: the terminal it claims, its timing offset in ticks, its SNR in half-dB. -/
structure Burst where
  claimed : TermNo
  offset : Int
  snr : Nat
  kind : BurstKind
  deriving DecidableEq, Repr

/-- What the modem received in one upstream slot (Table 12.1). -/
inductive SlotResult
  | empty
  | burst (b : Burst)
  | garbled
  deriving DecidableEq, Repr

/-- The commands, one constructor per row of the opcode table and in its order. -/
inductive Instr
  /-- POWER_ON_RESET (R177); the operand is the six address strap pins as they stand at power-on (R176). -/
  | powerOnReset (straps : Fin 64)
  /-- FRAME_RECEIVED (R5): the frame's bytes from the destination address up to the check sequence, without the four
  check-sequence bytes, and whether the check sequence was right. -/
  | frameReceived (bytes : List Byte) (checkRight : Bool)
  /-- UNKNOWN_REQUEST (R170): the buffered request at the head has a code outside the catalogue. -/
  | unknownRequest
  /-- READ_TERMINAL (R32). -/
  | readTerminal
  /-- WRITE_TERMINAL (R19). -/
  | writeTerminal
  /-- BIND_TAG (R2). -/
  | bindTag
  /-- UNBIND_TAG (R3). -/
  | unbindTag
  /-- READ_TAG (R4). -/
  | readTag
  /-- LOAD_PROFILE (R123). -/
  | loadProfile
  /-- READ_PROFILE (R124). -/
  | readProfile
  /-- WRITE_CARRIER (R68). -/
  | writeCarrier
  /-- READ_CARRIER (R86). -/
  | readCarrier
  /-- RELEASE (R47). -/
  | release
  /-- HOLD (R48). -/
  | hold
  /-- FORCE_STATE (R49). -/
  | forceState
  /-- PERMIT (R51). -/
  | permit
  /-- FLUSH_HELD (R154). -/
  | flushHeld
  /-- READ_QUEUE (R103). -/
  | readQueue
  /-- READ_EVENTS (R174). -/
  | readEvents
  /-- SET_NOTICES (R175). -/
  | setNotices
  /-- READ_COUNTERS (R172). -/
  | readCounters
  /-- SET_SECTOR (R176). -/
  | setSector
  /-- SECTOR_RESET (R178). -/
  | sectorReset
  /-- CARRIER_RESTART (R179). -/
  | carrierRestart
  /-- DISCARDED_RECORD (R180): the bytes of a Modem Link record as they arrived. -/
  | discardedRecord (bytes : List Byte)
  /-- FRAME_START (R77): the carrier, the frame number, and the order in which the blocks take the indication. -/
  | frameStart (c : CarrierNo) (f : FrameNo) (order : List Block)
  /-- RECOVERY_PERIOD_REACHED (R72). -/
  | recoveryPeriodReached (c : CarrierNo)
  /-- RECLAIM (R81). -/
  | reclaim (c : CarrierNo) (slot : SlotNo)
  /-- LEND_COMPARE (R45). -/
  | lendCompare (t : TermNo)
  /-- WARM_COMPARE (R45). -/
  | warmCompare (t : TermNo)
  /-- FADE_TIMER_EXPIRY (R57). -/
  | fadeTimerExpiry (t : TermNo)
  /-- GUARD_EXPIRY (R62). -/
  | guardExpiry (t : TermNo)
  /-- ADMIT_WAIT_EXPIRY (R60). -/
  | admitWaitExpiry (t : TermNo)
  /-- EFFECTIVE_FRAME_REACHED (R61). -/
  | effectiveFrameReached (t : TermNo)
  /-- APPLY_FRAME_REACHED (R134). -/
  | applyFrameReached (t : TermNo)
  /-- SETTLE_COUNT_END (R114). -/
  | settleCountEnd (t : TermNo)
  /-- YIELD_COUNT_END (R152). -/
  | yieldCountEnd (t : TermNo)
  /-- AGE_DISCARD (R146). -/
  | ageDiscard (t : TermNo)
  /-- CARRIER_LOST (R73). -/
  | carrierLost (c : CarrierNo)
  /-- CARRIER_FOUND (R71). -/
  | carrierFound (c : CarrierNo)
  /-- SLOT_OUTCOME (R83): the carrier, the upstream frame, the slot and what was received in it. -/
  | slotOutcome (c : CarrierNo) (u : FrameNo) (slot : SlotNo) (o : SlotResult)
  /-- LIST_CLOSE (R158): the carrier and the downstream frame number. -/
  | listClose (c : CarrierNo) (g : FrameNo)
  deriving DecidableEq, Repr

end Sys2Proof
end

