-- ==== Sys2Proof/Decode.lean ====
section
/-! DEFINITION. The commands a table word spells. No row of spec/opcode_table.json gives any bits, so no word spells a
command. -/

namespace Sys2Proof

/-- The command that a word spells by the bits of the opcode table: none, since no row of the table gives any. -/
def decodeTableWord (_nbits _w : Nat) : Option Instr := none

end Sys2Proof
end

