-- ==== Sys2Proof/Machine/State.lean ====
section
/-! DEFINITION. The state of the GL-416: every piece of state its ten blocks own (00_scope.md, Table 0.1), as plain data,
and its value at power-on. Sparse tables are lists of key and value in one canonical form: keys strictly rising, and no
entry equal to what an unlisted key reads as. -/

namespace Sys2Proof.Machine

/-- A table of `n` entries indexed by number, as the list of those that differ from the table's default value. -/
abbrev Table (n : Nat) (α : Type) := List (Fin n × α)

/-! ### Enumerations, each in the order of its table, which is also its code (Chapter 12) -/

/-- The eight link states (Table 3.1). -/
inductive LinkState
  | held | dark | called | trimming | admitting | serving | fading | guard
  deriving DecidableEq, Repr

/-- The causes of a last loss of service or refusal (Table 2.5). -/
inductive Cause
  | none | fade | recall | carrier | rangeFail | noPermit | restart | forced
  deriving DecidableEq, Repr

/-- What to do when a held queue cannot take a frame (Table 2.1). -/
inductive DropPolicy
  | dropNew | dropOldest
  deriving DecidableEq, Repr

/-- How the store answers a pause flag (Table 2.1). -/
inductive BackPressure
  | wait | yielding
  deriving DecidableEq, Repr

/-- Frames handed at one visit of the release arbiter (Table 2.1). -/
inductive ReleaseBurst
  | one | two | four | eight | continuous
  deriving DecidableEq, Repr

/-- The five release states (Table 8.1). -/
inductive ReleaseState
  | idle | releasing | paused | yielding | suspended
  deriving DecidableEq, Repr

/-- The trend of a margin report (Section 12.3). -/
inductive Trend
  | falling | steady | rising | unknown
  deriving DecidableEq, Repr

/-- The direction of a pending profile (R31). -/
inductive Direction
  | stepDown | stepUp
  deriving DecidableEq, Repr

/-- Modulations of a Profile Table entry (Table 7.1). -/
inductive Modulation
  | qpsk | psk8 | qam16 | qam32 | qam64 | qam128 | qam256
  deriving DecidableEq, Repr

/-- Code rates of a Profile Table entry (Table 7.1). -/
inductive CodeRate
  | half | twoThirds | threeQuarters | fiveSixths | nineTenths
  deriving DecidableEq, Repr

/-- The carrier states (Table 4.2). -/
inductive CarrierState
  | disabled | down | up | recovering
  deriving DecidableEq, Repr

/-- The status codes of a response (Table 10.1). -/
inductive Status
  | done | unknownRequest | badSelector | badValue | wrongState | conflict | inUse | partially
  deriving DecidableEq, Repr

/-! ### The terminal record (Chapter 2) -/

/-- An upstream frame and slot, as a grant names them (Tables 2.6 and 2.7). -/
structure GrantRef where
  frame : FrameNo
  slot : SlotNo
  deriving DecidableEq, Repr

/-- Configuration fields with their power-on values (Table 2.1, R18). -/
structure TermConfig where
  configured : Bool := false
  carrier : CarrierNo := 0
  cls : Fin 4 := 3
  homeTag : Option Nat := Option.none
  homeSlots : List SlotNo := []
  floor : ProfileNo := 0
  ceiling : ProfileNo := 0
  reentry : ProfileNo := 0
  autoAdmit : Bool := false
  holdQuota : Nat := 0
  holdAge : Nat := 3000
  dropPolicy : DropPolicy := .dropOldest
  backPressure : BackPressure := .wait
  releaseBurst : ReleaseBurst := .four
  fadeTimeout : Nat := 40
  fadeMissLimit : Nat := 8
  lendDelay : Nat := 200
  warmLimit : Nat := 1000
  guardPeriod : Nat := 1000
  deriving DecidableEq, Repr

/-- Link supervision fields (Table 2.5, R29). -/
structure LinkFields where
  state : LinkState := .held
  cause : Cause := .none
  forced : Bool := false
  permit : Bool := false
  outage : Nat := 0
  outageOn : Bool := false
  lendActive : Nat := 200
  warmActive : Nat := 1000
  lendTaken : Bool := false
  warmClosed : Bool := false
  fadeOn : Bool := false
  fadeCount : Nat := 0
  fadeActive : Nat := 40
  fadeMisses : Nat := 0
  guardOn : Bool := false
  guardCount : Nat := 0
  guardActive : Nat := 1000
  repeatCalls : Nat := 0
  keptLock : Bool := false
  deriving DecidableEq, Repr

/-- The link supervision fields at their power-on and sector-reset values: each active copy equals its setting
(Table 2.5, R28). -/
def LinkFields.fresh (cfg : TermConfig) : LinkFields :=
  { lendActive := cfg.lendDelay, warmActive := cfg.warmLimit, fadeActive := cfg.fadeTimeout,
    guardActive := cfg.guardPeriod }

/-- The last measured offset and SNR, present together (Table 2.6). -/
structure Measurement where
  offset : Int
  snr : Nat
  deriving DecidableEq, Repr

/-- Ranging fields (Table 2.6, R30) and the two working values of R105. -/
structure RangeFields where
  stored : Option Int := Option.none
  attempts : Nat := 0
  measured : Nat := 0
  warm : Bool := false
  last : Option Measurement := Option.none
  settle : Nat := 0
  grant : Option GrantRef := Option.none
  correction : Int := 0
  power : Int := 0
  deriving DecidableEq, Repr

/-- Admission fields (Table 2.6, R30). -/
structure AdmissionFields where
  wait : Nat := 0
  reclaimPending : Bool := false
  sent : Option FrameNo := Option.none
  deriving DecidableEq, Repr

/-- A pending profile (R133). -/
structure PendingProfile where
  target : ProfileNo
  direction : Direction
  apply : Option FrameNo
  deriving DecidableEq, Repr

/-- Downstream margin, trend and reported headroom, present together (Table 2.7, R126). -/
structure Report where
  margin : Int
  trend : Trend
  headroom : Nat
  deriving DecidableEq, Repr

/-- Profile and report fields (Table 2.7, R31). The report assembly is its fragments in order of arrival. -/
structure LadderFields where
  current : ProfileNo := 0
  pending : Option PendingProfile := Option.none
  assembly : List (BitVec 4) := []
  report : Option Report := Option.none
  upMargin : Option Int := Option.none
  stepUp : Nat := 0
  deriving DecidableEq, Repr

/-- A held frame (R141): its bytes to the last byte of the check sequence, untagged and padded as R7 leaves them, the
arrival frame number, and its age. -/
structure HeldFrame where
  bytes : List Byte
  arrival : FrameNo
  age : Nat
  deriving DecidableEq, Repr

/-- Release fields (Table 2.7) and the held queue, head first (R141). -/
structure HoldFields where
  release : ReleaseState := .idle
  yieldCount : Nat := 0
  queue : List HeldFrame := []
  deriving DecidableEq, Repr

/-- The owed-directive marks (Table 2.7, Table 9.1). -/
structure OwedMarks where
  halt : Bool := false
  admission : Bool := false
  profile : Bool := false
  grant : Option GrantRef := Option.none
  deriving DecidableEq, Repr

/-- The per-terminal counters: the rows of Table 2.8 in order, then the three of R156. -/
structure TermCounters where
  callsAccepted : Counter := 0
  repeatCalls : Counter := 0
  guardHits : Counter := 0
  ignoredCalls : Counter := 0
  suppressed : Counter := 0
  misses : Counter := 0
  fades : Counter := 0
  foreignBursts : Counter := 0
  rangingAttempts : Counter := 0
  rangingOverflows : Counter := 0
  rangingFailures : Counter := 0
  lateTrims : Counter := 0
  brokenReports : Counter := 0
  stepsDown : Counter := 0
  stepsUp : Counter := 0
  framesHeld : Counter := 0
  framesReleased : Counter := 0
  discardQuota : Counter := 0
  discardPool : Counter := 0
  discardAge : Counter := 0
  discardState : Counter := 0
  discardFlush : Counter := 0
  arrivalQuota : Counter := 0
  arrivalPool : Counter := 0
  heldState : Counter := 0
  deriving DecidableEq, Repr

/-- A terminal record (R17), its parts by the block that changes them. -/
structure Terminal where
  cfg : TermConfig := {}
  link : LinkFields := {}
  range : RangeFields := {}
  adm : AdmissionFields := {}
  ladder : LadderFields := {}
  hold : HoldFields := {}
  owed : OwedMarks := {}
  ctr : TermCounters := {}
  deriving DecidableEq, Repr

/-- A record with its configuration and counters kept and every dynamic field at its power-on value (R24, R25, R65). -/
def Terminal.fresh (r : Terminal) : Terminal :=
  { cfg := r.cfg, link := LinkFields.fresh r.cfg, ctr := r.ctr }

/-- A record at power-on (R17). -/
def Terminal.powerOn : Terminal := {}

/-! ### The carrier record (Chapters 4, 5, 8 and 9) -/

/-- Carrier settings with their power-on values (Table 4.1). Bit s of `base` set means that slot s has the configured
base kind REENTRY, clear that it has OPEN (Section 12.4). -/
structure CarrierConfig where
  enabled : Bool := false
  grantLead : Nat := 4
  applyLead : Nat := 4
  settle : Nat := 2
  trimLimit : Nat := 6
  searchWindow : Nat := 1024
  fineWindow : Nat := 4
  powerWindow : Nat := 4
  targetSnr : Nat := 40
  paceLimit : Nat := 2
  recoveryPace : Nat := 4
  rangingSize : Nat := 4
  offerLimit : Nat := 2
  recoveryOffer : Nat := 6
  recoveryPeriod : Nat := 2000
  backoffWindow : Nat := 32
  backoffHigh : Nat := 12
  backoffLow : Nat := 3
  admitWaitLimit : Nat := 500
  yieldPeriod : Nat := 8
  releaseBudget : Nat := 16
  guardRestart : Bool := false
  fadeStepDown : Bool := true
  base : BitVec 32 := 0
  deriving DecidableEq, Repr

/-- A calendar cell (R76). -/
inductive Cell
  | empty
  | offered
  | granted (t : TermNo) (attempt : Nat)
  deriving DecidableEq, Repr

/-- A calendar row (R76): its upstream frame, its filled mark, and its cells that are not empty. -/
structure Row where
  frame : FrameNo
  filled : Bool
  cells : Table 32 Cell
  deriving DecidableEq, Repr

/-- The current kind of a slot (R79), with the reclaim-pending mark a LENT slot may carry. -/
inductive SlotUse
  | opened
  | reentry
  | traffic (t : TermNo)
  | lent (t : TermNo) (reclaim : Bool)
  deriving DecidableEq, Repr

/-- An entry of a re-entry queue (R90). `stamp` is its place in the order in which entries were made (log 15). -/
structure QueueEntry where
  terminal : TermNo
  cls : Fin 4
  lastProfile : ProfileNo
  stamp : Nat
  deriving DecidableEq, Repr

/-- An entry of a backoff window (R88). -/
inductive OfferOutcome
  | call | garbled | empty
  deriving DecidableEq, Repr

/-- What the Re-entry Scheduler keeps for a carrier (R88 to R93, R102). The ranging set is listed in ascending number,
the backoff window oldest first. -/
structure Scheduler where
  queue : List QueueEntry := []
  nextOrder : Nat := 0
  ranging : List TermNo := []
  rotation : TermNo := 255
  window : List OfferOutcome := []
  exponent : Nat := 0
  deriving DecidableEq, Repr

/-- The DCP's rotation pointers, one for each rank of R160 (R161). -/
structure RankPointers where
  halt : TermNo := 255
  admission : TermNo := 255
  stepDown : TermNo := 255
  grant : TermNo := 255
  stepUp : TermNo := 255
  deriving DecidableEq, Repr

/-- CSP carrier counters (Table 4.8). -/
structure CspCounters where
  frameStarts : Counter := 0
  frameSlips : Counter := 0
  carrierFound : Counter := 0
  carrierLost : Counter := 0
  expiredCells : Counter := 0
  outOfFrame : Counter := 0
  strayOutcomes : Counter := 0
  strayBursts : Counter := 0
  deriving DecidableEq, Repr

/-- RES carrier counters (Table 5.3). -/
structure ResCounters where
  callsAccepted : Counter := 0
  strayCalls : Counter := 0
  collisions : Counter := 0
  quietOffers : Counter := 0
  terminalsTaken : Counter := 0
  grantsPlaced : Counter := 0
  grantsWithdrawn : Counter := 0
  grantsRefunded : Counter := 0
  storms : Counter := 0
  deriving DecidableEq, Repr

/-- RNG carrier counters (Table 6.3). -/
structure RngCounters where
  warmExchanges : Counter := 0
  coldExchanges : Counter := 0
  outcomes : Counter := 0
  measurements : Counter := 0
  misses : Counter := 0
  overflows : Counter := 0
  warmFallbacks : Counter := 0
  convergences : Counter := 0
  failures : Counter := 0
  ended : Counter := 0
  lateTrims : Counter := 0
  staleOutcomes : Counter := 0
  unsentOutcomes : Counter := 0
  deriving DecidableEq, Repr

/-- DCP carrier counters (Table 9.2). -/
structure DcpCounters where
  listCloses : Counter := 0
  headerOnly : Counter := 0
  haltsSent : Counter := 0
  admitsSent : Counter := 0
  downsSent : Counter := 0
  upsSent : Counter := 0
  trimsSent : Counter := 0
  lateGrants : Counter := 0
  fullLists : Counter := 0
  deriving DecidableEq, Repr

/-- A calendar of empty rows, none filled, for the sixteen frames from `f` (R76). -/
def emptyCalendar (f : FrameNo) : List Row :=
  (List.range 16).map fun i => { frame := f + BitVec.ofNat 16 i, filled := false, cells := [] }

/-- A carrier record with its power-on values (Tables 4.1 and 4.2, R93, R102, R149, R161). -/
structure Carrier where
  cfg : CarrierConfig := {}
  state : CarrierState := .disabled
  recovery : Nat := 0
  lastFrame : FrameNo := 0
  calendar : List Row := emptyCalendar 0
  slots : Table 32 SlotUse := []
  res : Scheduler := {}
  releasePtr : TermNo := 255
  dcp : RankPointers := {}
  csp : CspCounters := {}
  resCtr : ResCounters := {}
  rng : RngCounters := {}
  dcpCtr : DcpCounters := {}
  deriving DecidableEq, Repr

/-! ### Profile Table, sector counters, event sets -/

/-- A Profile Table entry with its power-on values (R122). -/
structure Profile where
  enabled : Bool := false
  modulation : Modulation := .qpsk
  codeRate : CodeRate := .half
  requiredSnr : Nat := 0
  upMargin : Int := 0
  downMargin : Int := -1
  stepUpHold : Nat := 0
  neededHeadroom : Nat := 0
  deriving DecidableEq, Repr

/-- FCL counters (Table 1.2). -/
structure FclCounters where
  checkErrors : Counter := 0
  received : Counter := 0
  untagged : Counter := 0
  diverted : Counter := 0
  length : Counter := 0
  unknownTag : Counter := 0
  passedThrough : Counter := 0
  handedToHfs : Counter := 0
  stateDiscards : Counter := 0
  upstreamSent : Counter := 0
  upstreamNoTag : Counter := 0
  upstreamFormat : Counter := 0
  deriving DecidableEq, Repr

/-- PLD sector counters (Table 7.2). -/
structure PldCounters where
  reportsCompleted : Counter := 0
  brokenReports : Counter := 0
  orphanFragments : Counter := 0
  stepDownDecisions : Counter := 0
  stepUpDecisions : Counter := 0
  fadeStepDowns : Counter := 0
  pendingReplaced : Counter := 0
  appliedDown : Counter := 0
  appliedUp : Counter := 0
  deriving DecidableEq, Repr

/-- HFS sector counters (Table 8.5). -/
structure HfsCounters where
  appends : Counter := 0
  releases : Counter := 0
  arrivalQuota : Counter := 0
  arrivalPool : Counter := 0
  heldQuota : Counter := 0
  heldPool : Counter := 0
  heldAge : Counter := 0
  heldFlush : Counter := 0
  heldState : Counter := 0
  storeLow : Counter := 0
  storeExhausted : Counter := 0
  deriving DecidableEq, Repr

/-- MGU counters (Table 10.3). -/
structure MguCounters where
  admitted : Counter := 0
  dropped : Counter := 0
  misaddressed : Counter := 0
  shortFrames : Counter := 0
  responses : Counter := 0
  refusals : Counter := 0
  notices : Counter := 0
  deriving DecidableEq, Repr

/-- The six event sets (Table 10.4), each in ascending order. -/
structure EventSets where
  stateChange : List TermNo := []
  carrier : List CarrierNo := []
  rangeFail : List TermNo := []
  storm : List CarrierNo := []
  listFull : List CarrierNo := []
  storeLow : Bool := false
  storeExhausted : Bool := false
  deriving DecidableEq, Repr

/-! ### What leaves the part, and the requests that wait -/

/-- A directive (Table 12.4). -/
inductive Directive
  | trim (t : TermNo) (grant : GrantRef) (correction power : Int)
  | profile (t : TermNo) (target : ProfileNo) (modulation : Modulation) (codeRate : CodeRate) (apply : FrameNo)
  | admission (t : TermNo) (effective : FrameNo) (homeSlots : List SlotNo)
  | halt (t : TermNo)
  deriving DecidableEq, Repr

/-- A directive list (Table 12.3). -/
structure DirectiveList where
  carrier : CarrierNo
  frame : FrameNo
  exponent : Nat
  offered : List SlotNo
  body : List Directive
  deriving DecidableEq, Repr

/-- What the part hands to the Modem Link: a downstream traffic frame with its labels (R10, R150), its bytes untagged and
to the last byte of the check sequence (R7), or a directive list (R158). -/
inductive MlOut
  | downstream (c : CarrierNo) (t : TermNo) (bytes : List Byte)
  | list (l : DirectiveList)
  deriving DecidableEq, Repr

/-- A buffered request (R168, Table 12.5): its source address, its header, and the bytes that follow the header. -/
structure Request where
  source : Addr
  code : Byte
  kind : Byte
  number : BitVec 16
  value : BitVec 16
  bodyLength : Nat
  rest : List Byte
  deriving DecidableEq, Repr

/-- A response or notice frame (R169, R175, Table 12.5). -/
structure MgmtFrame where
  dest : Addr
  source : Addr
  code : Byte
  kind : Byte
  number : BitVec 16
  value : BitVec 16
  status : Status
  body : List Byte
  deriving DecidableEq, Repr

/-- The six notice enables, in the order of Table 10.4. -/
structure NoticeEnables where
  stateChange : Bool := false
  carrier : Bool := false
  rangeFail : Bool := false
  storm : Bool := false
  listFull : Bool := false
  store : Bool := false
  deriving DecidableEq, Repr

/-- The broadcast address (R168). -/
def broadcast : Addr := 0xFFFFFFFFFFFF

/-- The station address at power-on, 02-00-00-00-00-nn with nn the address straps (R176). -/
def strappedAddress (straps : Fin 64) : Addr := 0x020000000000 + BitVec.ofNat 48 straps.val

/-- A group request that is being taken while other blocks' events come among its applications (R169, R171): the terminals
not yet applied, the results so far, and the notices that wait for its response (R175). -/
structure GroupTaking where
  remaining : List TermNo
  results : List (TermNo × Status) := []
  notices : List MgmtFrame := []
  deriving DecidableEq, Repr

/-- The Management Unit's own state (R168, R169, R171, R173, R175, R176). The request that `taking` tells of stands at the
head of the buffer. -/
structure Mgu where
  buffer : List Request := []
  taking : Option GroupTaking := none
  station : Addr
  enables : NoticeEnables := {}
  noticeDest : Addr := broadcast
  outstanding : Bool := false
  ctr : MguCounters := {}
  deriving DecidableEq, Repr

/-! ### The whole -/

/-- The state the link-side blocks work on: the Terminal Table, the carrier records, the Profile Table, the store's pools,
the event sets, and what has been handed to the Modem Link. -/
structure Sector where
  terms : Table 256 Terminal := []
  cars : Vector Carrier 4 := Vector.replicate 4 {}
  profiles : Vector Profile 8 := Vector.replicate 8 {}
  freeDescriptors : Nat := 4096
  freeBlocks : Nat := 8192
  storeLowMark : Nat := 512
  pld : PldCounters := {}
  hfs : HfsCounters := {}
  events : EventSets := {}
  mlOut : List MlOut := []
  deriving DecidableEq, Repr

/-- The GL-416. -/
structure State where
  /-- The commands that wait, first in, first out (the host's queue, log 2). -/
  pending : List Instr
  /-- Where other blocks' events may fall among the applications of group requests: how many terminals each taking of a group
  row applies before it lets them in, in turn; with none listed it applies all that remain (R171, log 22). -/
  shares : List Nat
  /-- The address strap pins (R176). -/
  straps : Fin 64
  /-- The Tag Map (R1): an unlisted tag holds NONE. -/
  tagMap : Table 4096 (Option TermNo)
  fcl : FclCounters
  sector : Sector
  mgu : Mgu
  /-- Upstream frames handed to the Network Port, oldest first, each tagged and with its check sequence (R13). -/
  npTraffic : List (List Byte)
  /-- Responses and notices handed to the Network Port, oldest first (R169, R175). -/
  npMgmt : List MgmtFrame
  deriving DecidableEq, Repr

/-- Reasons to stop with a fault: none. The spec gives the block no fault; every command has an effect or none. -/
inductive Fault
  deriving DecidableEq, Repr

/-- Reasons to refuse a command. -/
inductive Refusal
  /-- The command has no meaning yet in `exec`; raised by no arm once every arm has its meaning. Safe. -/
  | notModelled (mnemonic : String)
  deriving DecidableEq, Repr

/-- The part at its power-on values, with the address straps as they stand (R177). -/
def State.powerOn (straps : Fin 64) : State :=
  { pending := [], shares := [], straps := straps, tagMap := [], fcl := {}, sector := {},
    mgu := { station := strappedAddress straps }, npTraffic := [], npMgmt := [] }

/-- The part right after power-on, all address straps 0 (DESIGN CHOICE, log 8). -/
def State.reset : State := State.powerOn 0

end Sys2Proof.Machine
end

