-- ==== Sys2Proof/Machine/Ops.lean ====
section
/-! DEFINITION. The named operations over the records every block shares: tables, frame arithmetic, rotation, terminal
and carrier records, slots and calendar cells. -/

namespace Sys2Proof.Machine

/-! ### Tables -/

/-- The entry of key `k`; an unlisted key holds `d`. -/
def Table.read {n : Nat} {α : Type} (d : α) : Table n α → Fin n → α
  | [], _ => d
  | (j, x) :: l, k => if j = k then x else Table.read d l k

/-- The table without an entry for `k`. -/
def Table.drop {n : Nat} {α : Type} (l : Table n α) (k : Fin n) : Table n α :=
  l.filter fun e => decide (e.1 ≠ k)

/-- The table with `x` listed under `k`, keys kept rising. -/
def Table.put {n : Nat} {α : Type} : Table n α → Fin n → α → Table n α
  | [], k, x => [(k, x)]
  | (j, y) :: l, k, x =>
    if k < j then (k, x) :: (j, y) :: l
    else if k = j then (k, x) :: l
    else (j, y) :: Table.put l k x

/-- The table whose entry of `k` is `x`, in canonical form: an entry equal to the default `d` is not listed. -/
def Table.write {n : Nat} {α : Type} [DecidableEq α] (d : α) (l : Table n α) (k : Fin n) (x : α) : Table n α :=
  if x = d then Table.drop l k else Table.put l k x

/-- Canonical form: keys strictly rising and no entry equal to the default. -/
def Table.wf {n : Nat} {α : Type} [DecidableEq α] (d : α) (l : Table n α) : Bool :=
  decide ((l.map (·.1)).Pairwise (· < ·)) && l.all fun e => decide (e.2 ≠ d)

/-- A number put in an ascending list without repeats. -/
def insertNo {n : Nat} (x : Fin n) : List (Fin n) → List (Fin n)
  | [] => [x]
  | y :: l => if x < y then x :: y :: l else if x = y then y :: l else y :: insertNo x l

/-! ### Frame numbers and rotation -/

/-- Frame `a` is later than frame `b` when (a − b) mod 65536 lies in 1 to 32767 (R75). -/
def FrameNo.later (a b : FrameNo) : Bool :=
  decide (1 ≤ (a - b).toNat) && decide ((a - b).toNat ≤ 32767)

/-- Frame `f` equals frame `e` or is later than it. -/
def FrameNo.reached (f e : FrameNo) : Bool := decide (f = e) || FrameNo.later f e

/-- A sum of a frame number and a lead, taken mod 65536 (R75). -/
def FrameNo.plus (f : FrameNo) (lead : Nat) : FrameNo := f + BitVec.ofNat 16 lead

/-- Every terminal number, ascending. -/
def allTerminals : List TermNo := List.finRange 256

/-- Every slot number, ascending. -/
def allSlots : List SlotNo := List.finRange 32

/-- Every carrier number, ascending. -/
def allCarriers : List CarrierNo := List.finRange 4

/-- An ascending list of terminal numbers turned so that it begins with the first number above the pointer and ends with
the pointer's own (R95, R149, R161). -/
def rotated (pointer : TermNo) (l : List TermNo) : List TermNo :=
  (l.filter fun t => decide (pointer < t)) ++ l.filter fun t => decide (t ≤ pointer)

/-- A result brought to the nearer bound of a range (R110, R134). -/
def clampTo (lo hi x : Int) : Int := if x < lo then lo else if hi < x then hi else x

/-! ### Records -/

/-- The record of terminal `t`. -/
def Sector.term (s : Sector) (t : TermNo) : Terminal := s.terms.read Terminal.powerOn t

/-- The sector with the record of terminal `t` changed by `f`. -/
def Sector.modTerm (s : Sector) (t : TermNo) (f : Terminal → Terminal) : Sector :=
  { s with terms := s.terms.write Terminal.powerOn t (f (s.term t)) }

/-- The record of carrier `c`. -/
def Sector.car (s : Sector) (c : CarrierNo) : Carrier := s.cars[c]

/-- The sector with the record of carrier `c` changed by `f`. -/
def Sector.modCar (s : Sector) (c : CarrierNo) (f : Carrier → Carrier) : Sector :=
  { s with cars := s.cars.set c (f s.cars[c]) }

/-- Entry `p` of the Profile Table. -/
def Sector.profile (s : Sector) (p : ProfileNo) : Profile := s.profiles[p]

/-- The carrier to which terminal `t` is bound. -/
def Sector.carrierOf (s : Sector) (t : TermNo) : CarrierNo := (s.term t).cfg.carrier

/-- Terminal `t` is configured and bound to carrier `c`. -/
def Sector.bound (s : Sector) (c : CarrierNo) (t : TermNo) : Bool :=
  (s.term t).cfg.configured && decide ((s.term t).cfg.carrier = c)

/-- The configured terminals bound to carrier `c`, ascending. -/
def Sector.boundTo (s : Sector) (c : CarrierNo) : List TermNo := allTerminals.filter (s.bound c)

/-- The configured terminals, ascending. -/
def Sector.configuredTerms (s : Sector) : List TermNo := allTerminals.filter fun t => (s.term t).cfg.configured

/-- The sector with the counters of terminal `t` changed by `f`. -/
def Sector.countTerm (s : Sector) (t : TermNo) (f : TermCounters → TermCounters) : Sector :=
  s.modTerm t fun r => { r with ctr := f r.ctr }

/-- The sector with the CSP counters of carrier `c` changed by `f`. -/
def Sector.countCsp (s : Sector) (c : CarrierNo) (f : CspCounters → CspCounters) : Sector :=
  s.modCar c fun k => { k with csp := f k.csp }

/-- The sector with the RES counters of carrier `c` changed by `f`. -/
def Sector.countRes (s : Sector) (c : CarrierNo) (f : ResCounters → ResCounters) : Sector :=
  s.modCar c fun k => { k with resCtr := f k.resCtr }

/-- The sector with the RNG counters of carrier `c` changed by `f`. -/
def Sector.countRng (s : Sector) (c : CarrierNo) (f : RngCounters → RngCounters) : Sector :=
  s.modCar c fun k => { k with rng := f k.rng }

/-- The sector with the DCP counters of carrier `c` changed by `f`. -/
def Sector.countDcp (s : Sector) (c : CarrierNo) (f : DcpCounters → DcpCounters) : Sector :=
  s.modCar c fun k => { k with dcpCtr := f k.dcpCtr }

/-- Records handed to the Modem Link, after those already handed (R10, R150, R158). -/
def Sector.handOut (s : Sector) (l : List MlOut) : Sector := { s with mlOut := s.mlOut ++ l }

/-! ### Slots (R79) -/

/-- The current kind of slot `slot` of a carrier. -/
def Carrier.slotUse (k : Carrier) (slot : SlotNo) : SlotUse := k.slots.read .opened slot

/-- The carrier with the current kind of `slot` set. -/
def Carrier.setSlot (k : Carrier) (slot : SlotNo) (u : SlotUse) : Carrier :=
  { k with slots := k.slots.write .opened slot u }

/-- The configured base kind of `slot`: REENTRY or OPEN (Table 4.1). -/
def CarrierConfig.baseKind (cfg : CarrierConfig) (slot : SlotNo) : SlotUse :=
  if cfg.base.getLsbD slot.val then .reentry else .opened

/-- The owner of a home slot: the configured terminal bound to `c` in whose home slot list `slot` stands (R79). -/
def Sector.homeOwner (s : Sector) (c : CarrierNo) (slot : SlotNo) : Option TermNo :=
  (s.boundTo c).find? fun t => (s.term t).cfg.homeSlots.contains slot

/-- A home slot of terminal `t` on carrier `c` whose current kind is LENT for `t`. -/
def Sector.lentTo (s : Sector) (c : CarrierNo) (slot : SlotNo) (t : TermNo) : Bool :=
  match (s.car c).slotUse slot with
  | .lent o _ => decide (o = t)
  | _ => false

/-- A slot LENT for `t` that bears the reclaim-pending mark. -/
def Sector.reclaiming (s : Sector) (c : CarrierNo) (slot : SlotNo) (t : TermNo) : Bool :=
  match (s.car c).slotUse slot with
  | .lent o true => decide (o = t)
  | _ => false

/-! ### Calendar cells (R76) -/

/-- The cell of `slot` in a row. -/
def Row.cell (r : Row) (slot : SlotNo) : Cell := r.cells.read .empty slot

/-- The row with the cell of `slot` set. -/
def Row.setCell (r : Row) (slot : SlotNo) (x : Cell) : Row := { r with cells := r.cells.write .empty slot x }

/-- The calendar row of upstream frame `u`, if the calendar has one. -/
def Carrier.row? (k : Carrier) (u : FrameNo) : Option Row := k.calendar.find? fun r => decide (r.frame = u)

/-- The calendar cell of upstream frame `u` and slot `slot`; a frame without a row has no cell and reads empty. -/
def Carrier.cell (k : Carrier) (u : FrameNo) (slot : SlotNo) : Cell :=
  match k.row? u with
  | some r => r.cell slot
  | none => .empty

/-- The carrier with the cell of frame `u` and slot `slot` set. -/
def Carrier.setCell (k : Carrier) (u : FrameNo) (slot : SlotNo) (x : Cell) : Carrier :=
  { k with calendar := k.calendar.map fun r => if r.frame = u then r.setCell slot x else r }

/-- The carrier with row `u` marked filled. -/
def Carrier.markFilled (k : Carrier) (u : FrameNo) : Carrier :=
  { k with calendar := k.calendar.map fun r => if r.frame = u then { r with filled := true } else r }

/-- The carrier with every cell removed and every row marked not filled (R70, R73, R74). -/
def Carrier.clearCalendar (k : Carrier) : Carrier :=
  { k with calendar := k.calendar.map fun r => { r with filled := false, cells := [] } }

/-- No row of the calendar holds a cell on `slot` (R81). -/
def Carrier.columnEmpty (k : Carrier) (slot : SlotNo) : Bool :=
  k.calendar.all fun r => decide (r.cell slot = .empty)

/-- The carrier with every cell on `slot` removed (R82). -/
def Carrier.clearColumn (k : Carrier) (slot : SlotNo) : Carrier :=
  { k with calendar := k.calendar.map fun r => r.setCell slot .empty }

/-- The grants whose cells stand on `slot`, oldest row first: upstream frame and grantee. -/
def Carrier.columnGrants (k : Carrier) (slot : SlotNo) : List (FrameNo × TermNo) :=
  k.calendar.filterMap fun r =>
    match r.cell slot with
    | .granted t _ => some (r.frame, t)
    | _ => none

end Sys2Proof.Machine
end

