-- ==== Sys2Proof/Machine/Flags.lean ====
section
/-! DEFINITION. Event sets, owed marks, and the notice test: the flags by which blocks tell management and the Directive
Composer what has happened. -/

namespace Sys2Proof.Machine

/-- The sector with its event sets changed by `f`. -/
def Sector.note (s : Sector) (f : EventSets → EventSets) : Sector := { s with events := f s.events }

/-- Terminal `t` joins STATE-CHANGE, unless it is there already (R34). -/
def EventSets.addStateChange (e : EventSets) (t : TermNo) : EventSets :=
  { e with stateChange := insertNo t e.stateChange }

/-- Carrier `c` joins CARRIER (R69). -/
def EventSets.addCarrier (e : EventSets) (c : CarrierNo) : EventSets :=
  { e with carrier := insertNo c e.carrier }

/-- Terminal `t` joins RANGE-FAIL (R115). -/
def EventSets.addRangeFail (e : EventSets) (t : TermNo) : EventSets :=
  { e with rangeFail := insertNo t e.rangeFail }

/-- Carrier `c` joins STORM (R89). -/
def EventSets.addStorm (e : EventSets) (c : CarrierNo) : EventSets :=
  { e with storm := insertNo c e.storm }

/-- Carrier `c` joins LIST-FULL (R165). -/
def EventSets.addListFull (e : EventSets) (c : CarrierNo) : EventSets :=
  { e with listFull := insertNo c e.listFull }

/-- STORE-LOW joins STORE (R145). -/
def EventSets.addStoreLow (e : EventSets) : EventSets := { e with storeLow := true }

/-- STORE-EXHAUSTED joins STORE (R145). -/
def EventSets.addStoreExhausted (e : EventSets) : EventSets := { e with storeExhausted := true }

/-- Some set whose class is enabled is not empty (R175). -/
def EventSets.enabledNonempty (e : EventSets) (n : NoticeEnables) : Bool :=
  (n.stateChange && !e.stateChange.isEmpty) || (n.carrier && !e.carrier.isEmpty) ||
  (n.rangeFail && !e.rangeFail.isEmpty) || (n.storm && !e.storm.isEmpty) ||
  (n.listFull && !e.listFull.isEmpty) || (n.store && (e.storeLow || e.storeExhausted))

/-- The sector with the owed marks of terminal `t` changed by `f`. -/
def Sector.modOwed (s : Sector) (t : TermNo) (f : OwedMarks → OwedMarks) : Sector :=
  s.modTerm t fun r => { r with owed := f r.owed }

/-- The sector after an event that began at `before`: terminal `t` is added to STATE-CHANGE when the event changed its
link state, once whatever states it passed through (R34). -/
def Sector.noteStateChange (before s : Sector) (t : TermNo) : Sector :=
  if (before.term t).link.state = (s.term t).link.state then s else s.note (·.addStateChange t)

end Sys2Proof.Machine
end

