-- ==== Sys2Proof/Machine/HeldStore.lean ====
section
/-! DEFINITION. The Held-Frame Store (Chapter 8): appending and dropping, aging, the release arbiter, back-pressure,
flushing. -/

namespace Sys2Proof.Machine

/-! ### Frames, queues and pools (R140, R141) -/

/-- The length of a frame given to the last byte of its check sequence (R7). -/
def frameLength (bytes : List Byte) : Nat := bytes.length

/-- The payload blocks a frame of length `len` occupies, ⌈len/256⌉ (R140). -/
def blocksFor (len : Nat) : Nat := (len + 255) / 256

/-- The block count of a held frame (R141). -/
def HeldFrame.blocks (h : HeldFrame) : Nat := blocksFor (frameLength h.bytes)

/-- The blocks of a list of held frames. -/
def blocksOf (q : List HeldFrame) : Nat := (q.map HeldFrame.blocks).sum

/-- The held frame count (Table 2.7). -/
def HoldFields.frames (h : HoldFields) : Nat := h.queue.length

/-- The held block count (Table 2.7). -/
def HoldFields.blocks (h : HoldFields) : Nat := blocksOf h.queue

/-- The sector with the release fields and held queue of terminal `t` changed by `f`. -/
def Sector.modHold (s : Sector) (t : TermNo) (f : HoldFields → HoldFields) : Sector :=
  s.modTerm t fun r => { r with hold := f r.hold }

/-- The sector with the HFS counters changed by `f`. -/
def Sector.countHfs (s : Sector) (f : HfsCounters → HfsCounters) : Sector := { s with hfs := f s.hfs }

/-- The sector with the descriptors and blocks of the frames `q` returned to the free pools (R140). -/
def Sector.giveBack (s : Sector) (q : List HeldFrame) : Sector :=
  { s with freeDescriptors := s.freeDescriptors + q.length, freeBlocks := s.freeBlocks + blocksOf q }

/-- Release state IDLE with yield count 0 (R147). -/
def HoldFields.toIdle (h : HoldFields) : HoldFields := { h with release := .idle, yieldCount := 0 }

/-- The release state an event that leaves the queue empty ends with (R147). -/
def HoldFields.idleIfEmpty (h : HoldFields) : HoldFields := if h.queue.isEmpty then h.toIdle else h

/-- Entering SERVING: RELEASING when the queue is not empty, IDLE when it is (R40, Table 8.2). -/
def HoldFields.startRelease (h : HoldFields) : HoldFields :=
  if h.queue.isEmpty then h.toIdle else { h with release := .releasing, yieldCount := 0 }

/-- Entering FADING: RELEASING, PAUSED or YIELDING becomes SUSPENDED (R41, Table 8.2). -/
def HoldFields.suspend (h : HoldFields) : HoldFields :=
  match h.release with
  | .idle => h
  | .suspended => h
  | .releasing => { h with release := .suspended, yieldCount := 0 }
  | .paused => { h with release := .suspended, yieldCount := 0 }
  | .yielding => { h with release := .suspended, yieldCount := 0 }

/-! ### Appending (R142 to R145) -/

/-- The frame of length `len` fits the quota of terminal `t` and the free pools (R142). -/
def Sector.fits (s : Sector) (t : TermNo) (len : Nat) : Bool :=
  decide ((s.term t).hold.frames < (s.term t).cfg.holdQuota) && decide (1 ≤ s.freeDescriptors) &&
  decide (blocksFor len ≤ s.freeBlocks)

/-- STORE-LOW after an append that found `before` free blocks (R145; for what an append under DROP-OLDEST finds, log 37). -/
def Sector.noteStoreLow (s : Sector) (before : Nat) : Sector :=
  if s.freeBlocks < s.storeLowMark then
    (if s.storeLowMark ≤ before then s.countHfs fun k => { k with storeLow := k.storeLow + 1 } else s).note
      (·.addStoreLow)
  else s

/-- The frame joins the tail of the queue of `t` (R142). The free block count "before the append", by which R145 tells a crossing
of the store low mark, is the count when the frame is appended: under DROP-OLDEST after the head discards of the same event, which
R144 and R145 leave open (DESIGN CHOICE, log 37). -/
def Sector.appendFrame (s : Sector) (t : TermNo) (bytes : List Byte) (arrival : FrameNo) : Sector :=
  let taken : Sector :=
    { s with freeDescriptors := s.freeDescriptors - 1
             freeBlocks := s.freeBlocks - blocksFor (frameLength bytes) }
  let held := taken.modHold t fun h => { h with queue := h.queue ++ [{ bytes := bytes, arrival := arrival, age := 0 }] }
  let counted := (held.countTerm t fun k => { k with framesHeld := k.framesHeld + 1 }).countHfs
    fun k => { k with appends := k.appends + 1 }
  counted.noteStoreLow s.freeBlocks

/-- The offered frame is discarded on arrival with cause QUOTA (R142, R143). -/
def Sector.arrivalQuota (s : Sector) (t : TermNo) : Sector :=
  (s.countTerm t fun k => { k with discardQuota := k.discardQuota + 1, arrivalQuota := k.arrivalQuota + 1 }).countHfs
    fun k => { k with arrivalQuota := k.arrivalQuota + 1 }

/-- The offered frame is discarded on arrival with cause POOL: an append failure (R143 to R145). -/
def Sector.arrivalPool (s : Sector) (t : TermNo) : Sector :=
  ((s.countTerm t fun k => { k with discardPool := k.discardPool + 1, arrivalPool := k.arrivalPool + 1 }).countHfs
    fun k => { k with arrivalPool := k.arrivalPool + 1, storeExhausted := k.storeExhausted + 1 }).note
      (·.addStoreExhausted)

/-- The head of the queue of `t` gives way under DROP-OLDEST: cause QUOTA when the held frame count is at or above the
quota, else POOL (R144). -/
def Sector.dropOldestHead (s : Sector) (t : TermNo) : Sector :=
  let r := s.term t
  let freed := (s.giveBack (r.hold.queue.take 1)).modHold t fun h => { h with queue := h.queue.drop 1 }
  if r.cfg.holdQuota ≤ r.hold.frames then
    (freed.countTerm t fun k => { k with discardQuota := k.discardQuota + 1 }).countHfs
      fun k => { k with heldQuota := k.heldQuota + 1 }
  else
    (freed.countTerm t fun k => { k with discardPool := k.discardPool + 1 }).countHfs
      fun k => { k with heldPool := k.heldPool + 1 }

/-- DROP-OLDEST makes room from the queue of `t` itself until the frame fits or the queue is empty; `heads` counts the
frames that may still give way (R144, R147). -/
def Sector.makeRoom (t : TermNo) (bytes : List Byte) (arrival : FrameNo) : Nat → Sector → Sector
  | 0, s =>
    if s.fits t (frameLength bytes) then s.appendFrame t bytes arrival
    else (s.arrivalPool t).modHold t HoldFields.idleIfEmpty
  | heads + 1, s =>
    if s.fits t (frameLength bytes) then s.appendFrame t bytes arrival
    else Sector.makeRoom t bytes arrival heads (s.dropOldestHead t)

/-- The frame is offered to the held queue of `t` (R142 to R144). -/
def Sector.offerFrame (s : Sector) (t : TermNo) (bytes : List Byte) (arrival : FrameNo) : Sector :=
  let r := s.term t
  if r.cfg.holdQuota = 0 then s.arrivalQuota t
  else if s.fits t (frameLength bytes) then s.appendFrame t bytes arrival
  else
    match r.cfg.dropPolicy with
    | .dropNew => if r.cfg.holdQuota ≤ r.hold.frames then s.arrivalQuota t else s.arrivalPool t
    | .dropOldest => s.makeRoom t bytes arrival r.hold.frames

/-! ### Emptying a queue (R154, R155) -/

/-- The whole queue of `t` leaves the store, its release state IDLE with yield count 0 (R147). -/
def Sector.emptyQueue (s : Sector) (t : TermNo) : Sector :=
  (s.giveBack (s.term t).hold.queue).modHold t fun h => { h.toIdle with queue := [] }

/-- FLUSH-HELD at terminal `t`: every held frame is discarded with cause FLUSH (R154). -/
def Sector.flush (s : Sector) (t : TermNo) : Sector :=
  let n : Counter := BitVec.ofNat 32 (s.term t).hold.frames
  ((s.emptyQueue t).countTerm t fun k => { k with discardFlush := k.discardFlush + n }).countHfs
    fun k => { k with heldFlush := k.heldFlush + n }

/-- Entering HELD: every held frame of `t` is discarded with cause STATE (R155). -/
def Sector.discardHeldQueue (s : Sector) (t : TermNo) : Sector :=
  let n : Counter := BitVec.ofNat 32 (s.term t).hold.frames
  ((s.emptyQueue t).countTerm t fun k =>
    { k with discardState := k.discardState + n, heldState := k.heldState + n }).countHfs
    fun k => { k with heldState := k.heldState + n }

/-! ### Aging (R146) -/

/-- A held frame whose age exceeds the hold age. -/
def HeldFrame.tooOld (holdAge : Nat) (h : HeldFrame) : Bool := decide (holdAge < h.age)

/-- The head frames of `t` whose age is above the hold age are discarded with cause AGE, one by one until the head is
not (R146); a queue so left empty sets the release state to IDLE (R147). -/
def Sector.ageDiscard (s : Sector) (t : TermNo) : Sector :=
  let r := s.term t
  let old := r.hold.queue.takeWhile (HeldFrame.tooOld r.cfg.holdAge)
  if old.isEmpty then s
  else
    let n : Counter := BitVec.ofNat 32 old.length
    (((s.giveBack old).modHold t fun h =>
      { h with queue := h.queue.dropWhile (HeldFrame.tooOld r.cfg.holdAge) }.idleIfEmpty).countTerm t
        fun k => { k with discardAge := k.discardAge + n }).countHfs fun k => { k with heldAge := k.heldAge + n }

/-- A frame start at the queue of `t`: every entry is one frame older, then the head is judged (R146). -/
def Sector.ageQueue (s : Sector) (t : TermNo) : Sector :=
  (s.modHold t fun h => { h with queue := h.queue.map fun e => { e with age := e.age + 1 } }).ageDiscard t

/-! ### Back-pressure (R151, R152) -/

/-- The end of the yield count: a YIELDING terminal's last count is taken and it becomes RELEASING (R152). -/
def HoldFields.yieldEnd (h : HoldFields) : HoldFields :=
  if h.release = .yielding ∧ h.yieldCount ≤ 1 then { h with release := .releasing, yieldCount := 0 } else h

/-- A frame start at a YIELDING terminal: the count is lowered by one, and at 0 the yield ends (R152). -/
def HoldFields.yieldTick (h : HoldFields) : HoldFields :=
  if h.release = .yielding then
    if h.yieldCount ≤ 1 then h.yieldEnd else { h with yieldCount := h.yieldCount - 1 }
  else h

/-- The pause flag of a good traffic burst, by release state and back-pressure mode (R151, Table 8.3). -/
def HoldFields.pauseFlag (mode : BackPressure) (period : Nat) (flag : Bool) (h : HoldFields) : HoldFields :=
  let pause := { h with release := .paused, yieldCount := 0 }
  let yieldAgain := { h with release := .yielding, yieldCount := period }
  let resume := { h with release := .releasing, yieldCount := 0 }
  match h.release, mode, flag with
  | .idle, _, _ => h
  | .suspended, _, _ => h
  | .releasing, .wait, true => pause
  | .releasing, .yielding, true => yieldAgain
  | .releasing, _, false => h
  | .paused, .wait, true => h
  | .paused, .yielding, true => yieldAgain
  | .paused, _, false => resume
  | .yielding, .wait, true => pause
  | .yielding, .wait, false => resume
  | .yielding, .yielding, true => yieldAgain
  | .yielding, .yielding, false => h

/-- The pause flag taken for terminal `t`, with its carrier's yield period as the record holds it now (R151). -/
def Sector.takePauseFlag (s : Sector) (t : TermNo) (flag : Bool) : Sector :=
  s.modHold t (HoldFields.pauseFlag (s.term t).cfg.backPressure (s.car (s.carrierOf t)).cfg.yieldPeriod flag)

/-! ### The release arbiter (R149, R150) -/

/-- The frames one visit may hand when `left` of the budget remain (R149). -/
def ReleaseBurst.limit (b : ReleaseBurst) (left : Nat) : Nat :=
  match b with
  | .one => min 1 left
  | .two => min 2 left
  | .four => min 4 left
  | .eight => min 8 left
  | .continuous => left

/-- The first `n` frames of the queue of `t` are handed to the Modem Link in queue order, labelled with `t` and its
carrier `c` (R150); a queue so left empty sets the release state to IDLE (R147). -/
def Sector.releaseFrames (s : Sector) (c : CarrierNo) (t : TermNo) (n : Nat) : Sector :=
  let out := (s.term t).hold.queue.take n
  let k : Counter := BitVec.ofNat 32 out.length
  let handed := ((s.giveBack out).modHold t fun h => { h with queue := h.queue.drop n }.idleIfEmpty)
  let counted := (handed.countTerm t fun x => { x with framesReleased := x.framesReleased + k }).countHfs
    fun x => { x with releases := x.releases + k }
  counted.handOut (out.map fun h => MlOut.downstream c t h.bytes)

/-- One visit of the arbiter: the sector, and what is left of the budget, after it (R149). -/
def releaseVisit (c : CarrierNo) (a : Sector × Nat) (t : TermNo) : Sector × Nat :=
  let r := a.1.term t
  if r.hold.release = .releasing then
    let n := min (r.cfg.releaseBurst.limit a.2) r.hold.frames
    if n = 0 then a
    else ((a.1.releaseFrames c t n).modCar c fun k => { k with releasePtr := t }, a.2 - n)
  else a

/-- The release arbiter of carrier `c` (R149). -/
def Sector.releaseArbiter (s : Sector) (c : CarrierNo) : Sector :=
  ((rotated (s.car c).releasePtr (s.boundTo c)).foldl (releaseVisit c) (s, (s.car c).cfg.releaseBudget)).1

/-- The HFS at a frame start of carrier `c`: aging, then the yield count-down, then the release arbiter (R148). -/
def Sector.hfsFrame (s : Sector) (c : CarrierNo) : Sector :=
  let terms := s.boundTo c
  let aged := terms.foldl Sector.ageQueue s
  let yielded := terms.foldl (fun x t => x.modHold t HoldFields.yieldTick) aged
  yielded.releaseArbiter c

end Sys2Proof.Machine
end

