-- ==== Sys2Proof/Config.lean ====
section
/-! DEFINITION. What the spec leaves open and the model leaves free: constants with no body. -/

namespace Sys2Proof

/-- Which of several failing fields a refusal names, when more than one field fails at the one check that gives the
status. R19, R68 and R176 say that the refusal names "the field whose check failed" and no more. The operand is the list
of the failing fields' codes, without repeats; the answer, taken modulo that list's length, picks one of them.
DESIGN CHOICE (log 7), safe: any of them may be named. -/
opaque Config.failingFieldChoice : List Nat → Nat

/-- The Ethernet check sequence of a frame, computed over its bytes from the destination address up to the check sequence.
R7, R13 and R169 have it computed anew and the spec gives no arithmetic for it, so its value is free. DESIGN CHOICE (log 6),
safe: nothing is said of it but that it depends on those bytes alone. Its 32 bits are Ethernet's, PRESUMED (log 33). -/
opaque Config.checkSequence : List Byte → BitVec 32

end Sys2Proof
end

