-- ==== Sys2Proof/WellFormed.lean ====
section
/-! DEFINITION. When a command's operands lie in the ranges the spec gives them (Tables 12.1 and 12.2). A slot outcome
outside them is a record R180 discards. -/

namespace Sys2Proof

/-- The burst's timing offset and SNR lie in the ranges of Table 12.2, as R180 requires. -/
def Burst.inRange (b : Burst) : Bool :=
  decide (-4096 ≤ b.offset) && decide (b.offset ≤ 4095) && decide (b.snr ≤ 100)

/-- A payload count of one byte and a length of two bytes for each payload frame (Table 12.2). -/
def BurstKind.inRange : BurstKind → Bool
  | .call _ _ => true
  | .trim _ => true
  | .traffic _ _ payload => decide (payload.length ≤ 255) && payload.all fun p => decide (p.length ≤ 65535)

/-- A slot outcome whose fields Tables 12.1 and 12.2 can carry. -/
def SlotResult.inRange : SlotResult → Bool
  | .empty => true
  | .garbled => true
  | .burst b => b.inRange && b.kind.inRange

/-- Well-formed commands: a slot outcome in range; a frame start naming no block twice. Every other operand is in its
range by its type. -/
def Instr.wellFormed : Instr → Bool
  | .slotOutcome _ _ _ o => o.inRange
  | .frameStart _ _ order => decide order.Nodup
  | .powerOnReset _ => true
  | .frameReceived _ _ => true
  | .unknownRequest => true
  | .readTerminal => true
  | .writeTerminal => true
  | .bindTag => true
  | .unbindTag => true
  | .readTag => true
  | .loadProfile => true
  | .readProfile => true
  | .writeCarrier => true
  | .readCarrier => true
  | .release => true
  | .hold => true
  | .forceState => true
  | .permit => true
  | .flushHeld => true
  | .readQueue => true
  | .readEvents => true
  | .setNotices => true
  | .readCounters => true
  | .setSector => true
  | .sectorReset => true
  | .carrierRestart => true
  | .discardedRecord _ => true
  | .recoveryPeriodReached _ => true
  | .reclaim _ _ => true
  | .lendCompare _ => true
  | .warmCompare _ => true
  | .fadeTimerExpiry _ => true
  | .guardExpiry _ => true
  | .admitWaitExpiry _ => true
  | .effectiveFrameReached _ => true
  | .applyFrameReached _ => true
  | .settleCountEnd _ => true
  | .yieldCountEnd _ => true
  | .ageDiscard _ => true
  | .carrierLost _ => true
  | .carrierFound _ => true
  | .listClose _ _ => true

end Sys2Proof
end

