-- ==== Sys2Proof/Machine/Operands.lean ====
section
/-! DEFINITION. The operands of commands as bytes: byte order, management headers and field sets, Modem Link records, and
the layouts of what the part sends (Chapter 12). -/

namespace Sys2Proof.Machine

/-! ### Byte order: most significant byte first (Chapter 12) -/

/-- The low `k` bytes of `n`, most significant first. -/
def beBytes : Nat → Nat → List Byte
  | 0, _ => []
  | k + 1, n => beBytes k (n / 256) ++ [BitVec.ofNat 8 n]

/-- A number of one byte. -/
def be8 (n : Nat) : List Byte := beBytes 1 n

/-- A number of two bytes. -/
def be16 (n : Nat) : List Byte := beBytes 2 n

/-- A number of four bytes. -/
def be32 (n : Nat) : List Byte := beBytes 4 n

/-- A signed number of one byte, two's complement. -/
def beInt8 (x : Int) : List Byte := [BitVec.ofInt 8 x]

/-- A signed number of two bytes, two's complement. -/
def beInt16 (x : Int) : List Byte := be16 (BitVec.ofInt 16 x).toNat

/-- The number a string of bytes spells, most significant first. -/
def beNat (l : List Byte) : Nat := l.foldl (fun a b => a * 256 + b.toNat) 0

/-- A flag or two-valued enumeration, coded by position: the first value 0, the second 1. -/
def bit (b : Bool) : List Byte := be8 (if b then 1 else 0)

/-- Byte `i` of a string, 0 beyond its end. -/
def byteAt (l : List Byte) (i : Nat) : Byte := l.getD i 0

/-- The `n` bytes of a string from byte `i`. -/
def bytesAt (l : List Byte) (i n : Nat) : List Byte := (l.drop i).take n

/-! ### Enumerations, coded by position (Chapter 12) -/

/-- Link state codes, 0 HELD to 7 GUARD (Table 12.6). -/
def LinkState.code : LinkState → Nat
  | .held => 0 | .dark => 1 | .called => 2 | .trimming => 3 | .admitting => 4 | .serving => 5 | .fading => 6 | .guard => 7

/-- The link state a code names (Table 12.6). -/
def LinkState.ofCode : Nat → Option LinkState
  | 0 => some .held | 1 => some .dark | 2 => some .called | 3 => some .trimming | 4 => some .admitting
  | 5 => some .serving | 6 => some .fading | 7 => some .guard | _ => none

/-- Cause codes in the order of Table 2.5. -/
def Cause.code : Cause → Nat
  | .none => 0 | .fade => 1 | .recall => 2 | .carrier => 3 | .rangeFail => 4 | .noPermit => 5 | .restart => 6 | .forced => 7

/-- Drop policy codes. -/
def DropPolicy.code : DropPolicy → Nat
  | .dropNew => 0 | .dropOldest => 1

/-- Back-pressure mode codes. -/
def BackPressure.code : BackPressure → Nat
  | .wait => 0 | .yielding => 1

/-- Release burst codes: 1, 2, 4 and 8 stand for themselves, 0 for CONTINUOUS (Section 12.4). -/
def ReleaseBurst.code : ReleaseBurst → Nat
  | .one => 1 | .two => 2 | .four => 4 | .eight => 8 | .continuous => 0

/-- The release burst a code names. -/
def ReleaseBurst.ofCode : Nat → Option ReleaseBurst
  | 0 => some .continuous | 1 => some .one | 2 => some .two | 4 => some .four | 8 => some .eight | _ => none

/-- Release state codes in the order of Table 2.7. -/
def ReleaseState.code : ReleaseState → Nat
  | .idle => 0 | .releasing => 1 | .paused => 2 | .yielding => 3 | .suspended => 4

/-- Trend codes (Section 12.3). -/
def Trend.code : Trend → Nat
  | .falling => 0 | .steady => 1 | .rising => 2 | .unknown => 3

/-- Direction codes in the order of Table 2.7. -/
def Direction.code : Direction → Nat
  | .stepDown => 0 | .stepUp => 1

/-- Modulation codes, 0 QPSK to 6 256-QAM. -/
def Modulation.code : Modulation → Nat
  | .qpsk => 0 | .psk8 => 1 | .qam16 => 2 | .qam32 => 3 | .qam64 => 4 | .qam128 => 5 | .qam256 => 6

/-- The modulation a code names. -/
def Modulation.ofCode : Nat → Option Modulation
  | 0 => some .qpsk | 1 => some .psk8 | 2 => some .qam16 | 3 => some .qam32 | 4 => some .qam64 | 5 => some .qam128
  | 6 => some .qam256 | _ => none

/-- Code rate codes, 0 for 1/2 to 4 for 9/10. -/
def CodeRate.code : CodeRate → Nat
  | .half => 0 | .twoThirds => 1 | .threeQuarters => 2 | .fiveSixths => 3 | .nineTenths => 4

/-- The code rate a code names. -/
def CodeRate.ofCode : Nat → Option CodeRate
  | 0 => some .half | 1 => some .twoThirds | 2 => some .threeQuarters | 3 => some .fiveSixths | 4 => some .nineTenths
  | _ => none

/-- Carrier state codes in the order of Table 4.2. -/
def CarrierState.code : CarrierState → Nat
  | .disabled => 0 | .down => 1 | .up => 2 | .recovering => 3

/-- Status codes, 0 DONE to 7 PARTIAL (Table 12.5). -/
def Status.code : Status → Nat
  | .done => 0 | .unknownRequest => 1 | .badSelector => 2 | .badValue => 3 | .wrongState => 4 | .conflict => 5
  | .inUse => 6 | .partially => 7

/-! ### Management frames (Section 12.4) -/

/-- The tag bytes of a management frame: 81-00, priority 0, one 0 bit, tag value 4095 (Section 12.4). R169 gives the priority
for a response; for a notice the spec states none, and 0 is the model's (DESIGN CHOICE, log 32). -/
def managementTag : List Byte := [0x81, 0x00, 0x0F, 0xFF]

/-- The request header and what follows it, of a frame given from its destination address and without its check
sequence; none when fewer than 8 bytes follow the type field (R168, R181, Table 12.5). -/
def Request.parse (frame : List Byte) : Option Request :=
  if frame.length < 26 then none
  else
    some
      { source := BitVec.ofNat 48 (beNat (bytesAt frame 6 6))
        code := byteAt frame 18
        kind := byteAt frame 19
        number := BitVec.ofNat 16 (beNat (bytesAt frame 20 2))
        value := BitVec.ofNat 16 (beNat (bytesAt frame 22 2))
        bodyLength := beNat (bytesAt frame 24 2)
        rest := frame.drop 26 }

/-- The body of a request: bytes that follow it are padding (R170). -/
def Request.body (r : Request) : List Byte := r.rest.take r.bodyLength

/-- A response or notice as bytes from its destination address up to its check sequence (Section 12.4). -/
def MgmtFrame.bytes (m : MgmtFrame) : List Byte :=
  beBytes 6 m.dest.toNat ++ beBytes 6 m.source.toNat ++ managementTag ++ [0x88, 0xB5] ++
  [m.code, m.kind] ++ be16 m.number.toNat ++ be16 m.value.toNat ++ be8 m.status.code ++ be16 m.body.length ++ m.body

/-- Bytes of a check sequence. The spec gives no number of them; four are Ethernet's, PRESUMED (log 33), unsafe. -/
def checkLength : Nat := 4

/-- A frame with its check sequence, computed over its bytes (R7, R13, R169; log 6). -/
def sealFrame (bytes : List Byte) : List Byte := bytes ++ beBytes checkLength (Config.checkSequence bytes).toNat

/-- Zero bytes placed before the check sequence, up to a length of 64 bytes with it (R7, R169). -/
def padFrame (bytes : List Byte) : List Byte := bytes ++ List.replicate (64 - checkLength - bytes.length) 0

/-- A response as it leaves the part: padded when shorter than 64 bytes (R169). -/
def MgmtFrame.responseBytes (m : MgmtFrame) : List Byte := sealFrame (padFrame m.bytes)

/-- A notice as it leaves the part (R175; log 18). -/
def MgmtFrame.noticeBytes (m : MgmtFrame) : List Byte := sealFrame m.bytes

/-! ### Field sets (Section 12.4) -/

/-- One entry of a field set. -/
structure FieldEntry where
  code : Nat
  value : List Byte
  deriving DecidableEq, Repr

/-- The entries of a field set and the bytes after them; none when an entry ends outside the body. -/
def parseEntries : Nat → List Byte → Option (List FieldEntry × List Byte)
  | 0, l => some ([], l)
  | n + 1, c :: len :: l =>
    if l.length < len.toNat then none
    else
      match parseEntries n (l.drop len.toNat) with
      | some (es, rest) => some ({ code := c.toNat, value := l.take len.toNat } :: es, rest)
      | none => none
  | _ + 1, [_] => none
  | _ + 1, [] => none

/-- A field set that fills the body exactly (Section 12.4). -/
def parseFieldSet : List Byte → Option (List FieldEntry)
  | [] => none
  | n :: l =>
    match parseEntries n.toNat l with
    | some (es, []) => some es
    | some (_, _ :: _) => none
    | none => none

/-- The entries of a read response as a field set (Section 12.4). -/
def fieldSetBytes (es : List FieldEntry) : List Byte :=
  be8 es.length ++ (es.map fun e => be8 e.code ++ be8 e.value.length ++ e.value).flatten

/-- Entries numbered by their position among the entries of a response, counted from `n` (Section 12.4). -/
def numberFrom : Nat → List (List Byte) → List FieldEntry
  | _, [] => []
  | n, v :: vs => { code := n, value := v } :: numberFrom (n + 1) vs

/-! ### Modem Link records from the modem (Section 12.1, R180) -/

/-- A record the modem may send. -/
inductive MlRecord
  | frameStart (c : CarrierNo) (f : FrameNo)
  | carrierLost (c : CarrierNo)
  | carrierFound (c : CarrierNo)
  | slotOutcome (c : CarrierNo) (u : FrameNo) (slot : SlotNo) (o : SlotResult)
  | listClose (c : CarrierNo) (g : FrameNo)
  deriving DecidableEq, Repr

/-- A carrier byte: 0 to 3. -/
def carrierByte (b : Byte) : Option CarrierNo := if h : b.toNat < 4 then some ⟨b.toNat, h⟩ else none

/-- A slot byte: 0 to 31. -/
def slotByte (b : Byte) : Option SlotNo := if h : b.toNat < 32 then some ⟨b.toNat, h⟩ else none

/-- A profile byte: 0 to 7. -/
def profileByte (b : Byte) : Option ProfileNo := if h : b.toNat < 8 then some ⟨b.toNat, h⟩ else none

/-- A flag byte: 0 or 1. -/
def flagByte (b : Byte) : Option Bool := if b = 0 then some false else if b = 1 then some true else none

/-- A terminal byte: every value names a terminal. -/
def termByte (b : Byte) : TermNo := ⟨b.toNat, b.isLt⟩

/-- The fragment byte: bit 4 the start mark, bits 3 to 0 the fragment (Table 12.2). -/
def fragmentByte (b : Byte) : Fragment := { start := b.getLsbD 4, bits := b.extractLsb' 0 4 }

/-- The payload frames of a traffic burst; none when the record ends before the last (Table 12.2). -/
def parsePayload : Nat → List Byte → Option (List (List Byte))
  | 0, _ => some []
  | n + 1, hi :: lo :: l =>
    if l.length < beNat [hi, lo] then none
    else (parsePayload n (l.drop (beNat [hi, lo]))).map fun ps => l.take (beNat [hi, lo]) :: ps
  | _ + 1, [_] => none
  | _ + 1, [] => none

/-- What a burst of kind code `k` carries beyond the fields all bursts have (Table 12.2). -/
def parseKind (k : Byte) (l : List Byte) : Option BurstKind :=
  if k = 0 then
    match l with
    | lock :: prof :: _ =>
      match flagByte lock, profileByte prof with
      | some a, some p => some (.call a p)
      | _, _ => none
    | _ => none
  else if k = 1 then
    match l with
    | x :: _ => some (.trim (fragmentByte x))
    | [] => none
  else if k = 2 then
    match l with
    | x :: pause :: n :: rest =>
      match flagByte pause, parsePayload n.toNat rest with
      | some p, some ps => some (.traffic (fragmentByte x) p ps)
      | _, _ => none
    | _ => none
  else none

/-- The burst header (Table 12.2), its timing offset and SNR in range (R180). -/
def parseBurst : List Byte → Option Burst
  | k :: t :: hi :: lo :: snr :: l =>
    match parseKind k l with
    | some kind =>
      let b : Burst := { claimed := termByte t, offset := (BitVec.ofNat 16 (beNat [hi, lo])).toInt, snr := snr.toNat
                         kind := kind }
      if b.inRange then some b else none
    | none => none
  | _ => none

/-- The outcome and, for BURST, its header (Table 12.1). -/
def parseResult : List Byte → Option SlotResult
  | o :: l =>
    if o = 0 then some .empty
    else if o = 1 then (parseBurst l).map .burst
    else if o = 2 then some .garbled
    else none
  | [] => none

/-- A record as the modem sends it; none for a record R180 discards. Bytes after the last field are not read. -/
def MlRecord.parse : List Byte → Option MlRecord
  | ty :: cb :: l =>
    match carrierByte cb with
    | none => none
    | some c =>
      if ty = 1 then
        match l with
        | hi :: lo :: _ => some (.frameStart c (BitVec.ofNat 16 (beNat [hi, lo])))
        | _ => none
      else if ty = 2 then some (.carrierLost c)
      else if ty = 3 then some (.carrierFound c)
      else if ty = 4 then
        match l with
        | hi :: lo :: sb :: rest =>
          match slotByte sb, parseResult rest with
          | some slot, some o => some (.slotOutcome c (BitVec.ofNat 16 (beNat [hi, lo])) slot o)
          | _, _ => none
        | _ => none
      else if ty = 5 then
        match l with
        | hi :: lo :: _ => some (.listClose c (BitVec.ofNat 16 (beNat [hi, lo])))
        | _ => none
      else none
  | _ => none

/-! ### Records to the modem (Sections 12.1 and 12.2) -/

/-- A directive as bytes (Table 12.4). -/
def Directive.bytes : Directive → List Byte
  | .trim t g correction power =>
    be8 1 ++ be8 t.val ++ be16 g.frame.toNat ++ be8 g.slot.val ++ beInt16 correction ++ beInt8 power
  | .profile t p m r apply =>
    be8 2 ++ be8 t.val ++ be8 p.val ++ be8 m.code ++ be8 r.code ++ be16 apply.toNat
  | .admission t e slots =>
    be8 3 ++ be8 t.val ++ be16 e.toNat ++ be8 slots.length ++ (slots.map fun x => be8 x.val).flatten
  | .halt t => be8 4 ++ be8 t.val

/-- The 32-bit value whose bit s is set when slot s is listed (Table 12.3). -/
def slotMask (l : List SlotNo) : Nat := (l.map fun x => 2 ^ x.val).sum

/-- A record to the modem: a directive list of type 7 (Table 12.3), or a downstream traffic frame of type 6 (Section 12.1). -/
def MlOut.bytes : MlOut → List Byte
  | .list l =>
    be8 7 ++ be8 l.carrier.val ++ be16 l.frame.toNat ++ be8 l.exponent ++ be32 (slotMask l.offered) ++
    be8 l.body.length ++ (l.body.map Directive.bytes).flatten
  | .downstream c t bytes => be8 6 ++ be8 c.val ++ be8 t.val ++ be16 bytes.length ++ bytes

end Sys2Proof.Machine
end

