-- ==== Sys2Proof/Machine/Notices.lean ====
section
/-! DEFINITION. Event sets as they are sent, and the notice test (R174, R175). -/

namespace Sys2Proof.Machine

/-- One event set as sent: its count, then its entries in ascending order (Table 12.7). -/
def eventSetBytes (l : List Nat) : List Byte := be16 l.length ++ (l.map be8).flatten

/-- The STORE set's entries: 0 STORE-LOW, 1 STORE-EXHAUSTED (Table 12.7). -/
def EventSets.storeEntries (e : EventSets) : List Nat :=
  (if e.storeLow then [0] else []) ++ if e.storeExhausted then [1] else []

/-- All six event sets as READ-EVENTS and a notice carry them (R174, Table 12.7). -/
def EventSets.bytes (e : EventSets) : List Byte :=
  eventSetBytes (e.stateChange.map Fin.val) ++ eventSetBytes (e.carrier.map Fin.val) ++
  eventSetBytes (e.rangeFail.map Fin.val) ++ eventSetBytes (e.storm.map Fin.val) ++
  eventSetBytes (e.listFull.map Fin.val) ++ eventSetBytes e.storeEntries

/-- The state with the sector changed by `f`. -/
def State.onSector (s : State) (f : Sector → Sector) : State := { s with sector := f s.sector }

/-- The state with the MGU counters changed by `f`. -/
def State.countMgu (s : State) (f : MguCounters → MguCounters) : State := { s with mgu := { s.mgu with ctr := f s.mgu.ctr } }

/-- A notice frame: code 255, selector kind SECTOR, request number and selector value 0, status DONE, all six sets
(R175, Section 12.4). -/
def State.noticeFrame (s : State) : MgmtFrame :=
  { dest := s.mgu.noticeDest, source := s.mgu.station, code := 255, kind := 3, number := 0, value := 0, status := .done
    body := s.sector.events.bytes }

/-- A notice is handed to the Network Port and counted, or waits for the response of the group request being taken
(R175). -/
def State.sendNotice (s : State) : State :=
  match s.mgu.taking with
  | none =>
    { s with npMgmt := s.npMgmt ++ [s.noticeFrame]
             mgu := { s.mgu with ctr := { s.mgu.ctr with notices := s.mgu.ctr.notices + 1 } } }
  | some g => { s with mgu := { s.mgu with taking := some { g with notices := g.notices ++ [s.noticeFrame] } } }

/-- The notice-outstanding flag is set (R175). -/
def State.flagNotice (s : State) : State := { s with mgu := { s.mgu with outstanding := true } }

/-- The notice test: when the flag is clear and an enabled set is not empty, one notice is sent and the flag is set
(R175). -/
def State.noticeTest (s : State) : State :=
  if s.mgu.outstanding = false ∧ s.sector.events.enabledNonempty s.mgu.enables = true then s.sendNotice.flagNotice else s

/-- An event of the link side, and the notice test after it when it added an entry to an event set (R175). -/
def State.event (s : State) (f : Sector → Sector) : State :=
  let after := s.onSector f
  if after.sector.events = s.sector.events then after else after.noticeTest

end Sys2Proof.Machine
end

