-- ==== Sys2Proof/Machine/Ladder.lean ====
section
/-! DEFINITION. The Profile Ladder (Chapter 7): report assembly, the margins, step-down and step-up decisions, the pending
profile and its application. -/

namespace Sys2Proof.Machine

/-- Every profile index, ascending. -/
def allProfiles : List ProfileNo := List.finRange 8

/-- The sector with the profile and report fields of terminal `t` changed by `f`. -/
def Sector.modLadder (s : Sector) (t : TermNo) (f : LadderFields → LadderFields) : Sector :=
  s.modTerm t fun r => { r with ladder := f r.ladder }

/-- The sector with the PLD counters changed by `f`. -/
def Sector.countPld (s : Sector) (f : PldCounters → PldCounters) : Sector := { s with pld := f s.pld }

/-- `p` is an enabled entry between the floor and the ceiling of a configuration (R50, R137). -/
def Sector.usable (s : Sector) (cfg : TermConfig) (p : ProfileNo) : Bool :=
  (s.profile p).enabled && decide (cfg.floor ≤ p) && decide (p ≤ cfg.ceiling)

/-- The enabled profiles below `c` and not below the floor, ascending (R130, R135). -/
def Sector.lowerProfiles (s : Sector) (floor c : ProfileNo) : List ProfileNo :=
  allProfiles.filter fun p => (s.profile p).enabled && decide (floor ≤ p) && decide (p < c)

/-! ### The pending profile (R133 to R136) -/

/-- A profile becomes pending with its apply frame absent, and a PROFILE is owed; a replaced pending profile is counted
(R130, R132, R135, R136). -/
def Sector.makePending (s : Sector) (t : TermNo) (p : ProfileNo) (d : Direction) : Sector :=
  let counted := if (s.term t).ladder.pending.isSome
    then s.countPld fun k => { k with pendingReplaced := k.pendingReplaced + 1 } else s
  counted.modTerm t fun r =>
    { r with ladder := { r.ladder with pending := some { target := p, direction := d, apply := none } }
             owed := { r.owed with profile := true } }

/-- The pending profile becomes absent and an owed PROFILE is cleared (R37, R137). -/
def Terminal.clearPending (r : Terminal) : Terminal :=
  { r with ladder := { r.ladder with pending := none }, owed := { r.owed with profile := false } }

/-- The PLD's part of entering DARK, GUARD or HELD (R37, R42, R43, R137). -/
def Terminal.ladderOut (r : Terminal) : Terminal :=
  { r with ladder := { r.ladder with pending := none, assembly := [], stepUp := 0 }
           owed := { r.owed with profile := false } }

/-- The PLD's part of entering CALLED (R38, R137). -/
def Terminal.ladderCalled (r : Terminal) : Terminal :=
  { r with ladder := { current := r.cfg.reentry }, owed := { r.owed with profile := false } }

/-- A margin carried over from a profile needing `old` to one needing `new` (R134). -/
def carryOver (old new : Nat) (m : Int) : Int := clampTo (-128) 127 (m + (old : Int) - (new : Int))

/-- The pending profile `p` of `t` is applied: the margins are carried over, the assembly cleared, the step counted
(R134). -/
def Sector.applyPending (s : Sector) (t : TermNo) (p : PendingProfile) : Sector :=
  let carry := carryOver (s.profile (s.term t).ladder.current).requiredSnr (s.profile p.target).requiredSnr
  let moved := s.modLadder t fun l =>
    { l with current := p.target, pending := none, assembly := [], stepUp := 0
             report := l.report.map fun x => { x with margin := carry x.margin }
             upMargin := l.upMargin.map carry }
  match p.direction with
  | .stepDown => (moved.countTerm t fun k => { k with stepsDown := k.stepsDown + 1 }).countPld
      fun k => { k with appliedDown := k.appliedDown + 1 }
  | .stepUp => (moved.countTerm t fun k => { k with stepsUp := k.stepsUp + 1 }).countPld
      fun k => { k with appliedUp := k.appliedUp + 1 }

/-- Frame `f` compared with the apply frame of the pending profile of `t` (R134). -/
def Sector.applyReached (f : FrameNo) (s : Sector) (t : TermNo) : Sector :=
  match (s.term t).ladder.pending with
  | some p =>
    match p.apply with
    | some a => if FrameNo.reached f a then s.applyPending t p else s
    | none => s
  | none => s

/-- The PLD at frame start `f` of carrier `c` (R134). -/
def Sector.pldFrame (s : Sector) (c : CarrierNo) (f : FrameNo) : Sector :=
  (s.boundTo c).foldl (Sector.applyReached f) s

/-! ### Ladder decisions (R129 to R132) -/

/-- The ladder margin: the lesser of the two margins, or the downstream margin alone (R129). -/
def ladderMargin (down : Int) (up : Option Int) : Int :=
  match up with
  | some u => min down u
  | none => down

/-- The margin over profile `p` of a terminal on profile `c` with ladder margin `m` (R129). -/
def Sector.marginOver (s : Sector) (m : Int) (c p : ProfileNo) : Int :=
  m + ((s.profile c).requiredSnr : Int) - ((s.profile p).requiredSnr : Int)

/-- The target of a step-down: the highest enabled lower profile whose margin over it reaches its down margin, else the
floor (R130). -/
def Sector.stepDownTarget (s : Sector) (m : Int) (floor c : ProfileNo) : ProfileNo :=
  (((s.lowerProfiles floor c).filter fun p => decide ((s.profile p).downMargin ≤ s.marginOver m c p)).getLast?).getD
    floor

/-- The step-up count of `t` becomes `n`. -/
def Sector.setStepUp (s : Sector) (t : TermNo) (n : Nat) : Sector := s.modLadder t fun l => { l with stepUp := n }

/-- A step-down judged for terminal `t` with ladder margin `m` (R130). -/
def Sector.judgeStepDown (s : Sector) (t : TermNo) (m : Int) : Sector :=
  let r := s.term t
  let z := s.setStepUp t 0
  if r.ladder.current ≤ r.cfg.floor then
    match r.ladder.pending with
    | some p => if p.direction = .stepUp then z.modTerm t Terminal.clearPending else z
    | none => z
  else
    let target := s.stepDownTarget m r.cfg.floor r.ladder.current
    match r.ladder.pending with
    | some p =>
      if p.direction = .stepDown ∧ p.target = target then z
      else (z.makePending t target .stepDown).countPld fun k => { k with stepDownDecisions := k.stepDownDecisions + 1 }
    | none =>
      (z.makePending t target .stepDown).countPld fun k => { k with stepDownDecisions := k.stepDownDecisions + 1 }

/-- The candidate of a step-up: the lowest enabled profile above `c` at or below the ceiling (R131). -/
def Sector.stepUpCandidate (s : Sector) (ceiling c : ProfileNo) : Option ProfileNo :=
  allProfiles.find? fun p => (s.profile p).enabled && decide (c < p) && decide (p ≤ ceiling)

/-- The report qualifies for candidate `p` (R131). -/
def Sector.qualifies (s : Sector) (m : Int) (c p : ProfileNo) (rep : Report) : Bool :=
  decide ((s.profile p).upMargin ≤ s.marginOver m c p) && decide (rep.trend ≠ .falling) &&
  decide ((s.profile p).neededHeadroom ≤ rep.headroom)

/-- A step-up judged for terminal `t` with ladder margin `m` (R131, R132). -/
def Sector.judgeStepUp (s : Sector) (t : TermNo) (m : Int) (rep : Report) : Sector :=
  let r := s.term t
  match s.stepUpCandidate r.cfg.ceiling r.ladder.current with
  | none => s.setStepUp t 0
  | some p =>
    if s.qualifies m r.ladder.current p rep then
      let n := min 63 (r.ladder.stepUp + 1)
      if (s.profile p).stepUpHold ≤ n then
        ((s.setStepUp t 0).makePending t p .stepUp).countPld fun k => { k with stepUpDecisions := k.stepUpDecisions + 1 }
      else s.setStepUp t n
    else s.setStepUp t 0

/-- The ladder decision of a report completed while `t` is SERVING (R129). -/
def Sector.ladderDecision (s : Sector) (t : TermNo) (rep : Report) : Sector :=
  let r := s.term t
  let m := ladderMargin rep.margin r.ladder.upMargin
  if m < (s.profile r.ladder.current).downMargin then s.judgeStepDown t m
  else if r.ladder.pending.isSome then s
  else s.judgeStepUp t m rep

/-! ### Report assembly (R125 to R128) -/

/-- The trend's code (Section 12.3). -/
def Trend.ofBits (b : BitVec 2) : Trend :=
  if b = 0 then .falling else if b = 1 then .steady else if b = 2 then .rising else .unknown

/-- The report of four fragments: bits 15 to 8 the margin, 7 and 6 the trend, 5 to 0 the headroom (Section 12.3). -/
def Report.ofFragments (a b c d : BitVec 4) : Report :=
  let bits : BitVec 16 := a ++ b ++ c ++ d
  { margin := (bits.extractLsb' 8 8).toInt, trend := Trend.ofBits (bits.extractLsb' 6 2)
    headroom := (bits.extractLsb' 0 6).toNat }

/-- A completed report of `t`: the three fields become present, and in SERVING it drives a ladder decision (R126). -/
def Sector.completeReport (s : Sector) (t : TermNo) (rep : Report) : Sector :=
  let done := (s.modLadder t fun l => { l with assembly := [], report := some rep }).countPld
    fun k => { k with reportsCompleted := k.reportsCompleted + 1 }
  if (s.term t).link.state = .serving then done.ladderDecision t rep else done

/-- A partial assembly of `t` is discarded and counted as a broken report (R125, R127); an empty one is left. -/
def Sector.breakAssembly (s : Sector) (t : TermNo) : Sector :=
  if (s.term t).ladder.assembly.isEmpty then s
  else
    ((s.modLadder t fun l => { l with assembly := [] }).countTerm t
      fun k => { k with brokenReports := k.brokenReports + 1 }).countPld
        fun k => { k with brokenReports := k.brokenReports + 1 }

/-- A report fragment taken into the assembly of `t` by its start mark and the count held (R125). -/
def Sector.takeFragment (s : Sector) (t : TermNo) (x : Fragment) : Sector :=
  if x.start then (s.breakAssembly t).modLadder t fun l => { l with assembly := [x.bits] }
  else
    match (s.term t).ladder.assembly with
    | [] => s.countPld fun k => { k with orphanFragments := k.orphanFragments + 1 }
    | [a, b, c] => s.completeReport t (Report.ofFragments a b c x.bits)
    | held => s.modLadder t fun l => { l with assembly := held ++ [x.bits] }

/-- The measured SNR of a good traffic burst sets the upstream margin of `t` (R128). -/
def Sector.takeSnr (s : Sector) (t : TermNo) (snr : Nat) : Sector :=
  s.modLadder t fun l => { l with upMargin := some ((snr : Int) - ((s.profile l.current).requiredSnr : Int)) }

/-! ### Fade step-down (R135) -/

/-- The PLD's part of entering FADING on a carrier whose fade step-down is yes (R135). -/
def Sector.fadeStepDown (s : Sector) (t : TermNo) : Sector :=
  let r := s.term t
  match (s.lowerProfiles r.cfg.floor r.ladder.current).getLast? with
  | none => s
  | some p =>
    match r.ladder.pending with
    | some q =>
      if q.direction = .stepDown then s
      else (s.makePending t p .stepDown).countPld fun k => { k with fadeStepDowns := k.fadeStepDowns + 1 }
    | none => (s.makePending t p .stepDown).countPld fun k => { k with fadeStepDowns := k.fadeStepDowns + 1 }

end Sys2Proof.Machine
end

