-- ==== Sys2Proof/Machine/Slots.lean ====
section
/-! DEFINITION. The slot plan and the collections of a carrier: lending, reclaim, the forced take (Section 4.4), withdrawn
and refunded grants (Section 5.6), the re-entry queue and the ranging set (Sections 5.3 and 5.4). -/

namespace Sys2Proof.Machine

/-- The sector with the link supervision fields of terminal `t` changed by `f`. -/
def Sector.modLink (s : Sector) (t : TermNo) (f : LinkFields → LinkFields) : Sector :=
  s.modTerm t fun r => { r with link := f r.link }

/-- The sector with the ranging fields of terminal `t` changed by `f`. -/
def Sector.modRange (s : Sector) (t : TermNo) (f : RangeFields → RangeFields) : Sector :=
  s.modTerm t fun r => { r with range := f r.range }

/-- The sector with the admission fields of terminal `t` changed by `f`. -/
def Sector.modAdm (s : Sector) (t : TermNo) (f : AdmissionFields → AdmissionFields) : Sector :=
  s.modTerm t fun r => { r with adm := f r.adm }

/-- The sector with the RES state of carrier `c` changed by `f`. -/
def Sector.modRes (s : Sector) (c : CarrierNo) (f : Scheduler → Scheduler) : Sector :=
  s.modCar c fun k => { k with res := f k.res }

/-! ### Lending and reclaim (R80, R81) -/

/-- A home slot of `t` that is TRAFFIC for `t` becomes LENT for `t`; any other is left (R80). -/
def SlotUse.lendFrom (t : TermNo) (u : SlotUse) : SlotUse := if u = .traffic t then .lent t false else u

/-- A slot LENT for `t` takes the reclaim-pending mark (R81). -/
def SlotUse.mark (t : TermNo) (u : SlotUse) : SlotUse :=
  match u with
  | .lent o _ => if o = t then .lent t true else u
  | _ => u

/-- A slot LENT for `t` loses the reclaim-pending mark and stays LENT (R36). -/
def SlotUse.unmark (t : TermNo) (u : SlotUse) : SlotUse :=
  match u with
  | .lent o _ => if o = t then .lent t false else u
  | _ => u

/-- The carrier with the current kinds of the slots listed changed by `f`. -/
def Carrier.mapSlots (k : Carrier) (f : SlotUse → SlotUse) (slots : List SlotNo) : Carrier :=
  slots.foldl (fun x slot => x.setSlot slot (f (x.slotUse slot))) k

/-- The home slots of `t` are lent (R80). -/
def Sector.lend (s : Sector) (t : TermNo) : Sector :=
  let cfg := (s.term t).cfg
  s.modCar cfg.carrier fun k => k.mapSlots (SlotUse.lendFrom t) cfg.homeSlots

/-- The lending check of entry into DARK or GUARD: the slots are lent when lend match taken is yes (R37, R42). -/
def Sector.lendingCheck (s : Sector) (t : TermNo) : Sector :=
  if (s.term t).link.lendTaken then s.lend t else s

/-- Some home slot of `t` bears the reclaim-pending mark. -/
def Sector.anyReclaiming (s : Sector) (t : TermNo) : Bool :=
  let cfg := (s.term t).cfg
  cfg.homeSlots.any fun slot => s.reclaiming cfg.carrier slot t

/-- Entering ADMITTING: each home slot LENT for `t` takes the mark, and the reclaim pending field says whether one has
it (R39, R81). -/
def Sector.startReclaim (s : Sector) (t : TermNo) : Sector :=
  let cfg := (s.term t).cfg
  let marked := s.modCar cfg.carrier fun k => k.mapSlots (SlotUse.mark t) cfg.homeSlots
  marked.modAdm t fun a => { a with reclaimPending := marked.anyReclaiming t }

/-- Leaving ADMITTING: the marks are lost, the slots stay LENT, the reclaim pending field becomes no (R36). -/
def Sector.stopReclaim (s : Sector) (t : TermNo) : Sector :=
  let cfg := (s.term t).cfg
  (s.modCar cfg.carrier fun k => k.mapSlots (SlotUse.unmark t) cfg.homeSlots).modAdm t
    fun a => { a with reclaimPending := false }

/-! ### Withdrawn and refunded grants (R98, R100) -/

/-- The cell of frame `g.frame` and slot `g.slot` is removed when it is GRANTED to `t`. -/
def Carrier.clearGrant (k : Carrier) (t : TermNo) (g : GrantRef) : Carrier :=
  match k.cell g.frame g.slot with
  | .granted o _ => if o = t then k.setCell g.frame g.slot .empty else k
  | _ => k

/-- The owed GRANT of `t` is withdrawn: cell and mark cleared, the attempt given back, the grant outstanding absent, the
settle count left (R98). Nothing is done when no GRANT is owed. -/
def Sector.withdraw (s : Sector) (t : TermNo) : Sector :=
  match (s.term t).owed.grant with
  | none => s
  | some g =>
    let c := s.carrierOf t
    ((s.modCar c fun k => k.clearGrant t g).modTerm t fun r =>
      { r with range := { r.range with attempts := r.range.attempts - 1, grant := none }
               owed := { r.owed with grant := none } }).countRes c
        fun k => { k with grantsWithdrawn := k.grantsWithdrawn + 1 }

/-- A grant to `t` whose cell for frame `u` and slot `slot` of carrier `c` a forced take removed is refunded (R100). "The
carrier" whose settle setting a sent grant takes is not named where the cell stands on a carrier that `t` has left while its new
grant names the same frame and slot: the model takes the removed cell's carrier, as for the counter (DESIGN CHOICE, log 36). -/
def Sector.refund (c : CarrierNo) (slot : SlotNo) (s : Sector) (g : FrameNo × TermNo) : Sector :=
  let counted := s.countRes c fun k => { k with grantsRefunded := k.grantsRefunded + 1 }
  let r := s.term g.2
  if r.range.grant = some { frame := g.1, slot := slot } then
    let settle := if r.owed.grant.isSome then r.range.settle else (s.car c).cfg.settle
    counted.modTerm g.2 fun r =>
      { r with range := { r.range with attempts := r.range.attempts - 1, grant := none, settle := settle }
               owed := { r.owed with grant := none } }
  else counted

/-- The forced take of one home slot of `t`: TRAFFIC for `t`, no mark, every cell on it removed and every grant among
them refunded (R82). -/
def Sector.takeSlot (c : CarrierNo) (t : TermNo) (s : Sector) (slot : SlotNo) : Sector :=
  let grants := (s.car c).columnGrants slot
  let taken := s.modCar c fun k => (k.clearColumn slot).setSlot slot (.traffic t)
  grants.foldl (Sector.refund c slot) taken

/-- The forced take of the home slots of `t` (R82). -/
def Sector.forcedTake (s : Sector) (t : TermNo) : Sector :=
  let cfg := (s.term t).cfg
  (cfg.homeSlots.foldl (Sector.takeSlot cfg.carrier t) s).modAdm t fun a => { a with reclaimPending := false }

/-- The calendar of carrier `c` is cleared without refunds, and each owed GRANT of its terminals with its cell (R73,
R101). -/
def Sector.clearCalendar (s : Sector) (c : CarrierNo) : Sector :=
  (s.boundTo c).foldl (fun x t => if (x.term t).owed.grant.isSome then x.modOwed t fun o => { o with grant := none } else x)
    (s.modCar c Carrier.clearCalendar)

/-! ### The re-entry queue and the ranging set (R90 to R92) -/

/-- Entry `e` comes before `x`: better class, or the same class and made earlier (R90). -/
def QueueEntry.before (e x : QueueEntry) : Bool :=
  decide (e.cls < x.cls) || (decide (e.cls = x.cls) && decide (e.stamp < x.stamp))

/-- An entry put in its place (R90). -/
def enqueue (e : QueueEntry) : List QueueEntry → List QueueEntry
  | [] => [e]
  | x :: q => if e.before x then e :: x :: q else x :: enqueue e q

/-- Terminal `t` enters its carrier's re-entry queue by its class, the last of it (R38, R90). -/
def Sector.joinQueue (s : Sector) (t : TermNo) (lastProfile : ProfileNo) : Sector :=
  let cfg := (s.term t).cfg
  s.modRes cfg.carrier fun q =>
    { q with queue := enqueue { terminal := t, cls := cfg.cls, lastProfile := lastProfile, stamp := q.nextOrder } q.queue
             nextOrder := q.nextOrder + 1 }

/-- The entry of `t` is removed from its carrier's re-entry queue (R36, R91). -/
def Sector.leaveQueue (s : Sector) (t : TermNo) : Sector :=
  s.modRes (s.carrierOf t) fun q => { q with queue := q.queue.filter fun e => decide (e.terminal ≠ t) }

/-- The entry of `t` takes its new class and moves there by its unchanged acceptance order (R26, R90). -/
def Scheduler.reclass (t : TermNo) (cls : Fin 4) (q : Scheduler) : Scheduler :=
  match q.queue.find? fun e => decide (e.terminal = t) with
  | none => q
  | some e =>
    { q with queue := enqueue { e with cls := cls } (q.queue.filter fun x => decide (x.terminal ≠ t)) }

/-- A repeated call's last-profile value replaces that of the entry of `t` (R87). -/
def Scheduler.setLastProfile (t : TermNo) (p : ProfileNo) (q : Scheduler) : Scheduler :=
  { q with queue := q.queue.map fun e => if e.terminal = t then { e with lastProfile := p } else e }

/-- The free places of the pool all four queues draw on (R91). -/
def Sector.freePlaces (s : Sector) : Nat :=
  256 - (allCarriers.map fun c => (s.car c).res.queue.length).sum

/-- Terminal `t` joins its carrier's ranging set (R92). -/
def Sector.joinRanging (s : Sector) (t : TermNo) : Sector :=
  s.modRes (s.carrierOf t) fun q => { q with ranging := insertNo t q.ranging }

/-- Terminal `t` is removed from its carrier's ranging set (R36, R92). -/
def Sector.leaveRanging (s : Sector) (t : TermNo) : Sector :=
  s.modRes (s.carrierOf t) fun q => { q with ranging := q.ranging.filter fun x => decide (x ≠ t) }

end Sys2Proof.Machine
end

