-- ==== Sys2Proof/Machine/Link.lean ====
section
/-! DEFINITION. The Link Supervisor (Chapter 3): the effects of leaving and entering each link state, and the events that
move a terminal between them. -/

namespace Sys2Proof.Machine

/-! ### Leaving a state (R36) -/

/-- How a terminal leaves a state, as far as R36 and R115 tell the ways apart. -/
inductive Departure
  /-- An event of the terminal's own progress: a grant taken, convergence, failure, a timer, a burst, a call. -/
  | progress
  /-- HOLD or FORCE-STATE: an unsent grant is withdrawn. -/
  | request
  /-- Carrier loss or CARRIER-RESTART: the calendar is cleared without refunds. -/
  | calendar
  deriving DecidableEq, Repr

/-- Leaving TRIMMING (R36): out of the ranging set, an unsent grant withdrawn on a request, the grant outstanding absent;
an exchange that neither converged nor failed is counted as ended (R115). -/
def Sector.leaveTrimming (s : Sector) (t : TermNo) (how : Departure) : Sector :=
  let out := s.leaveRanging t
  let ended := match how with
    | .progress => out
    | .request => (out.withdraw t).countRng (s.carrierOf t) fun k => { k with ended := k.ended + 1 }
    | .calendar => (out.modOwed t fun o => { o with grant := none }).countRng (s.carrierOf t)
        fun k => { k with ended := k.ended + 1 }
  ended.modRange t fun g => { g with grant := none }

/-- The effects of leaving the present link state (R36). -/
def Sector.leave (s : Sector) (t : TermNo) (how : Departure) : Sector :=
  match (s.term t).link.state with
  | .held => s
  | .dark => s
  | .serving => s
  | .called => s.leaveQueue t
  | .trimming => s.leaveTrimming t how
  | .admitting =>
    (s.stopReclaim t).modTerm t fun r =>
      { r with adm := { r.adm with sent := none }, owed := { r.owed with admission := false } }
  | .fading => s.modLink t fun l => { l with fadeOn := false }
  | .guard => s.modLink t fun l => { l with guardOn := false }

/-! ### Entering a state (R37 to R43) -/

/-- Service states from which an outage begins: SERVING, FADING and HELD (R44). -/
def LinkState.startsOutage : LinkState → Bool
  | .serving => true
  | .fading => true
  | .held => true
  | .dark => false
  | .called => false
  | .trimming => false
  | .admitting => false
  | .guard => false

/-- SERVING or FADING. -/
def LinkState.inService : LinkState → Bool
  | .serving => true
  | .fading => true
  | .held => false
  | .dark => false
  | .called => false
  | .trimming => false
  | .admitting => false
  | .guard => false

/-- The outage counter is reset to 0 and started with its two compares; a compare whose active copy is 0 is reached at
once (R28, R44, R45). -/
def LinkFields.startOutage (cfg : TermConfig) (l : LinkFields) : LinkFields :=
  { l with outage := 0, outageOn := true, lendActive := cfg.lendDelay, warmActive := cfg.warmLimit
           lendTaken := decide (cfg.lendDelay = 0), warmClosed := decide (cfg.warmLimit = 0) }

/-- The record of a terminal entering DARK from `old` (R37, R66, R137). -/
def Terminal.toDark (old : LinkState) (r : Terminal) : Terminal :=
  let l := if old.startsOutage then r.link.startOutage r.cfg else r.link
  { r.ladderOut with link := { l with state := .dark }, hold := r.hold.toIdle
                     owed := { r.owed with profile := false, admission := false } }

/-- Entering DARK from `old` (R37). -/
def Sector.enterDark (s : Sector) (t : TermNo) (old : LinkState) : Sector :=
  (s.modTerm t (Terminal.toDark old)).lendingCheck t

/-- The record of a terminal entering CALLED by a call with this kept-lock flag (R38, R66). -/
def Terminal.toCalled (keptLock : Bool) (r : Terminal) : Terminal :=
  { r.ladderCalled with link := { r.link with state := .called, keptLock := keptLock, repeatCalls := 0 }
                        owed := { r.owed with profile := false, halt := false, admission := false } }

/-- Entering CALLED (R38). -/
def Sector.enterCalled (s : Sector) (t : TermNo) (keptLock : Bool) (lastProfile : ProfileNo) : Sector :=
  (s.joinQueue t lastProfile).modTerm t (Terminal.toCalled keptLock)

/-- The record of a terminal entering SERVING (R40, R66, R137). -/
def Terminal.toServing (r : Terminal) : Terminal :=
  { r with link := { r.link with state := .serving, outageOn := false, fadeMisses := 0 }
           ladder := { r.ladder with upMargin := none, stepUp := 0 }
           hold := r.hold.startRelease
           owed := { r.owed with halt := false } }

/-- Entering SERVING (R40). -/
def Sector.enterServing (s : Sector) (t : TermNo) : Sector := s.modTerm t Terminal.toServing

/-- The record of a terminal entering FADING (R41, R137). -/
def Terminal.toFading (r : Terminal) : Terminal :=
  { r with link := { r.link with state := .fading, fadeMisses := 1, fadeOn := true, fadeCount := 0
                                 fadeActive := r.cfg.fadeTimeout }
           ladder := { r.ladder with stepUp := 0 }
           hold := r.hold.suspend
           ctr := { r.ctr with fades := r.ctr.fades + 1 } }

/-- Entering FADING (R41). -/
def Sector.enterFading (s : Sector) (t : TermNo) : Sector :=
  let entered := s.modTerm t Terminal.toFading
  if (s.car (s.carrierOf t)).cfg.fadeStepDown then entered.fadeStepDown t else entered

/-- The record of a terminal entering GUARD (R42, R66, R137). -/
def Terminal.toGuard (r : Terminal) : Terminal :=
  { r.ladderOut with link := { r.link with state := .guard, permit := false, guardOn := true, guardCount := 0
                                           guardActive := r.cfg.guardPeriod }
                     hold := r.hold.toIdle
                     owed := { r.owed with profile := false, admission := false } }

/-- Entering GUARD (R42). -/
def Sector.enterGuard (s : Sector) (t : TermNo) : Sector := (s.modTerm t Terminal.toGuard).lendingCheck t

/-- The record of a terminal entering HELD, but for its held queue (R43, R66, R137). -/
def Terminal.toHeld (r : Terminal) : Terminal :=
  { r.ladderOut with link := { r.link with state := .held, outageOn := false, permit := false, fadeMisses := 0 }
                     range := { r.range with stored := none }
                     owed := { r.owed with profile := false, admission := false } }

/-- Entering HELD (R43, R155): the queue is discarded with cause STATE and the home slots are taken. -/
def Sector.enterHeld (s : Sector) (t : TermNo) : Sector :=
  ((s.modTerm t Terminal.toHeld).discardHeldQueue t).forcedTake t

/-- The last cause of `t` is set (R35). -/
def Sector.setCause (s : Sector) (t : TermNo) (x : Cause) : Sector := s.modLink t fun l => { l with cause := x }

/-- A HALT is owed to `t` (R66). -/
def Sector.oweHalt (s : Sector) (t : TermNo) : Sector := s.modOwed t fun o => { o with halt := true }

/-- A HALT is owed when `t` was taken out of service (R66). -/
def Sector.oweHaltFrom (s : Sector) (t : TermNo) (old : LinkState) : Sector :=
  if old.inService then s.oweHalt t else s

/-- An event that the forced mark suppresses is counted and changes no link state (R52). -/
def Sector.suppress (s : Sector) (t : TermNo) : Sector :=
  s.countTerm t fun k => { k with suppressed := k.suppressed + 1 }

/-! ### Admission conditions (R59) -/

/-- The admission conditions of `t`: no home slot LENT, no reclaim pending, and permission in hand (R59). -/
def Sector.admissible (s : Sector) (t : TermNo) : Bool :=
  let r := s.term t
  !(r.cfg.homeSlots.any fun slot => s.lentTo r.cfg.carrier slot t) && !r.adm.reclaimPending &&
  (r.link.permit || r.cfg.autoAdmit)

/-- The LSV examines the admission conditions of an ADMITTING terminal with no ADMIT owed or sent; when they are met an
ADMIT is owed, and a permit that was the permission is used up (R59). -/
def Sector.examineAdmission (s : Sector) (t : TermNo) : Sector :=
  let r := s.term t
  if r.link.state = .admitting ∧ r.owed.admission = false ∧ r.adm.sent = none ∧ s.admissible t = true then
    s.modTerm t fun r =>
      { r with owed := { r.owed with admission := true }
               link := { r.link with permit := r.link.permit && r.cfg.autoAdmit } }
  else s

/-- Entering ADMITTING (R39, R137): a current profile the table no longer allows becomes the re-entry profile, the home
slots are reclaimed, and the conditions are examined. -/
def Sector.enterAdmitting (s : Sector) (t : TermNo) : Sector :=
  let ok := s.usable (s.term t).cfg (s.term t).ladder.current
  let entered := s.modTerm t fun r =>
    { r with link := { r.link with state := .admitting }
             adm := { wait := 0, reclaimPending := false, sent := none }
             ladder := { r.ladder with current := if ok then r.ladder.current else r.cfg.reentry, stepUp := 0 } }
  (entered.startReclaim t).examineAdmission t

/-! ### Requests (R46 to R51) -/

/-- HOLD at terminal `t` (R48). -/
def Sector.hold (s : Sector) (t : TermNo) : Sector :=
  let old := (s.term t).link.state
  if old = .held then s
  else Sector.noteStateChange s (((s.leave t .request).enterHeld t).oweHaltFrom t old) t

/-- RELEASE at terminal `t` (R47): the forced mark is cleared; a HELD terminal, and a GUARD terminal whose guard timer has
stopped, enter DARK. -/
def Sector.releaseTerm (s : Sector) (t : TermNo) : Sector :=
  let l := (s.term t).link
  let clear := s.modLink t fun l => { l with forced := false }
  if l.state = .held ∨ (l.state = .guard ∧ l.guardOn = false) then
    Sector.noteStateChange s ((clear.leave t .request).enterDark t l.state) t
  else clear

/-- The target a FORCE-STATE takes from the state its body names (R49). -/
def LinkState.forceTarget : LinkState → LinkState
  | .held => .held
  | .guard => .guard
  | .serving => .serving
  | .dark => .dark
  | .called => .dark
  | .trimming => .dark
  | .admitting => .dark
  | .fading => .dark

/-- The profile step of a forced SERVING: a current or pending profile stays only when it is an enabled entry between
floor and ceiling (R50). -/
def Sector.fixProfiles (s : Sector) (t : TermNo) : Sector :=
  let r := s.term t
  let current := if s.usable r.cfg r.ladder.current then r.ladder.current else r.cfg.reentry
  let keep := match r.ladder.pending with
    | some p => s.usable r.cfg p.target
    | none => true
  let set := s.modLadder t fun l => { l with current := current }
  if keep then set else set.modTerm t Terminal.clearPending

/-- The link state set by a FORCE-STATE from `old` to a target it does not have (R49, R50). -/
def Sector.forceTo (s : Sector) (t : TermNo) (old target : LinkState) : Sector :=
  let left := s.leave t .request
  match target with
  | .held => (left.enterHeld t).oweHaltFrom t old
  | .guard =>
    let through := if old.startsOutage then left.enterDark t old else left
    (through.enterGuard t).oweHaltFrom t old
  | .serving =>
    (((left.forcedTake t).fixProfiles t).modOwed t fun o => { o with admission := true }).enterServing t
  | .dark => (left.enterDark t old).oweHaltFrom t old
  | .called => s
  | .trimming => s
  | .admitting => s
  | .fading => s

/-- FORCE-STATE at terminal `t` (R49): the state set, the mark set, the last cause FORCED. -/
def Sector.force (s : Sector) (t : TermNo) (named : LinkState) : Sector :=
  let old := (s.term t).link.state
  let target := named.forceTarget
  let moved := if old = target then s else Sector.noteStateChange s (s.forceTo t old target) t
  moved.modLink t fun l => { l with forced := true, cause := .forced }

/-- PERMIT at a terminal that is not HELD: the flag is set, and in ADMITTING the conditions are examined (R51). -/
def Sector.permitTerm (s : Sector) (t : TermNo) : Sector :=
  (s.modLink t fun l => { l with permit := true }).examineAdmission t

/-! ### Calls (R52 to R54, R62, R87) -/

/-- The guard timer starts again from the setting (R28, R62). -/
def Terminal.restartGuard (r : Terminal) : Terminal :=
  { r with link := { r.link with guardOn := true, guardCount := 0, guardActive := r.cfg.guardPeriod } }

/-- Recall: a call for a terminal in service takes it through DARK to CALLED (R54). -/
def Sector.recall (s : Sector) (t : TermNo) (keptLock : Bool) (lastProfile : ProfileNo) : Sector :=
  let old := (s.term t).link.state
  Sector.noteStateChange s
    (((((s.setCause t .recall).leave t .progress).enterDark t old)).enterCalled t keptLock lastProfile) t

/-- An accepted call at terminal `t` of carrier `c` by its link state (R52, R53, Table 3.4). -/
def Sector.callAccepted (s : Sector) (c : CarrierNo) (t : TermNo) (keptLock : Bool) (lastProfile : ProfileNo) : Sector :=
  let l := (s.term t).link
  let ignored := s.countTerm t fun k => { k with ignoredCalls := k.ignoredCalls + 1 }
  if l.forced then
    if l.state = .dark ∨ l.state = .serving then ignored.suppress t else ignored
  else
    match l.state with
    | .held => ignored
    | .trimming => ignored
    | .admitting => ignored
    | .dark => Sector.noteStateChange s ((s.leave t .progress).enterCalled t keptLock lastProfile) t
    | .called =>
      ((s.countTerm t fun k => { k with repeatCalls := k.repeatCalls + 1 }).modLink t
        fun l => { l with repeatCalls := min 255 (l.repeatCalls + 1), keptLock := keptLock }).modRes c
          (Scheduler.setLastProfile t lastProfile)
    | .serving => s.recall t keptLock lastProfile
    | .fading => s.recall t keptLock lastProfile
    | .guard =>
      let hit := s.countTerm t fun k => { k with guardHits := k.guardHits + 1 }
      if (s.car c).cfg.guardRestart then hit.modTerm t Terminal.restartGuard else hit

/-! ### Bursts and misses (R55, R56) -/

/-- The LSV takes a good traffic burst of `t`: a FADING terminal returns to SERVING (R55). -/
def Sector.lsvGoodBurst (s : Sector) (t : TermNo) : Sector :=
  let l := (s.term t).link
  if l.state = .fading ∧ l.forced = false then
    Sector.noteStateChange s ((s.leave t .progress).enterServing t) t
  else s

/-- FADING ends in DARK with last cause FADE (R56, R57). -/
def Sector.fadeOut (s : Sector) (t : TermNo) : Sector :=
  Sector.noteStateChange s ((((s.setCause t .fade).leave t .progress)).enterDark t .fading) t

/-- The LSV takes a miss in a home slot of `t` (R56, R52). -/
def Sector.lsvMiss (s : Sector) (t : TermNo) : Sector :=
  let l := (s.term t).link
  let counted := s.countTerm t fun k => { k with misses := k.misses + 1 }
  if l.forced then counted.suppress t
  else
    match l.state with
    | .serving => Sector.noteStateChange s (counted.enterFading t) t
    | .fading =>
      let n := min 15 (l.fadeMisses + 1)
      let more := counted.modLink t fun l => { l with fadeMisses := n }
      if (s.term t).cfg.fadeMissLimit ≤ n then more.fadeOut t else more
    | .held => s
    | .dark => s
    | .called => s
    | .trimming => s
    | .admitting => s
    | .guard => s

/-! ### Counts at a frame start (R44, R45, R57, R60 to R62) -/

/-- The lend compare: at the lend delay lend match taken becomes yes, and an absent terminal's home slots are lent, but
not in ADMITTING (R45). -/
def Sector.lendCompare (s : Sector) (t : TermNo) : Sector :=
  let l := (s.term t).link
  if l.outageOn = true ∧ l.outage = l.lendActive ∧ l.lendTaken = false then
    let taken := s.modLink t fun l => { l with lendTaken := true }
    match l.state with
    | .dark => taken.lend t
    | .called => taken.lend t
    | .trimming => taken.lend t
    | .guard => taken.lend t
    | .admitting => taken
    | .held => taken
    | .serving => taken
    | .fading => taken
  else s

/-- The warm compare: at the warm limit warm closed becomes yes (R45). -/
def Sector.warmCompare (s : Sector) (t : TermNo) : Sector :=
  let l := (s.term t).link
  if l.outageOn = true ∧ l.outage = l.warmActive ∧ l.warmClosed = false then
    s.modLink t fun l => { l with warmClosed := true }
  else s

/-- The fade timer's expiry (R57). -/
def Sector.fadeExpiry (s : Sector) (t : TermNo) : Sector :=
  let l := (s.term t).link
  if l.state = .fading ∧ l.fadeOn = true ∧ l.fadeActive ≤ l.fadeCount then
    if l.forced then (s.suppress t).modLink t fun l => { l with fadeOn := false } else s.fadeOut t
  else s

/-- The guard timer's expiry (R62); under the forced mark it is counted and the timer stops (R52). -/
def Sector.guardEnd (s : Sector) (t : TermNo) : Sector :=
  let l := (s.term t).link
  if l.state = .guard ∧ l.guardOn = true ∧ l.guardActive ≤ l.guardCount then
    if l.forced then (s.suppress t).modLink t fun l => { l with guardOn := false }
    else Sector.noteStateChange s ((s.leave t .progress).enterDark t .guard) t
  else s

/-- The admit wait's expiry (R60). -/
def Sector.admitExpiry (s : Sector) (t : TermNo) : Sector :=
  let r := s.term t
  if r.link.state = .admitting ∧ r.adm.sent = none ∧ (s.car r.cfg.carrier).cfg.admitWaitLimit ≤ r.adm.wait then
    if r.link.forced then s.suppress t
    else
      Sector.noteStateChange s ((((s.setCause t .noPermit).leave t .progress).enterGuard t).oweHalt t) t
  else s

/-- Frame `f` compared with the effective frame of an ADMITTING terminal's ADMIT (R61). -/
def Sector.effectiveReached (s : Sector) (f : FrameNo) (t : TermNo) : Sector :=
  let r := s.term t
  match r.adm.sent with
  | none => s
  | some e =>
    if r.link.state = .admitting ∧ FrameNo.reached f e = true then
      if r.link.forced then s.suppress t
      else Sector.noteStateChange s ((s.leave t .progress).enterServing t) t
    else s

/-- The outage counter takes one frame, saturating (R44). -/
def LinkFields.outageTick (l : LinkFields) : LinkFields :=
  if l.outageOn then { l with outage := min 16777215 (l.outage + 1) } else l

/-- The fade timer takes one frame in FADING (R57). -/
def LinkFields.fadeTick (l : LinkFields) : LinkFields :=
  if l.state = .fading ∧ l.fadeOn = true then { l with fadeCount := l.fadeCount + 1 } else l

/-- The guard timer takes one frame in GUARD (R62). -/
def LinkFields.guardTick (l : LinkFields) : LinkFields :=
  if l.state = .guard ∧ l.guardOn = true then { l with guardCount := l.guardCount + 1 } else l

/-- The admit wait count takes one frame in ADMITTING until the ADMIT is sent (R60). -/
def Terminal.admitTick (r : Terminal) : Terminal :=
  if r.link.state = .admitting ∧ r.adm.sent = none then { r with adm := { r.adm with wait := r.adm.wait + 1 } } else r

/-- The LSV at frame start `f` for terminal `t`: the outage counter and its compares, then the fade timer, the guard
timer, the admit wait, and the effective frame (log 10). -/
def Sector.lsvFrame (s : Sector) (f : FrameNo) (t : TermNo) : Sector :=
  let outage := ((s.modLink t LinkFields.outageTick).lendCompare t).warmCompare t
  let fade := (outage.modLink t LinkFields.fadeTick).fadeExpiry t
  let guarded := (fade.modLink t LinkFields.guardTick).guardEnd t
  let waited := (guarded.modTerm t Terminal.admitTick).admitExpiry t
  waited.effectiveReached f t

/-! ### Carrier loss and restart (R63, R64) -/

/-- A state in which carrier loss takes the terminal to DARK: CALLED to FADING (R63). -/
def LinkState.lostWithCarrier : LinkState → Bool
  | .called => true
  | .trimming => true
  | .admitting => true
  | .serving => true
  | .fading => true
  | .held => false
  | .dark => false
  | .guard => false

/-- Terminal `t` enters DARK with its carrier's loss or restart (R63, R64). -/
def Sector.darkWithCarrier (s : Sector) (t : TermNo) : Sector :=
  let old := (s.term t).link.state
  Sector.noteStateChange s ((s.leave t .calendar).enterDark t old) t

/-- Carrier loss at terminal `t` (R63, R52). -/
def Sector.lossAt (s : Sector) (t : TermNo) : Sector :=
  let l := (s.term t).link
  if l.state.lostWithCarrier then
    if l.forced then s.suppress t else (s.setCause t .carrier).darkWithCarrier t
  else s

/-- CARRIER-RESTART at terminal `t` (R64). -/
def Sector.restartAt (s : Sector) (t : TermNo) : Sector :=
  let l := (s.term t).link
  if l.state = .held then s
  else
    let marked := s.modLink t fun l => { l with forced := false, cause := .restart }
    if l.state = .dark then marked else marked.darkWithCarrier t

end Sys2Proof.Machine
end

