-- ==== Sys2Proof/Machine/Ranging.lean ====
section
/-! DEFINITION. The Ranging Unit (Chapter 6): the outcome of a granted slot, measurements and their judgement, convergence
and failure, and the settle count. -/

namespace Sys2Proof.Machine

/-- What the CSP hands the RNG for a grantee: its own trim burst, or a miss (R84, R77). -/
inductive TrimOutcome
  | trim (offset : Int) (snr : Nat) (fragment : Fragment)
  | miss
  deriving DecidableEq, Repr

/-- A slot outcome as the RNG sees it for grantee `t`: a trim burst claiming `t`, or a miss in every other case (R84). -/
def TrimOutcome.ofResult (t : TermNo) (o : SlotResult) : TrimOutcome :=
  match o with
  | .burst b =>
    match b.kind with
    | .trim x => if b.claimed = t then .trim b.offset b.snr x else .miss
    | .call _ _ => .miss
    | .traffic _ _ _ => .miss
  | .empty => .miss
  | .garbled => .miss

/-- The exchange of `t` converges: the correction is stored and the LSV takes `t` to ADMITTING (R113, R58). -/
def Sector.converge (s : Sector) (c : CarrierNo) (t : TermNo) : Sector :=
  let stored := (s.modRange t fun g => { g with stored := some g.correction }).countRng c
    fun k => { k with convergences := k.convergences + 1 }
  Sector.noteStateChange s ((stored.leave t .progress).enterAdmitting t) t

/-- The exchange of `t` fails: the stored correction becomes absent, RANGE-FAIL is noted, and the LSV takes `t` to GUARD
with a HALT owed (R115, R58). -/
def Sector.failExchange (s : Sector) (c : CarrierNo) (t : TermNo) : Sector :=
  let failed := (((s.modRange t fun g => { g with stored := none }).countTerm t
    fun k => { k with rangingFailures := k.rangingFailures + 1 }).countRng c
      fun k => { k with failures := k.failures + 1 }).note (·.addRangeFail t)
  Sector.noteStateChange s ((((failed.setCause t .rangeFail).leave t .progress).enterGuard t).oweHalt t) t

/-- An attempt ends unconverged: failure at the attempt limit, else the settle phase begins (R112). -/
def Sector.endUnconverged (s : Sector) (c : CarrierNo) (t : TermNo) : Sector :=
  let cfg := (s.car c).cfg
  if cfg.trimLimit ≤ (s.term t).range.attempts then s.failExchange c t
  else s.modRange t fun g => { g with settle := cfg.settle }

/-- A current outcome taken as a miss (R111, R127). -/
def Sector.rangingMiss (s : Sector) (c : CarrierNo) (t : TermNo) : Sector :=
  ((s.breakAssembly t).countRng c fun k => { k with misses := k.misses + 1 }).endUnconverged c t

/-- The ranging fields after a measurement against the target SNR: count and record, correction, power step (R110). -/
def RangeFields.measure (target : Nat) (offset : Int) (snr : Nat) (g : RangeFields) : RangeFields :=
  { g with measured := g.measured + 1
           last := some { offset := offset, snr := snr }
           correction := clampTo (-4096) 4095 (g.correction - offset)
           power := clampTo (-12) 12 ((target : Int) - (snr : Int)) }

/-- A measurement within the fine window and the power window (R111). -/
def CarrierConfig.withinWindows (cfg : CarrierConfig) (offset : Int) (snr : Nat) : Bool :=
  decide (offset.natAbs ≤ cfg.fineWindow) && decide (((snr : Int) - (cfg.targetSnr : Int)).natAbs ≤ cfg.powerWindow)

/-- A measurement that does not converge leaves a warm exchange cold (R111). -/
def Sector.fallBack (s : Sector) (c : CarrierNo) (t : TermNo) : Sector :=
  if (s.term t).range.warm then
    (s.modRange t fun g => { g with warm := false }).countRng c fun k => { k with warmFallbacks := k.warmFallbacks + 1 }
  else s

/-- A trim burst taken as a measurement (R110, R111). -/
def Sector.measurement (s : Sector) (c : CarrierNo) (t : TermNo) (offset : Int) (snr : Nat) (x : Fragment) : Sector :=
  let cfg := (s.car c).cfg
  let recorded := (s.modRange t (RangeFields.measure cfg.targetSnr offset snr)).countRng c
    fun k => { k with measurements := k.measurements + 1 }
  let taken := recorded.takeFragment t x
  let g := (taken.term t).range
  if g.warm = true ∨ 2 ≤ g.measured then
    if cfg.withinWindows offset snr then taken.converge c t
    else (taken.fallBack c t).endUnconverged c t
  else taken.endUnconverged c t

/-- A current outcome ends the measure phase of the attempt of `t` (R108, R109). -/
def Sector.currentOutcome (s : Sector) (c : CarrierNo) (t : TermNo) (o : TrimOutcome) : Sector :=
  let taken := ((s.modRange t fun g => { g with grant := none }).countTerm t
    fun k => { k with rangingAttempts := k.rangingAttempts + 1 }).countRng c
      fun k => { k with outcomes := k.outcomes + 1 }
  match o with
  | .miss => taken.rangingMiss c t
  | .trim offset snr x =>
    if (s.car c).cfg.searchWindow < offset.natAbs then
      ((taken.countTerm t fun k => { k with rangingOverflows := k.rangingOverflows + 1 }).countRng c
        fun k => { k with overflows := k.overflows + 1 }).rangingMiss c t
    else taken.measurement c t offset snr x

/-- A stale outcome is counted and changes nothing else (R116). -/
def Sector.staleOutcome (s : Sector) (c : CarrierNo) (t : TermNo) (o : TrimOutcome) : Sector :=
  match o with
  | .trim _ _ _ =>
    let late := s.countRng c fun k => { k with lateTrims := k.lateTrims + 1 }
    if (s.term t).cfg.configured then late.countTerm t fun k => { k with lateTrims := k.lateTrims + 1 } else late
  | .miss => s.countRng c fun k => { k with staleOutcomes := k.staleOutcomes + 1 }

/-- The outcome of a grant whose GRANT was never sent: the grant is taken back and nothing is judged (R117). -/
def Sector.unsentOutcome (s : Sector) (c : CarrierNo) (t : TermNo) : Sector :=
  (s.modTerm t fun r =>
    { r with range := { r.range with attempts := r.range.attempts - 1, grant := none }
             owed := { r.owed with grant := none } }).countRng c
      fun k => { k with unsentOutcomes := k.unsentOutcomes + 1 }

/-- The outcome of a GRANTED cell for frame `u` and slot `slot` of carrier `c`, sorted by the grantee's own fields into
current, unsent and stale (R107). A cell may stand on a carrier its grantee has left for another and still name the frame and
slot of its grant there: which carrier is "the carrier" of R108 to R117 is not stated, and the model takes the grantee's own,
whose exchange it is, so that the sums of R120 hold, and the cell's for a stale outcome (DESIGN CHOICE, log 34). -/
def Sector.rngOutcome (s : Sector) (c : CarrierNo) (u : FrameNo) (slot : SlotNo) (t : TermNo) (o : TrimOutcome) :
    Sector :=
  let r := s.term t
  if r.link.state = .trimming ∧ r.range.grant = some { frame := u, slot := slot } then
    if r.owed.grant.isSome then s.unsentOutcome r.cfg.carrier t else s.currentOutcome r.cfg.carrier t o
  else s.staleOutcome c t o

/-- The settle count's last count-down: a TRIMMING terminal's count of 1 becomes 0, and it is eligible for a grant
(R114, R95). -/
def Terminal.settleEnd (r : Terminal) : Terminal :=
  if r.link.state = .trimming ∧ r.range.settle = 1 then { r with range := { r.range with settle := 0 } } else r

/-- A frame start at the settle count of a TRIMMING terminal (R114). -/
def Terminal.settleTick (r : Terminal) : Terminal :=
  if r.link.state = .trimming ∧ 1 < r.range.settle then
    { r with range := { r.range with settle := r.range.settle - 1 } }
  else r.settleEnd

/-- The RNG at a frame start of carrier `c` (R114). -/
def Sector.rngFrame (s : Sector) (c : CarrierNo) : Sector :=
  (s.boundTo c).foldl (fun x t => x.modTerm t Terminal.settleTick) s

/-- The RNG begins an exchange: the ranging fields afresh, the correction from the stored one when warm (R106, R30). -/
def RangeFields.begin (warm : Bool) (g : RangeFields) : RangeFields :=
  { stored := g.stored, warm := warm, correction := if warm then g.stored.getD 0 else 0 }

end Sys2Proof.Machine
end

