-- ==== Sys2Proof/Machine/Scheduler.lean ====
section
/-! DEFINITION. The Re-entry Scheduler (Chapter 5): calls, the backoff window and exponent, the grant arbiter. -/

namespace Sys2Proof.Machine

/-! ### The backoff window (R88, R89) -/

/-- An outcome joins the newest end of the window; a 65th entry pushes out the oldest (R88). -/
def pushWindow (w : List OfferOutcome) (x : OfferOutcome) : List OfferOutcome :=
  (w ++ [x]).drop (w.length + 1 - 64)

/-- The outcome `x` of an offered call slot joins the window of carrier `c` (R88). -/
def Sector.offerOutcome (s : Sector) (c : CarrierNo) (x : OfferOutcome) : Sector :=
  s.modRes c fun q => { q with window := pushWindow q.window x }

/-- An EMPTY outcome of an offered slot, or an offered cell retired unconsumed (R88). -/
def Sector.quietOffer (s : Sector) (c : CarrierNo) : Sector :=
  (s.offerOutcome c .empty).countRes c fun k => { k with quietOffers := k.quietOffers + 1 }

/-- A collision in an offered slot (R88). -/
def Sector.collision (s : Sector) (c : CarrierNo) : Sector :=
  (s.offerOutcome c .garbled).countRes c fun k => { k with collisions := k.collisions + 1 }

/-- The GARBLED entries among the newest `w` of a window (R89). -/
def garbledCount (w : Nat) (l : List OfferOutcome) : Nat :=
  ((l.drop (l.length - w)).filter fun x => decide (x = .garbled)).length

/-- The exponent after a count of GARBLED entries (R89). -/
def nextExponent (cfg : CarrierConfig) (count e : Nat) : Nat :=
  if cfg.backoffHigh ≤ count then min 7 (e + 1) else if count ≤ cfg.backoffLow then e - 1 else e

/-- The RES changes the backoff exponent at a frame start of a carrier in UP or RECOVERING; a rise from 6 to 7 is a storm
(R89). -/
def Sector.backoff (s : Sector) (c : CarrierNo) : Sector :=
  let k := s.car c
  if k.state = .up ∨ k.state = .recovering then
    let e := nextExponent k.cfg (garbledCount k.cfg.backoffWindow k.res.window) k.res.exponent
    let set := s.modRes c fun q => { q with exponent := e }
    if k.res.exponent = 6 ∧ e = 7 then
      (set.countRes c fun x => { x with storms := x.storms + 1 }).note (·.addStorm c)
    else set
  else s

/-! ### Calls (R87) -/

/-- A call burst from an offered call slot of carrier `c`: accepted or stray, and CALL in the window (R87, R88). -/
def Sector.takeCall (s : Sector) (c : CarrierNo) (t : TermNo) (keptLock : Bool) (lastProfile : ProfileNo) : Sector :=
  let seen := s.offerOutcome c .call
  if s.bound c t then
    ((seen.countRes c fun k => { k with callsAccepted := k.callsAccepted + 1 }).countTerm t
      fun k => { k with callsAccepted := k.callsAccepted + 1 }).callAccepted c t keptLock lastProfile
  else seen.countRes c fun k => { k with strayCalls := k.strayCalls + 1 }

/-- An outcome whose cell held OFFERED-CALL (R84). -/
def Sector.offeredOutcome (s : Sector) (c : CarrierNo) (o : SlotResult) : Sector :=
  match o with
  | .empty => s.quietOffer c
  | .garbled => s.collision c
  | .burst b =>
    match b.kind with
    | .call keptLock lastProfile => s.takeCall c b.claimed keptLock lastProfile
    | .trim _ => s.collision c
    | .traffic _ _ _ => s.collision c

/-! ### The grant arbiter (R94 to R97, R99) -/

/-- A slot is LENT and bears no reclaim-pending mark (R76). -/
def SlotUse.lentUnmarked : SlotUse → Bool
  | .lent _ false => true
  | .lent _ true => false
  | .opened => false
  | .reentry => false
  | .traffic _ => false

/-- The slots still available in row `r`: REENTRY before LENT without a mark, each ascending, with an empty cell (R76,
R78). -/
def Carrier.available (k : Carrier) (r : FrameNo) : List SlotNo :=
  (allSlots.filter fun x => decide (k.slotUse x = .reentry) && decide (k.cell r x = .empty)) ++
  allSlots.filter fun x => (k.slotUse x).lentUnmarked && decide (k.cell r x = .empty)

/-- A grant to `t` in slot `slot` of row `r` (R97). -/
def Sector.grantTo (s : Sector) (c : CarrierNo) (r : FrameNo) (t : TermNo) (slot : SlotNo) : Sector :=
  let n := (s.term t).range.attempts + 1
  ((s.modCar c fun k => k.setCell r slot (.granted t n)).modTerm t fun x =>
    { x with range := { x.range with attempts := n, grant := some { frame := r, slot := slot } }
             owed := { x.owed with grant := some { frame := r, slot := slot } } }).countRes c
      fun k => { k with grantsPlaced := k.grantsPlaced + 1 }

/-- A member of the ranging set is eligible (R95). -/
def Sector.eligible (s : Sector) (t : TermNo) : Bool :=
  decide ((s.term t).range.grant = none) && decide ((s.term t).range.settle = 0)

/-- One member's turn in step 1: the sector and what is left of the pace (R95). -/
def grantMember (c : CarrierNo) (r : FrameNo) (a : Sector × Nat) (t : TermNo) : Sector × Nat :=
  if a.2 = 0 then a
  else if a.1.eligible t then
    match ((a.1.car c).available r).head? with
    | none => a
    | some slot => ((a.1.grantTo c r t slot).modRes c fun q => { q with rotation := t }, a.2 - 1)
  else a

/-- Step 1: the eligible members from the rotation pointer (R95). -/
def Sector.grantMembers (s : Sector) (c : CarrierNo) (r : FrameNo) (pace : Nat) : Sector × Nat :=
  (rotated (s.car c).res.rotation (s.car c).res.ranging).foldl (grantMember c r) (s, pace)

/-- The warm or cold choice (R99). -/
def Terminal.warmChoice (r : Terminal) : Bool :=
  r.link.keptLock && !r.link.warmClosed && r.range.stored.isSome

/-- The queue head `t` is taken: TRIMMING, the ranging set, the choice, the exchange, its first grant (R96, R106). -/
def Sector.takeHead (s : Sector) (c : CarrierNo) (r : FrameNo) (t : TermNo) (slot : SlotNo) : Sector :=
  let warm := (s.term t).warmChoice
  let moved := (s.modRes c fun q => { q with queue := q.queue.tail, ranging := insertNo t q.ranging }).countRes c
    fun k => { k with terminalsTaken := k.terminalsTaken + 1 }
  let begun := (moved.modTerm t fun x =>
    { x with link := { x.link with state := .trimming }
             ladder := { x.ladder with stepUp := 0 }
             range := x.range.begin warm }).countRng c fun k =>
      if warm then { k with warmExchanges := k.warmExchanges + 1 } else { k with coldExchanges := k.coldExchanges + 1 }
  (Sector.noteStateChange s begun t).grantTo c r t slot

/-- Step 2: queue heads, while pace, a slot and room in the set remain (R96). -/
def Sector.takeHeads (c : CarrierNo) (r : FrameNo) : Nat → Sector → Sector
  | 0, s => s
  | pace + 1, s =>
    match (s.car c).res.queue, ((s.car c).available r).head? with
    | e :: _, some slot =>
      if (s.car c).res.ranging.length < (s.car c).cfg.rangingSize then
        Sector.takeHeads c r pace (s.takeHead c r e.terminal slot)
      else s
    | [], _ => s
    | _ :: _, none => s

/-- The grant arbiter for row `r` (R94). -/
def Sector.grantArbiter (s : Sector) (c : CarrierNo) (r : FrameNo) (pace : Nat) : Sector :=
  let a := s.grantMembers c r pace
  Sector.takeHeads c r a.2 a.1

/-- The grant pace in force: the pace limit in UP, the recovery pace in RECOVERING (R94, R162). -/
def Carrier.pace (k : Carrier) : Nat := if k.state = .recovering then k.cfg.recoveryPace else k.cfg.paceLimit

/-- The call offers a row may carry: the offer limit in UP, the recovery offer in RECOVERING (R78). -/
def Carrier.offers (k : Carrier) : Nat := if k.state = .recovering then k.cfg.recoveryOffer else k.cfg.offerLimit

/-- Row `r` is filled: grants, then offers, then its mark (R78). -/
def Sector.fillRow (s : Sector) (c : CarrierNo) (r : FrameNo) : Sector :=
  let granted := s.grantArbiter c r (s.car c).pace
  let slots := ((granted.car c).available r).take (s.car c).offers
  granted.modCar c fun k => (slots.foldl (fun x slot => x.setCell r slot .offered) k).markFilled r

/-- The fill of frame start `f`: in UP or RECOVERING, the row at grant lead ahead when it is not yet filled (R69, R77,
R78). -/
def Sector.fillAt (s : Sector) (c : CarrierNo) (f : FrameNo) : Sector :=
  let k := s.car c
  let r := FrameNo.plus f k.cfg.grantLead
  if k.state = .up ∨ k.state = .recovering then
    match k.row? r with
    | some row => if row.filled then s else s.fillRow c r
    | none => s
  else s

end Sys2Proof.Machine
end

