-- ==== Sys2Proof/Machine/FrameStart.lean ====
section
/-! DEFINITION. Carrier states and frame starts (Sections 4.2 to 4.4): recovery, the calendar window, reclaim, the fill, and
the whole frame start with every block's counts; and the rows for the ends of those counts. -/

namespace Sys2Proof.Machine

/-! ### Carrier state (R69 to R74) -/

/-- Carrier `c` enters state `x`; a change adds `c` to CARRIER (R69). -/
def Sector.setCarrierState (s : Sector) (c : CarrierNo) (x : CarrierState) : Sector :=
  let set := s.modCar c fun k => { k with state := x }
  if (s.car c).state = x then set else set.note (·.addCarrier c)

/-- The end of recovery: at or above the recovery period a RECOVERING carrier enters UP (R72). -/
def Sector.recoveryEnd (s : Sector) (c : CarrierNo) : Sector :=
  let k := s.car c
  if k.state = .recovering ∧ k.cfg.recoveryPeriod ≤ k.recovery then s.setCarrierState c .up else s

/-- A frame start of a RECOVERING carrier: the recovery count advances and is compared (R72). -/
def Sector.recoveryFrame (s : Sector) (c : CarrierNo) : Sector :=
  if (s.car c).state = .recovering then
    (s.modCar c fun k => { k with recovery := k.recovery + 1 }).recoveryEnd c
  else s

/-- A carrier-lost indication (R73, R63). -/
def Sector.carrierLost (s : Sector) (c : CarrierNo) : Sector :=
  let counted := s.countCsp c fun k => { k with carrierLost := k.carrierLost + 1 }
  let st := (s.car c).state
  if st = .up ∨ st = .recovering then
    let down := ((counted.setCarrierState c .down).clearCalendar c).modCar c fun k => { k with recovery := 0 }
    (down.boundTo c).foldl Sector.lossAt down
  else counted

/-- A carrier-found indication (R71). -/
def Sector.carrierFound (s : Sector) (c : CarrierNo) : Sector :=
  let counted := s.countCsp c fun k => { k with carrierFound := k.carrierFound + 1 }
  if (s.car c).state = .down then
    (counted.setCarrierState c .recovering).modCar c fun k => { k with recovery := 0 }
  else counted

/-! ### The calendar window (R76, R77) -/

/-- Frame `u` lies in the window of current frame `f`: `f` to `f` + 15. -/
def inWindow (f u : FrameNo) : Bool := decide ((u - f).toNat ≤ 15)

/-- The sixteen rows of current frame `f`: those the calendar has, and empty rows not filled for the rest (R77). -/
def Carrier.windowAt (k : Carrier) (f : FrameNo) : List Row :=
  (emptyCalendar f).map fun blank => (k.row? blank.frame).getD blank

/-- The cells of the rows outside the window, oldest row first: frame, slot and cell (R77). -/
def Carrier.expiring (k : Carrier) (f : FrameNo) : List (FrameNo × SlotNo × Cell) :=
  ((k.calendar.filter fun r => !inWindow f r.frame).map fun r =>
    r.cells.map fun e => (r.frame, e.1, e.2)).flatten

/-- A retired cell is handed on: an offer as EMPTY, a grant as a miss for its grantee (R77). -/
def Sector.expireCell (c : CarrierNo) (s : Sector) (x : FrameNo × SlotNo × Cell) : Sector :=
  match x.2.2 with
  | .empty => s
  | .offered => (s.countCsp c fun k => { k with expiredCells := k.expiredCells + 1 }).quietOffer c
  | .granted t _ =>
    (s.countCsp c fun k => { k with expiredCells := k.expiredCells + 1 }).rngOutcome c x.1 x.2.1 t .miss

/-- The frame start and, when its number is not one more than the last, the slip are counted; the last frame number becomes
`f` and the rows those of its window (R77). -/
def Carrier.moveTo (f : FrameNo) (k : Carrier) : Carrier :=
  { k with lastFrame := f, calendar := k.windowAt f
           csp := { k.csp with frameStarts := k.csp.frameStarts + 1
                               frameSlips := if f = k.lastFrame + 1 then k.csp.frameSlips else k.csp.frameSlips + 1 } }

/-- Steps 1 and 2 of a frame start: the frame count and the window (R77). -/
def Sector.moveWindow (s : Sector) (c : CarrierNo) (f : FrameNo) : Sector :=
  ((s.car c).expiring f).foldl (Sector.expireCell c) (s.modCar c (Carrier.moveTo f))

/-! ### Reclaim (R81) -/

/-- A reclaim-pending slot whose column holds no cell turns back to TRAFFIC for its owner, and the admission conditions
are examined (R81, R59). -/
def Sector.reclaimSlot (c : CarrierNo) (s : Sector) (slot : SlotNo) : Sector :=
  match (s.car c).slotUse slot with
  | .lent t true =>
    if (s.car c).columnEmpty slot then
      let turned := s.modCar c fun k => k.setSlot slot (.traffic t)
      (turned.modAdm t fun a => { a with reclaimPending := turned.anyReclaiming t }).examineAdmission t
    else s
  | .lent _ false => s
  | .opened => s
  | .reentry => s
  | .traffic _ => s

/-! ### The frame start (R77, R89) -/

/-- The CSP's and the RES's work at frame start `f` of carrier `c`, one event: frame count, window, the backoff exponent,
recovery, reclaim, fill (R77, R89; log 21). -/
def Sector.cspFrame (s : Sector) (c : CarrierNo) (f : FrameNo) : Sector :=
  let windowed := (s.moveWindow c f).backoff c
  let recovered := windowed.recoveryFrame c
  let reclaimed := allSlots.foldl (Sector.reclaimSlot c) recovered
  reclaimed.fillAt c f

/-- The blocks in the order used when a frame start names none (DESIGN CHOICE, log 3). -/
def allBlocks : List Block := [.lsv, .rng, .csp, .pld, .hfs]

/-- The order in which the blocks take a frame start: those named, each once, then the rest. Always all five. -/
def blockOrder (named : List Block) : List Block :=
  named.eraseDups ++ allBlocks.filter fun b => !named.contains b

/-- One block's handling of frame start `f` of carrier `c`: the CSP's is one event, the LSV's one event at each terminal
(R77, R175; log 11). -/
def State.frameBlock (c : CarrierNo) (f : FrameNo) (s : State) (b : Block) : State :=
  match b with
  | .csp => s.event fun x => x.cspFrame c f
  | .lsv => (s.sector.boundTo c).foldl (fun st t => st.event fun x => x.lsvFrame f t) s
  | .rng => s.event fun x => x.rngFrame c
  | .pld => s.event fun x => x.pldFrame c f
  | .hfs => s.event fun x => x.hfsFrame c

/-- A frame start taken by every block (R77). -/
def State.frameStart (s : State) (c : CarrierNo) (f : FrameNo) (named : List Block) : State :=
  (blockOrder named).foldl (State.frameBlock c f) s

/-! ### The meanings -/

/-- FRAME_START (R77). -/
def execFrameStart (c : CarrierNo) (f : FrameNo) (order : List Block) (s : State) :
    Host.Outcome State Fault Refusal := .next (s.frameStart c f order)

/-- RECOVERY_PERIOD_REACHED (R72). -/
def execRecoveryPeriodReached (c : CarrierNo) (s : State) : Host.Outcome State Fault Refusal :=
  .next (s.event fun x => x.recoveryEnd c)

/-- RECLAIM (R81). -/
def execReclaim (c : CarrierNo) (slot : SlotNo) (s : State) : Host.Outcome State Fault Refusal :=
  .next (s.event fun x => Sector.reclaimSlot c x slot)

/-- LEND_COMPARE (R45). -/
def execLendCompare (t : TermNo) (s : State) : Host.Outcome State Fault Refusal :=
  .next (s.event fun x => x.lendCompare t)

/-- WARM_COMPARE (R45). -/
def execWarmCompare (t : TermNo) (s : State) : Host.Outcome State Fault Refusal :=
  .next (s.event fun x => x.warmCompare t)

/-- FADE_TIMER_EXPIRY (R57). -/
def execFadeTimerExpiry (t : TermNo) (s : State) : Host.Outcome State Fault Refusal :=
  .next (s.event fun x => x.fadeExpiry t)

/-- GUARD_EXPIRY (R62). -/
def execGuardExpiry (t : TermNo) (s : State) : Host.Outcome State Fault Refusal :=
  .next (s.event fun x => x.guardEnd t)

/-- ADMIT_WAIT_EXPIRY (R60). -/
def execAdmitWaitExpiry (t : TermNo) (s : State) : Host.Outcome State Fault Refusal :=
  .next (s.event fun x => x.admitExpiry t)

/-- EFFECTIVE_FRAME_REACHED (R61), compared with the current frame of the terminal's carrier. -/
def execEffectiveFrameReached (t : TermNo) (s : State) : Host.Outcome State Fault Refusal :=
  .next (s.event fun x => x.effectiveReached (x.car (x.carrierOf t)).lastFrame t)

/-- APPLY_FRAME_REACHED (R134), compared with the current frame of the terminal's carrier. -/
def execApplyFrameReached (t : TermNo) (s : State) : Host.Outcome State Fault Refusal :=
  .next (s.event fun x => x.applyReached (x.car (x.carrierOf t)).lastFrame t)

/-- SETTLE_COUNT_END (R114). -/
def execSettleCountEnd (t : TermNo) (s : State) : Host.Outcome State Fault Refusal :=
  .next (s.event fun x => x.modTerm t Terminal.settleEnd)

/-- YIELD_COUNT_END (R152). -/
def execYieldCountEnd (t : TermNo) (s : State) : Host.Outcome State Fault Refusal :=
  .next (s.event fun x => x.modHold t HoldFields.yieldEnd)

/-- AGE_DISCARD (R146). -/
def execAgeDiscard (t : TermNo) (s : State) : Host.Outcome State Fault Refusal :=
  .next (s.event fun x => x.ageDiscard t)

/-- CARRIER_LOST (R73). -/
def execCarrierLost (c : CarrierNo) (s : State) : Host.Outcome State Fault Refusal :=
  .next (s.event fun x => x.carrierLost c)

/-- CARRIER_FOUND (R71). -/
def execCarrierFound (c : CarrierNo) (s : State) : Host.Outcome State Fault Refusal :=
  .next (s.event fun x => x.carrierFound c)

end Sys2Proof.Machine
end

