-- ==== Sys2Proof/Machine/Management.lean ====
section
/-! DEFINITION. In-band management (Chapter 10): taking the head of the request buffer, the common checks, the response,
group requests; and the requests on the link state and the held queue. -/

namespace Sys2Proof.Machine

/-! ### Selectors (R170) -/

/-- A valid selector. -/
inductive Selector
  | terminal (t : TermNo)
  | carrier (c : CarrierNo)
  | sector
  deriving DecidableEq, Repr

/-- A selector of kind TERMINAL with value 0 to 255 (R170). -/
def Request.terminal? (r : Request) : Option TermNo :=
  if h : r.value.toNat < 256 then (if r.kind = 1 then some ⟨r.value.toNat, h⟩ else none) else none

/-- A selector of kind CARRIER with value 0 to 3 (R170). -/
def Request.carrier? (r : Request) : Option CarrierNo :=
  if h : r.value.toNat < 4 then (if r.kind = 2 then some ⟨r.value.toNat, h⟩ else none) else none

/-- A selector of kind SECTOR; its value is not examined (R170). -/
def Request.sector? (r : Request) : Option Unit := if r.kind = 3 then some () else none

/-- A selector of any kind (R170). -/
def Request.selector? (r : Request) : Option Selector :=
  if r.kind = 1 then r.terminal?.map .terminal
  else if r.kind = 2 then r.carrier?.map .carrier
  else if r.kind = 3 then some .sector
  else none

/-! ### Taking a request (R169, R170) -/

/-- What a request's owner answers: the status and the response body. -/
structure Reply where
  status : Status
  body : List Byte
  deriving DecidableEq, Repr

/-- A reply with an empty body. -/
def Reply.plain (x : Status) : Reply := { status := x, body := [] }

/-- The response frame to request `r`, from the station address held when it is handed (R169). -/
def State.responseFrame (s : State) (r : Request) (a : Reply) : MgmtFrame :=
  { dest := r.source, source := s.mgu.station, code := r.code, kind := r.kind, number := r.number, value := r.value
    status := a.status, body := a.body }

/-- The MGU counters after a response of status `x` (R169, R173). -/
def MguCounters.responded (x : Status) (k : MguCounters) : MguCounters :=
  { k with responses := k.responses + 1, refusals := if x = .done then k.refusals else k.refusals + 1 }

/-- The response to the head request is handed and its place returns to the buffer. A notice formed while the request was
taken, after the frames that `before` had handed, goes after the response (R168, R169, R175). -/
def State.respond (before after : State) (r : Request) (a : Reply) : State :=
  { after with
    npMgmt := before.npMgmt ++ [after.responseFrame r a] ++ after.npMgmt.drop before.npMgmt.length
    mgu := { after.mgu with buffer := after.mgu.buffer.drop 1, ctr := after.mgu.ctr.responded a.status } }

/-- The body of a BAD-VALUE that names no field, where the request's refusals carry none. -/
def noField (_ : Request) : List Byte := []

/-- The checks common to all requests but the code, then the owner `own` with the selector `pick` finds; `blank` is the
body of a BAD-VALUE that names no field (R170, Table 12.7). -/
def State.judge {α : Type} (s : State) (pick : Request → Option α) (own : Request → α → State → State × Reply)
    (blank : Request → List Byte) (r : Request) : State × Reply :=
  if r.rest.length < r.bodyLength then (s, { status := .badValue, body := blank r })
  else
    match pick r with
    | none => (s, .plain .badSelector)
    | some x => own r x s

/-- The request at the head of the buffer is taken when its code is `code` and no other request is being taken; otherwise
nothing is done (R169, log 5). -/
def State.serve {α : Type} (s : State) (code : Nat) (pick : Request → Option α)
    (own : Request → α → State → State × Reply) (blank : Request → List Byte := noField) : State :=
  match s.mgu.buffer with
  | [] => s
  | r :: _ =>
    if r.code.toNat = code ∧ s.mgu.taking = none then
      let out := s.judge pick own blank r
      State.respond s out.1 r out.2
    else s

/-- Codes of the catalogue (Table 10.2). -/
def knownCode (n : Nat) : Bool := decide (1 ≤ n) && decide (n ≤ 21)

/-- The head request is answered UNKNOWN-REQUEST when its code is not in the catalogue (R170). -/
def State.serveUnknown (s : State) : State :=
  match s.mgu.buffer with
  | [] => s
  | r :: _ =>
    if knownCode r.code.toNat = false ∧ s.mgu.taking = none then State.respond s s r (.plain .unknownRequest) else s

/-- A request whose body must be empty: a longer one is refused with BAD-VALUE (R172, R174, R178, R179, Table 12.6). -/
def emptyBody {α : Type} (own : α → State → State × Reply) (r : Request) (x : α) (s : State) : State × Reply :=
  if r.body = [] then own x s else (s, .plain .badValue)

/-! ### Group requests (R171) -/

/-- One application: the state after it and the terminal's status. -/
abbrev Application := State → TermNo → State × Status

/-- The group of a selector, ascending, fixed when the request is taken (R171). -/
def Sector.group (s : Sector) : Selector → List TermNo
  | .terminal t => [t]
  | .carrier c => s.boundTo c
  | .sector => s.configuredTerms

/-- The applications in ascending order, with their statuses (R171). -/
def applyEach (one : Application) : List TermNo → State → State × List (TermNo × Status)
  | [], s => (s, [])
  | t :: ts, s =>
    let a := one s t
    let rest := applyEach one ts a.1
    (rest.1, (t, a.2) :: rest.2)

/-- The refused applications. -/
def refusedOf (l : List (TermNo × Status)) : List (TermNo × Status) := l.filter fun x => decide (x.2 ≠ .done)

/-- The status and body of a group request from its per-terminal results (R171, Table 12.7). -/
def groupReply (l : List (TermNo × Status)) : Reply :=
  match refusedOf l with
  | [] => { status := .done, body := be16 l.length }
  | x :: xs =>
    { status := if (x :: xs).length < l.length then .partially else x.2
      body := be16 (x :: xs).length ++ ((x :: xs).map fun e => be8 e.1.val ++ be8 e.2.code).flatten }

/-- What is made of a group row's request after the common checks: refused as a whole, or applied (R171). -/
inductive GroupPlan
  | refuse (a : Reply)
  | apply (one : Application)

/-- The MGU counters after `n` notices that waited were handed (R175, Table 10.3). -/
def MguCounters.noticed (n : Nat) (k : MguCounters) : MguCounters := { k with notices := k.notices + BitVec.ofNat 32 n }

/-- The response to a group request is handed, then the notices that waited for it, and its place returns to the buffer
(R169, R171, R175). -/
def State.closeGroup (s : State) (r : Request) (g : GroupTaking) : State :=
  let a := groupReply g.results
  { s with
    npMgmt := s.npMgmt ++ [s.responseFrame r a] ++ g.notices
    mgu := { s.mgu with taking := none, buffer := s.mgu.buffer.drop 1
                        ctr := (s.mgu.ctr.responded a.status).noticed g.notices.length } }

/-- The terminals of a group applied at one taking of its row: the first share of those that remain, or all (R171, log 22). -/
def GroupTaking.next (g : GroupTaking) (shares : List Nat) : List TermNo :=
  match shares with
  | [] => g.remaining
  | n :: _ => g.remaining.take n

/-- A group request goes on with the terminals of one share; with none left the request is closed, else other blocks' events
may be taken before it goes on (R171, log 22). -/
def State.advance (s : State) (r : Request) (one : Application) (g : GroupTaking) : State :=
  let now := g.next s.shares
  let out := applyEach one now { s with shares := s.shares.tail, mgu := { s.mgu with taking := some g } }
  let after : GroupTaking :=
    { remaining := g.remaining.drop now.length
      results := g.results ++ out.2
      notices := match out.1.mgu.taking with
        | some x => x.notices
        | none => [] }
  if after.remaining.isEmpty then out.1.closeGroup r after
  else { out.1 with mgu := { out.1.mgu with taking := some after } }

/-- A group row's request is begun, its common checks passed: refused as a whole, applied to the one terminal, or begun at its
group, which is fixed now (R171). -/
def State.beginGroup (s : State) (r : Request) (plan : Request → Selector → GroupPlan)
    (answer : Request → State → TermNo → State × Status → Reply) (sel : Selector) : State :=
  match plan r sel with
  | .refuse a => State.respond s s r a
  | .apply one =>
    match sel with
    | .terminal t =>
      let a := one s t
      State.respond s a.1 r (answer r s t a)
    | .carrier c => s.advance r one { remaining := s.sector.group (.carrier c) }
    | .sector => s.advance r one { remaining := s.sector.group .sector }

/-- A group row takes the request at the head of the buffer when its code is `code`: it begins it, or goes on with it when it
is being taken; otherwise nothing is done (R169 to R171, log 5). -/
def State.serveGroup (s : State) (code : Nat) (plan : Request → Selector → GroupPlan)
    (answer : Request → State → TermNo → State × Status → Reply) (blank : Request → List Byte := noField) : State :=
  match s.mgu.buffer with
  | [] => s
  | r :: _ =>
    if r.code.toNat = code then
      match s.mgu.taking with
      | none =>
        if r.rest.length < r.bodyLength then State.respond s s r { status := .badValue, body := blank r }
        else
          match r.selector? with
          | none => State.respond s s r (.plain .badSelector)
          | some sel => s.beginGroup r plan answer sel
      | some g =>
        match r.selector?.map (plan r) with
        | some (.apply one) => s.advance r one g
        | some (.refuse _) => s
        | none => s
    else s

/-! ### Requests on the link state (R46 to R51) -/

/-- One application of a request that an unconfigured record, and any record `refuses` names, answers WRONG-STATE (R46,
R51). -/
def applyLink (refuses : Terminal → Bool) (act : Sector → TermNo → Sector) : Application := fun s t =>
  let r := s.sector.term t
  if r.cfg.configured = true ∧ refuses r = false then (s.event fun x => act x t, .done) else (s, .wrongState)

/-- The response body of a link-state request under TERMINAL: link state and forced mark (R46, Table 12.7). -/
def Terminal.linkBody (r : Terminal) : List Byte := be8 r.link.state.code ++ bit r.link.forced

/-- A request with an empty body is applied, and one with a longer body refused with BAD-VALUE (R46, R154, Table 12.6). -/
def emptyPlan (one : Application) (r : Request) (_ : Selector) : GroupPlan :=
  if r.body = [] then .apply one else .refuse (.plain .badValue)

/-- The response to a link-state request under TERMINAL (R46). -/
def linkAnswer (_ : Request) (_ : State) (t : TermNo) (a : State × Status) : Reply :=
  { status := a.2, body := (a.1.sector.term t).linkBody }

/-- One RELEASE (R47). -/
def releaseOne : Application := applyLink (fun _ => false) Sector.releaseTerm

/-- One HOLD (R48). -/
def holdOne : Application := applyLink (fun _ => false) Sector.hold

/-- One FORCE-STATE to the state named (R49). -/
def forceOne (named : LinkState) : Application := applyLink (fun _ => false) fun x t => x.force t named

/-- One PERMIT, refused in HELD (R51). -/
def permitOne : Application := applyLink (fun r => decide (r.link.state = .held)) Sector.permitTerm

/-- A FORCE-STATE: its body is one state byte, 0 to 7 (R46, R181). -/
def forcePlan (r : Request) (_ : Selector) : GroupPlan :=
  match r.body with
  | [b] =>
    match LinkState.ofCode b.toNat with
    | some named => .apply (forceOne named)
    | none => .refuse (.plain .badValue)
  | [] => .refuse (.plain .badValue)
  | _ :: _ :: _ => .refuse (.plain .badValue)

/-! ### FLUSH-HELD (R154) -/

/-- One FLUSH-HELD (R154). -/
def flushOne : Application := applyLink (fun _ => false) Sector.flush

/-- The response to a FLUSH-HELD under TERMINAL gives the frames discarded, 0 when refused (R154). -/
def flushAnswer (_ : Request) (before : State) (t : TermNo) (a : State × Status) : Reply :=
  { status := a.2, body := be16 (if a.2 = .done then (before.sector.term t).hold.frames else 0) }

/-! ### The meanings -/

/-- UNKNOWN_REQUEST (R170). -/
def execUnknownRequest (s : State) : Host.Outcome State Fault Refusal := .next s.serveUnknown

/-- RELEASE (R47). -/
def execRelease (s : State) : Host.Outcome State Fault Refusal :=
  .next (s.serveGroup 10 (emptyPlan releaseOne) linkAnswer)

/-- HOLD (R48). -/
def execHold (s : State) : Host.Outcome State Fault Refusal :=
  .next (s.serveGroup 11 (emptyPlan holdOne) linkAnswer)

/-- FORCE_STATE (R49). -/
def execForceState (s : State) : Host.Outcome State Fault Refusal :=
  .next (s.serveGroup 12 forcePlan linkAnswer)

/-- PERMIT (R51). -/
def execPermit (s : State) : Host.Outcome State Fault Refusal :=
  .next (s.serveGroup 13 (emptyPlan permitOne) linkAnswer)

/-- FLUSH_HELD (R154). -/
def execFlushHeld (s : State) : Host.Outcome State Fault Refusal :=
  .next (s.serveGroup 14 (emptyPlan flushOne) flushAnswer)

end Sys2Proof.Machine
end

