-- ==== Sys2Proof/Machine/Reads.lean ====
section
/-! DEFINITION. The reads of whole records: READ-TERMINAL, READ-CARRIER, READ-QUEUE, READ-COUNTERS (R32, R86, R103, R172),
laid out as Section 12.4 and Table 12.7 give. -/

namespace Sys2Proof.Machine

/-- An optional part: its bytes, or none when it is absent. -/
def optional {α : Type} (f : α → List Byte) : Option α → List Byte
  | some x => f x
  | none => []

/-- A grant as bytes: upstream frame, then slot. -/
def GrantRef.bytes (g : GrantRef) : List Byte := be16 g.frame.toNat ++ be8 g.slot.val

/-- Running or counting is coded 0 and stopped 1, by their order in Table 2.5. -/
def running (b : Bool) : List Byte := bit (!b)

/-- Counters, four bytes each. -/
def counterBytes (l : List Counter) : List Byte := (l.map fun x => be32 x.toNat).flatten

/-! ### READ-TERMINAL (R32) -/

/-- The configuration fields in the order of Table 2.1. -/
def TermConfig.values (k : TermConfig) : List (List Byte) :=
  [bit k.configured, be8 k.carrier.val, be8 k.cls.val, optional be16 k.homeTag,
   (k.homeSlots.map fun x => be8 x.val).flatten, be8 k.floor.val, be8 k.ceiling.val, be8 k.reentry.val,
   bit k.autoAdmit, be16 k.holdQuota, be16 k.holdAge, be8 k.dropPolicy.code, be8 k.backPressure.code,
   be8 k.releaseBurst.code, be16 k.fadeTimeout, be8 k.fadeMissLimit, be16 k.lendDelay, be16 k.warmLimit,
   be16 k.guardPeriod]

/-- The link supervision fields in the order of Table 2.5. -/
def LinkFields.values (l : LinkFields) : List (List Byte) :=
  [be8 l.state.code, be8 l.cause.code, bit l.forced, bit l.permit, be32 l.outage ++ running l.outageOn,
   be16 l.lendActive ++ be16 l.warmActive, bit l.lendTaken, bit l.warmClosed,
   running l.fadeOn ++ be16 l.fadeCount ++ be16 l.fadeActive, be8 l.fadeMisses,
   running l.guardOn ++ be16 l.guardCount ++ be16 l.guardActive, be8 l.repeatCalls, bit l.keptLock]

/-- The ranging and admission fields in the order of Table 2.6. -/
def Terminal.rangeValues (r : Terminal) : List (List Byte) :=
  [optional beInt16 r.range.stored, be8 r.range.attempts, be8 r.range.measured, bit r.range.warm,
   optional (fun m => beInt16 m.offset) r.range.last, optional (fun m => be8 m.snr) r.range.last,
   be8 r.range.settle, optional GrantRef.bytes r.range.grant, be16 r.adm.wait, bit r.adm.reclaimPending,
   optional (fun f => be16 f.toNat) r.adm.sent]

/-- The partial value of a report assembly: its fragments, the first most significant, at the low end of the value (Table 2.7). The
spec does not state where one or two fragments stand among its bits (DESIGN CHOICE, log 35). -/
def partialValue (l : List (BitVec 4)) : Nat := l.foldl (fun a x => a * 16 + x.toNat) 0

/-- A pending profile: target, direction, and apply frame when present. -/
def PendingProfile.bytes (p : PendingProfile) : List Byte :=
  be8 p.target.val ++ be8 p.direction.code ++ optional (fun f => be16 f.toNat) p.apply

/-- The profile, report, release and directive fields in the order of Table 2.7. -/
def Terminal.ladderValues (r : Terminal) : List (List Byte) :=
  [be8 r.ladder.current.val, optional PendingProfile.bytes r.ladder.pending,
   be8 r.ladder.assembly.length ++ be16 (partialValue r.ladder.assembly),
   optional (fun x => beInt8 x.margin) r.ladder.report, optional (fun x => be8 x.trend.code) r.ladder.report,
   optional (fun x => be8 x.headroom) r.ladder.report, optional beInt8 r.ladder.upMargin, be8 r.ladder.stepUp,
   be8 r.hold.release.code, be8 r.hold.yieldCount, be16 r.hold.frames ++ be16 r.hold.blocks,
   bit r.owed.halt, bit r.owed.admission, bit r.owed.profile, optional GrantRef.bytes r.owed.grant]

/-- The entries of a READ-TERMINAL response, in order (Section 12.4). -/
def Terminal.values (r : Terminal) : List (List Byte) :=
  r.cfg.values ++ r.link.values ++ r.rangeValues ++ r.ladderValues ++
  [beInt16 r.range.correction, beInt8 r.range.power,
   optional (fun h => be16 h.arrival.toNat) r.hold.queue.head?, optional (fun h => be32 h.age) r.hold.queue.head?]

/-- READ-TERMINAL (R32). -/
def State.readTerminalRequest (t : TermNo) (s : State) : State × Reply :=
  (s, { status := .done, body := fieldSetBytes (numberFrom 1 (s.sector.term t).values) })

/-! ### READ-CARRIER (R86) -/

/-- The settings in the order of Table 4.1. -/
def CarrierConfig.values (k : CarrierConfig) : List (List Byte) :=
  [bit k.enabled, be8 k.grantLead, be8 k.applyLead, be8 k.settle, be8 k.trimLimit, be16 k.searchWindow,
   be8 k.fineWindow, be8 k.powerWindow, be8 k.targetSnr, be8 k.paceLimit, be8 k.recoveryPace, be8 k.rangingSize,
   be8 k.offerLimit, be8 k.recoveryOffer, be16 k.recoveryPeriod, be8 k.backoffWindow, be8 k.backoffHigh,
   be8 k.backoffLow, be16 k.admitWaitLimit, be8 k.yieldPeriod, be8 k.releaseBudget, bit k.guardRestart,
   bit k.fadeStepDown, be32 k.base.toNat]

/-- The current kind code: 0 REENTRY, 1 OPEN, 2 TRAFFIC, 3 LENT (Section 12.4). -/
def SlotUse.code : SlotUse → Nat
  | .reentry => 0
  | .opened => 1
  | .traffic _ => 2
  | .lent _ _ => 3

/-- The reclaim-pending mark of a slot. -/
def SlotUse.marked : SlotUse → Bool
  | .lent _ m => m
  | .reentry => false
  | .opened => false
  | .traffic _ => false

/-- A slot of carrier `c`: base kind, current kind, owner, mark (Section 12.4). -/
def Sector.slotValue (s : Sector) (c : CarrierNo) (slot : SlotNo) : List Byte :=
  let k := s.car c
  let u := k.slotUse slot
  (match s.homeOwner c slot with
   | some t => be8 2 ++ be8 u.code ++ be8 t.val
   | none => be8 (k.cfg.baseKind slot).code ++ be8 u.code ++ be8 0) ++ bit u.marked

/-- A calendar cell: kind, grantee, attempt number (Section 12.4). -/
def Cell.bytes : Cell → List Byte
  | .empty => be8 0 ++ be8 0 ++ be8 0
  | .offered => be8 1 ++ be8 0 ++ be8 0
  | .granted t n => be8 2 ++ be8 t.val ++ be8 n

/-- A calendar row: frame number, filled mark, 32 cells (Section 12.4). -/
def Row.bytes (r : Row) : List Byte :=
  be16 r.frame.toNat ++ bit r.filled ++ (allSlots.map fun x => (r.cell x).bytes).flatten

/-- The entries of a READ-CARRIER response, in order (Section 12.4). -/
def Sector.carrierValues (s : Sector) (c : CarrierNo) : List (List Byte) :=
  let k := s.car c
  k.cfg.values ++ [be8 k.state.code, be16 k.recovery, be16 k.lastFrame.toNat, be8 k.res.exponent] ++
  allSlots.map (s.slotValue c) ++ k.calendar.map Row.bytes

/-- READ-CARRIER (R86). -/
def State.readCarrierRequest (c : CarrierNo) (s : State) : State × Reply :=
  (s, { status := .done, body := fieldSetBytes (numberFrom 1 (s.sector.carrierValues c)) })

/-! ### READ-QUEUE (R103) -/

/-- A queue entry: terminal, class, last profile, repeat-call count (Table 12.7). -/
def Sector.queueEntryBytes (s : Sector) (e : QueueEntry) : List Byte :=
  be8 e.terminal.val ++ be8 e.cls.val ++ be8 e.lastProfile.val ++ be8 (s.term e.terminal).link.repeatCalls

/-- A member of the ranging set (Table 12.7); GRANT sent is 1 when a grant is outstanding and none is owed (log 26). -/
def Sector.memberBytes (s : Sector) (t : TermNo) : List Byte :=
  let r := s.term t
  be8 t.val ++ be8 r.range.attempts ++ bit r.range.warm ++ be8 r.range.settle ++
  (match r.range.grant with
   | some g => be8 1 ++ g.bytes
   | none => be8 0 ++ be16 0 ++ be8 0) ++
  bit (r.range.grant.isSome && r.owed.grant.isNone)

/-- READ-QUEUE (R103). -/
def State.readQueueRequest (c : CarrierNo) (s : State) : State × Reply :=
  let x := s.sector
  let q := (x.car c).res
  (s, { status := .done
        body := be16 x.freePlaces ++ be16 q.queue.length ++ (q.queue.map x.queueEntryBytes).flatten ++
          be8 q.ranging.length ++ (q.ranging.map x.memberBytes).flatten ++ be8 q.rotation.val ++ be8 q.window.length ++
          be8 (garbledCount (x.car c).cfg.backoffWindow q.window) ++ be8 q.exponent })

/-! ### READ-COUNTERS (R172) -/

/-- Table 2.8 in row order, then the three of R156. -/
def TermCounters.list (k : TermCounters) : List Counter :=
  [k.callsAccepted, k.repeatCalls, k.guardHits, k.ignoredCalls, k.suppressed, k.misses, k.fades, k.foreignBursts,
   k.rangingAttempts, k.rangingOverflows, k.rangingFailures, k.lateTrims, k.brokenReports, k.stepsDown, k.stepsUp,
   k.framesHeld, k.framesReleased, k.discardQuota, k.discardPool, k.discardAge, k.discardState, k.discardFlush,
   k.arrivalQuota, k.arrivalPool, k.heldState]

/-- Tables 4.8, 5.3, 6.3 and 9.2 in row order. -/
def Carrier.counterList (k : Carrier) : List Counter :=
  [k.csp.frameStarts, k.csp.frameSlips, k.csp.carrierFound, k.csp.carrierLost, k.csp.expiredCells, k.csp.outOfFrame,
   k.csp.strayOutcomes, k.csp.strayBursts] ++
  [k.resCtr.callsAccepted, k.resCtr.strayCalls, k.resCtr.collisions, k.resCtr.quietOffers, k.resCtr.terminalsTaken,
   k.resCtr.grantsPlaced, k.resCtr.grantsWithdrawn, k.resCtr.grantsRefunded, k.resCtr.storms] ++
  [k.rng.warmExchanges, k.rng.coldExchanges, k.rng.outcomes, k.rng.measurements, k.rng.misses, k.rng.overflows,
   k.rng.warmFallbacks, k.rng.convergences, k.rng.failures, k.rng.ended, k.rng.lateTrims, k.rng.staleOutcomes,
   k.rng.unsentOutcomes] ++
  [k.dcpCtr.listCloses, k.dcpCtr.headerOnly, k.dcpCtr.haltsSent, k.dcpCtr.admitsSent, k.dcpCtr.downsSent,
   k.dcpCtr.upsSent, k.dcpCtr.trimsSent, k.dcpCtr.lateGrants, k.dcpCtr.fullLists]

/-- Table 1.2 in row order. -/
def FclCounters.list (k : FclCounters) : List Counter :=
  [k.checkErrors, k.received, k.untagged, k.diverted, k.length, k.unknownTag, k.passedThrough, k.handedToHfs,
   k.stateDiscards, k.upstreamSent, k.upstreamNoTag, k.upstreamFormat]

/-- Table 7.2 in row order. -/
def PldCounters.list (k : PldCounters) : List Counter :=
  [k.reportsCompleted, k.brokenReports, k.orphanFragments, k.stepDownDecisions, k.stepUpDecisions, k.fadeStepDowns,
   k.pendingReplaced, k.appliedDown, k.appliedUp]

/-- Table 8.5 in row order. -/
def HfsCounters.list (k : HfsCounters) : List Counter :=
  [k.appends, k.releases, k.arrivalQuota, k.arrivalPool, k.heldQuota, k.heldPool, k.heldAge, k.heldFlush, k.heldState,
   k.storeLow, k.storeExhausted]

/-- Table 10.3 in row order. -/
def MguCounters.list (k : MguCounters) : List Counter :=
  [k.admitted, k.dropped, k.misaddressed, k.shortFrames, k.responses, k.refusals, k.notices]

/-- The counters a selector names, as bytes (R172, Table 12.7). -/
def State.counterBody (s : State) : Selector → List Byte
  | .terminal t => counterBytes (s.sector.term t).ctr.list
  | .carrier c => counterBytes (s.sector.car c).counterList
  | .sector =>
    counterBytes s.fcl.list ++ counterBytes s.sector.pld.list ++ counterBytes s.sector.hfs.list ++
    be16 s.sector.freeDescriptors ++ be16 s.sector.freeBlocks ++ counterBytes s.mgu.ctr.list

/-- READ-COUNTERS (R172). -/
def State.readCountersRequest (sel : Selector) (s : State) : State × Reply :=
  (s, { status := .done, body := s.counterBody sel })

/-! ### The meanings -/

/-- READ_TERMINAL (R32). -/
def execReadTerminal (s : State) : Host.Outcome State Fault Refusal :=
  .next (s.serve 1 Request.terminal? (emptyBody State.readTerminalRequest))

/-- READ_CARRIER (R86). -/
def execReadCarrier (s : State) : Host.Outcome State Fault Refusal :=
  .next (s.serve 9 Request.carrier? (emptyBody State.readCarrierRequest))

/-- READ_QUEUE (R103). -/
def execReadQueue (s : State) : Host.Outcome State Fault Refusal :=
  .next (s.serve 15 Request.carrier? (emptyBody State.readQueueRequest))

/-- READ_COUNTERS (R172). -/
def execReadCounters (s : State) : Host.Outcome State Fault Refusal :=
  .next (s.serve 18 Request.selector? (emptyBody State.readCountersRequest))

end Sys2Proof.Machine
end

