-- ==== Sys2Proof/Machine/Classifier.lean ====
section
/-! DEFINITION. The Frame Classifier (Chapter 1): tags, the decision by link state, diversion and admission of management
frames, and the upstream path. -/

namespace Sys2Proof.Machine

/-- The state with the FCL counters changed by `f`. -/
def State.countFcl (s : State) (f : FclCounters → FclCounters) : State := { s with fcl := f s.fcl }

/-! ### Tags (R6) -/

/-- The 13th and 14th bytes are 81-00 and the four bytes of a tag are there; a frame too short to hold them carries no tag
(R6; log 9). -/
def carriesTag (bytes : List Byte) : Bool :=
  decide (16 ≤ bytes.length) && decide (bytesAt bytes 12 2 = [0x81, 0x00])

/-- The tag value: the low 12 bits of the 15th and 16th bytes (R6). -/
def tagOf (bytes : List Byte) : Tag := Fin.ofNat 4096 (beNat (bytesAt bytes 14 2))

/-- The frame without its four tag bytes (R7). -/
def untag (bytes : List Byte) : List Byte := bytes.take 12 ++ bytes.drop 16

/-- The frame with a tag of value `tag` and priority 0 after its addresses (R13). The spec does not state the bit between the
priority and the tag value here, and 0 is the model's (DESIGN CHOICE, log 31). -/
def withTag (tag : Nat) (bytes : List Byte) : List Byte :=
  bytes.take 12 ++ [0x81, 0x00] ++ be16 tag ++ bytes.drop 12

/-! ### Admission to the request buffer (R168) -/

/-- Places of the request buffer (R168). -/
def bufferPlaces : Nat := 4

/-- A frame with tag 4095 is judged for admission: address, length, room (R168). -/
def Mgu.admitFrame (m : Mgu) (bytes : List Byte) : Mgu :=
  let dest : Addr := BitVec.ofNat 48 (beNat (bytesAt bytes 0 6))
  if dest ≠ m.station ∧ dest ≠ broadcast then { m with ctr := { m.ctr with misaddressed := m.ctr.misaddressed + 1 } }
  else
    match Request.parse bytes with
    | none => { m with ctr := { m.ctr with shortFrames := m.ctr.shortFrames + 1 } }
    | some r =>
      if bufferPlaces ≤ m.buffer.length then { m with ctr := { m.ctr with dropped := m.ctr.dropped + 1 } }
      else { m with buffer := m.buffer ++ [r], ctr := { m.ctr with admitted := m.ctr.admitted + 1 } }

/-- A frame with tag 4095 is handed whole to the MGU (R6). -/
def State.divert (s : State) (bytes : List Byte) : State :=
  { s.countFcl fun k => { k with diverted := k.diverted + 1 } with mgu := s.mgu.admitFrame bytes }

/-! ### The decision by link state (R9 to R11) -/

/-- What is done with a traffic frame (Table 1.1). -/
inductive Decision
  | discardState
  | handToHfs
  | passThrough
  deriving DecidableEq, Repr

/-- The decision for a terminal's frame by its link state and, in SERVING, its held queue and release state (Table 1.1). -/
def Terminal.decision (r : Terminal) : Decision :=
  match r.link.state with
  | .held => .discardState
  | .serving => if r.hold.queue = [] ∧ r.hold.release = .idle then .passThrough else .handToHfs
  | .dark => .handToHfs
  | .called => .handToHfs
  | .trimming => .handToHfs
  | .admitting => .handToHfs
  | .fading => .handToHfs
  | .guard => .handToHfs

/-- The frame `body`, untagged, padded and with its check sequence, is passed through to the Modem Link (R10). -/
def Sector.passThrough (s : Sector) (t : TermNo) (body : List Byte) : Sector :=
  s.handOut [.downstream (s.carrierOf t) t body]

/-- A frame of configured terminal `t` is decided (R9 to R11). -/
def State.decideFrame (s : State) (t : TermNo) (body : List Byte) : State :=
  match (s.sector.term t).decision with
  | .discardState =>
    (s.countFcl fun k => { k with stateDiscards := k.stateDiscards + 1 }).event fun x =>
      x.countTerm t fun k => { k with discardState := k.discardState + 1 }
  | .handToHfs =>
    (s.countFcl fun k => { k with handedToHfs := k.handedToHfs + 1 }).event fun x =>
      x.offerFrame t body (x.car (x.carrierOf t)).lastFrame
  | .passThrough =>
    (s.countFcl fun k => { k with passedThrough := k.passedThrough + 1 }).event fun x => x.passThrough t body

/-- The Tag Map entry of a tag (R1). -/
def State.tagEntry (s : State) (tag : Tag) : Option TermNo := s.tagMap.read none tag

/-- A traffic frame: its length, its check sequence computed anew, its tag's entry, its terminal's state (R7, R8). -/
def State.trafficFrame (s : State) (bytes : List Byte) : State :=
  let body := untag bytes
  if 2048 < body.length + checkLength then s.countFcl fun k => { k with length := k.length + 1 }
  else
    match s.tagEntry (tagOf bytes) with
    | none => s.countFcl fun k => { k with unknownTag := k.unknownTag + 1 }
    | some t =>
      if (s.sector.term t).cfg.configured then s.decideFrame t (sealFrame (padFrame body))
      else s.countFcl fun k => { k with unknownTag := k.unknownTag + 1 }

/-- A frame received on the Network Port (R5, R6). -/
def State.frameReceived (s : State) (bytes : List Byte) (checkRight : Bool) : State :=
  if checkRight then
    let counted := s.countFcl fun k => { k with received := k.received + 1 }
    if carriesTag bytes then
      if tagOf bytes = 4095 then counted.divert bytes else counted.trafficFrame bytes
    else counted.countFcl fun k => { k with untagged := k.untagged + 1 }
  else s.countFcl fun k => { k with checkErrors := k.checkErrors + 1 }

/-! ### The upstream path (R13, R14) -/

/-- A payload frame, with its check sequence, that may be tagged and sent: untagged and 60 to 2044 bytes long (R14). -/
def payloadFits (p : List Byte) : Bool :=
  !carriesTag p && decide (60 ≤ p.length) && decide (p.length ≤ 2044)

/-- One payload frame under the home tag the burst was taken with, its check sequence computed anew (R13, R14). -/
def State.upstreamFrame (homeTag : Option Nat) (s : State) (p : List Byte) : State :=
  match homeTag with
  | none => s.countFcl fun k => { k with upstreamNoTag := k.upstreamNoTag + 1 }
  | some h =>
    if payloadFits p then
      { s.countFcl fun k => { k with upstreamSent := k.upstreamSent + 1 } with
        npTraffic := s.npTraffic ++ [sealFrame (withTag h (p.take (p.length - checkLength)))] }
    else s.countFcl fun k => { k with upstreamFormat := k.upstreamFormat + 1 }

/-- The payload frames of a good traffic burst of `t`, in record order (R13). -/
def State.upstream (s : State) (t : TermNo) (payload : List (List Byte)) : State :=
  payload.foldl (State.upstreamFrame (s.sector.term t).cfg.homeTag) s

/-! ### The meaning -/

/-- FRAME_RECEIVED (R5). -/
def execFrameReceived (bytes : List Byte) (checkRight : Bool) (s : State) : Host.Outcome State Fault Refusal :=
  .next (s.frameReceived bytes checkRight)

end Sys2Proof.Machine
end

