-- ==== Sys2Proof/Machine/FieldSets.lean ====
section
/-! DEFINITION. Field sets as WRITE-TERMINAL, WRITE-CARRIER and SET-SECTOR carry them (Section 12.4): widths, names, and
the field a refusal names. -/

namespace Sys2Proof.Machine

/-- The field a refusal names, from the codes of the fields whose check failed: none gives 0, one gives itself, and of
several the spec does not say which, so the choice is free (R19, R68, R176; log 7). -/
def pickField (failing : List Nat) : Nat :=
  match failing.eraseDups with
  | [] => 0
  | [x] => x
  | x :: y :: l => (x :: y :: l).getD (Config.failingFieldChoice (x :: y :: l) % (x :: y :: l).length) x

/-- The field set names code `c`. -/
def names (es : List FieldEntry) (c : Nat) : Bool := es.any fun e => decide (e.code = c)

/-- The lowest of the codes listed (ascending) that the set names; 0 when it names none. -/
def lowestNamed (es : List FieldEntry) (codes : List Nat) : Nat := (codes.find? (names es)).getD 0

/-- Codes that are not fields, or that the set names twice (R19, R20, R68, R176). -/
def misnamed (known : Nat → Bool) (es : List FieldEntry) : List Nat :=
  (es.filter fun e => !known e.code || decide (1 < es.countP fun x => decide (x.code = e.code))).map (·.code)

/-- Every entry of a known field has its field's width (R170, R181, Section 12.4). -/
def widthsFit (width : Nat → Nat → Bool) (es : List FieldEntry) : Bool := es.all fun e => width e.code e.value.length

/-- A field set in its request's form: it fills the body and its entries have their widths (R170, R181). -/
def fieldSet (width : Nat → Nat → Bool) (body : List Byte) : Option (List FieldEntry) :=
  match parseFieldSet body with
  | some es => if widthsFit width es then some es else none
  | none => none

/-- A value in a range. -/
def within (lo hi : Nat) (v : List Byte) : Option Nat :=
  if lo ≤ beNat v ∧ beNat v ≤ hi then some (beNat v) else none

/-- A value naming one of `n` things. -/
def withinFin (n : Nat) (v : List Byte) : Option (Fin n) :=
  if h : beNat v < n then some ⟨beNat v, h⟩ else none

/-- A two-valued enumeration coded by position. -/
def withinFlag (v : List Byte) : Option Bool :=
  if beNat v = 0 then some false else if beNat v = 1 then some true else none

end Sys2Proof.Machine
end

