-- ==== Sys2Proof/Machine/TerminalWrites.lean ====
section
/-! DEFINITION. WRITE-TERMINAL (Section 2.2): the field set's form, the checks of Table 2.2, and the effects of R24 to R27
and R79. -/

namespace Sys2Proof.Machine

/-! ### Fields (Table 2.1, Section 12.4) -/

/-- Configuration fields have codes 1 to 19 (Section 12.4). -/
def isTermField (c : Nat) : Bool := decide (1 ≤ c) && decide (c ≤ 19)

/-- The fields marked "Group" in Table 2.1: auto-admit to guard period. -/
def isGroupField (c : Nat) : Bool := decide (9 ≤ c) && decide (c ≤ 19)

/-- The width of each field's value: 0 or 2 for the home tag, 0 to 4 for the home slots and, since a longer list is a
value R20 refuses, any length; 2 for numbers beyond a byte; 1 for the rest (Section 12.4). -/
def termWidth (c n : Nat) : Bool :=
  match c with
  | 4 => decide (n = 0 ∨ n = 2)
  | 5 => true
  | 10 => decide (n = 2)
  | 11 => decide (n = 2)
  | 15 => decide (n = 2)
  | 17 => decide (n = 2)
  | 18 => decide (n = 2)
  | 19 => decide (n = 2)
  | _ => !isTermField c || decide (n = 1)

/-- The home tag a value gives: absent, or 1 to 4094 (Table 2.1). -/
def homeTagValue (v : List Byte) : Option (Option Nat) :=
  if v = [] then some none else (within 1 4094 v).map some

/-- A home slot list in ascending order: at most four distinct slots (Table 2.1, R20). -/
def homeSlotsValue (v : List Byte) : Option (List SlotNo) :=
  match v.mapM slotByte with
  | some l =>
    if l.length ≤ 4 ∧ l.Nodup then some (l.foldl (fun a x => insertNo x a) []) else none
  | none => none

/-- The configuration with one field set to a value; none when the value lies outside the field's range (Table 2.1). -/
def TermConfig.setField (cfg : TermConfig) (e : FieldEntry) : Option TermConfig :=
  let v := e.value
  match e.code with
  | 1 => (withinFlag v).map fun x => { cfg with configured := x }
  | 2 => (withinFin 4 v).map fun x => { cfg with carrier := x }
  | 3 => (withinFin 4 v).map fun x => { cfg with cls := x }
  | 4 => (homeTagValue v).map fun x => { cfg with homeTag := x }
  | 5 => (homeSlotsValue v).map fun x => { cfg with homeSlots := x }
  | 6 => (withinFin 8 v).map fun x => { cfg with floor := x }
  | 7 => (withinFin 8 v).map fun x => { cfg with ceiling := x }
  | 8 => (withinFin 8 v).map fun x => { cfg with reentry := x }
  | 9 => (withinFlag v).map fun x => { cfg with autoAdmit := x }
  | 10 => (within 0 1024 v).map fun x => { cfg with holdQuota := x }
  | 11 => (within 1 65535 v).map fun x => { cfg with holdAge := x }
  | 12 => (withinFlag v).map fun x => { cfg with dropPolicy := if x then .dropOldest else .dropNew }
  | 13 => (withinFlag v).map fun x => { cfg with backPressure := if x then .yielding else .wait }
  | 14 => (ReleaseBurst.ofCode (beNat v)).map fun x => { cfg with releaseBurst := x }
  | 15 => (within 1 1023 v).map fun x => { cfg with fadeTimeout := x }
  | 16 => (within 1 15 v).map fun x => { cfg with fadeMissLimit := x }
  | 17 => (within 0 65535 v).map fun x => { cfg with lendDelay := x }
  | 18 => (within 0 65535 v).map fun x => { cfg with warmLimit := x }
  | 19 => (within 1 65535 v).map fun x => { cfg with guardPeriod := x }
  | _ => none

/-- The configuration as it would stand with every field of the set applied; a value out of range is passed over. -/
def TermConfig.withFields (cfg : TermConfig) (es : List FieldEntry) : TermConfig :=
  es.foldl (fun k e => (k.setField e).getD k) cfg

/-! ### The checks of Table 2.2 -/

/-- Order 2: the codes of the fields that fail (R19, R20). -/
def rangeFailures (cfg : TermConfig) (es : List FieldEntry) : List Nat :=
  let new := cfg.withFields es
  let single := misnamed isTermField es ++
    (es.filter fun e => isTermField e.code && (cfg.setField e).isNone).map (·.code)
  let whole (codes : List Nat) : Bool := !(codes.any single.contains)
  single ++
  (if whole [6, 7] && decide (new.ceiling < new.floor) then [lowestNamed es [6, 7]] else []) ++
  if whole [6, 7, 8] && !(decide (new.floor ≤ new.reentry) && decide (new.reentry ≤ new.ceiling)) then
    [lowestNamed es [6, 7, 8]] else []

/-- Order 3: the codes of the changed fields that need HELD, when the record is configured and not HELD (R21). -/
def stateFailures (r : Terminal) (new : TermConfig) : List Nat :=
  if r.cfg.configured = true ∧ r.link.state ≠ .held then
    (if new.configured = false then [1] else []) ++ (if new.carrier ≠ r.cfg.carrier then [2] else []) ++
    if new.homeSlots ≠ r.cfg.homeSlots then [5] else []
  else []

/-- The set configures the record. -/
def TermConfig.configures (old new : TermConfig) : Bool := !old.configured && new.configured

/-- A home slot is in the list of another configured terminal of the carrier, or has the base kind REENTRY there (R22). -/
def Sector.slotClash (s : Sector) (t : TermNo) (c : CarrierNo) (slot : SlotNo) : Bool :=
  ((s.boundTo c).any fun o => decide (o ≠ t) && (s.term o).cfg.homeSlots.contains slot) ||
  decide ((s.car c).cfg.baseKind slot = .reentry)

/-- The home slot check runs: configured after the write, and configured by it or moved (R22). -/
def homeCheckRuns (old new : TermConfig) : Bool :=
  new.configured && (!old.configured || decide (new.carrier ≠ old.carrier) || decide (new.homeSlots ≠ old.homeSlots))

/-- The profile checks run: the set names one of the three profiles, or sets configured to yes (R23). -/
def profileCheckRuns (es : List FieldEntry) (new : TermConfig) : Bool :=
  names es 6 || names es 7 || names es 8 || (names es 1 && new.configured)

/-- Codes of the profile fields whose entry is disabled (R23). -/
def Sector.disabledProfiles (s : Sector) (new : TermConfig) : List Nat :=
  (if (s.profile new.floor).enabled then [] else [6]) ++ (if (s.profile new.ceiling).enabled then [] else [7]) ++
  if (s.profile new.reentry).enabled then [] else [8]

/-- Order 4: the codes of the fields that fail the home slot check and the profile check (R22, R23; log 14). -/
def Sector.conflictFailures (s : Sector) (t : TermNo) (es : List FieldEntry) (new : TermConfig) : List Nat :=
  let old := (s.term t).cfg
  let config := if old.configures new then [1] else []
  (if homeCheckRuns old new && new.homeSlots.any (s.slotClash t new.carrier) then [lowestNamed es (config ++ [2, 5])]
   else []) ++
  if profileCheckRuns es new && new.configured then
    match s.disabledProfiles new with
    | [] => []
    | x :: l => if old.configures new then [1] else
      let named := (x :: l).filter (names es)
      if named.isEmpty then [0] else named
  else []

/-- A profile lies outside the bounds. -/
def TermConfig.outside (cfg : TermConfig) (p : ProfileNo) : Bool := decide (p < cfg.floor) || decide (cfg.ceiling < p)

/-- Link states in which the current profile is in use (R23, R123). -/
def LinkState.usesProfile : LinkState → Bool
  | .admitting => true
  | .serving => true
  | .fading => true
  | .held => false
  | .dark => false
  | .called => false
  | .trimming => false
  | .guard => false

/-- Order 5: the code named when the current or the pending profile of a terminal in ADMITTING, SERVING or FADING would
lie outside its new bounds (R23). -/
def inUseFailures (r : Terminal) (es : List FieldEntry) (new : TermConfig) : List Nat :=
  let pendingOut := match r.ladder.pending with
    | some p => new.outside p.target
    | none => false
  if profileCheckRuns es new && r.link.state.usesProfile && (new.outside r.ladder.current || pendingOut) then
    [lowestNamed es [6, 7]]
  else []

/-! ### The effects (R24 to R27, R79) -/

/-- The slots of terminal `t` on carrier `c` that leave its home slots take their configured base kind (R25, R79). -/
def Carrier.releaseSlots (k : Carrier) (slots : List SlotNo) : Carrier :=
  slots.foldl (fun x slot => x.setSlot slot (x.cfg.baseKind slot)) k

/-- The slots that join the home slots of `t` take TRAFFIC for it (R24, R79). -/
def Carrier.claimSlots (k : Carrier) (t : TermNo) (slots : List SlotNo) : Carrier :=
  slots.foldl (fun x slot => x.setSlot slot (.traffic t)) k

/-- The home slots a configuration gives its terminal on carrier `c`: none while unconfigured (R79). -/
def TermConfig.slotsOn (cfg : TermConfig) (c : CarrierNo) : List SlotNo :=
  if cfg.configured = true ∧ cfg.carrier = c then cfg.homeSlots else []

/-- Slots leave and join the home slots of `t` on carrier `c` as its configuration goes from `old` to `new` (R79). -/
def moveSlots (t : TermNo) (old new : TermConfig) (s : Sector) (c : CarrierNo) : Sector :=
  let before := old.slotsOn c
  let after := new.slotsOn c
  s.modCar c fun k =>
    (k.releaseSlots (before.filter fun x => !after.contains x)).claimSlots t (after.filter fun x => !before.contains x)

/-- The active copies after a write that named their settings: changed only when the timer or compare is not running
(R27). -/
def LinkFields.activeCopies (es : List FieldEntry) (cfg : TermConfig) (l : LinkFields) : LinkFields :=
  { l with fadeActive := if names es 15 && !l.fadeOn then cfg.fadeTimeout else l.fadeActive
           lendActive := if names es 17 && !l.outageOn then cfg.lendDelay else l.lendActive
           warmActive := if names es 18 && !l.outageOn then cfg.warmLimit else l.warmActive
           guardActive := if names es 19 && !l.guardOn then cfg.guardPeriod else l.guardActive }

/-- In CALLED and TRIMMING a current profile outside the new bounds becomes the re-entry profile (R23). -/
def Terminal.rebound (es : List FieldEntry) (r : Terminal) : Terminal :=
  if profileCheckRuns es r.cfg && (decide (r.link.state = .called) || decide (r.link.state = .trimming)) &&
      r.cfg.outside r.ladder.current then
    { r with ladder := { r.ladder with current := r.cfg.reentry } }
  else r

/-- The record with its configuration, and what depends on it at once (R18, R23, R27). -/
def Terminal.configure (es : List FieldEntry) (new : TermConfig) (r : Terminal) : Terminal :=
  ({ r with cfg := new, link := r.link.activeCopies es new } : Terminal).rebound es

/-- The record of `t` with every dynamic field at its power-on value (R24, R25). -/
def Sector.freshRecord (s : Sector) (t : TermNo) : Sector := (s.emptyQueue t).modTerm t Terminal.fresh

/-- An accepted WRITE-TERMINAL takes effect (R24 to R27). -/
def Sector.writeTerminal (s : Sector) (t : TermNo) (es : List FieldEntry) (new : TermConfig) : Sector :=
  let old := (s.term t).cfg
  let written := s.modTerm t (Terminal.configure es new)
  let fresh := if old.configured = new.configured then written else written.freshRecord t
  let moved := allCarriers.foldl (moveSlots t old new) fresh
  let placed := if (moved.term t).link.state = .called then moved.modRes new.carrier (Scheduler.reclass t new.cls) else moved
  if old.autoAdmit = false ∧ new.autoAdmit = true then placed.examineAdmission t else placed

/-- The checks of Table 2.2 from order 2, at one record: the status and the field a refusal names. -/
def Sector.writeCheck (s : Sector) (t : TermNo) (es : List FieldEntry) : Status × Nat :=
  let r := s.term t
  let new := r.cfg.withFields es
  match rangeFailures r.cfg es with
  | x :: l => (.badValue, pickField (x :: l))
  | [] =>
    match stateFailures r new with
    | x :: l => (.wrongState, pickField (x :: l))
    | [] =>
      match s.conflictFailures t es new with
      | x :: l => (.conflict, pickField (x :: l))
      | [] =>
        match inUseFailures r es new with
        | x :: l => (.inUse, pickField (x :: l))
        | [] => (.done, 0)

/-- One WRITE-TERMINAL, one event at its record (R19). -/
def writeOne (es : List FieldEntry) : Application := fun s t =>
  let status := (s.sector.writeCheck t es).1
  if status = .done then
    (s.event fun x => x.writeTerminal t es ((x.term t).cfg.withFields es), .done)
  else (s, status)

/-- The body of a refusal that names no field: one byte 0 under TERMINAL, empty for a group (Table 12.7). -/
def noTermField (r : Request) : List Byte := if r.kind = 1 then be8 0 else []

/-- Every field of the set may be written to a group (R19, Table 2.1). -/
def groupFields (es : List FieldEntry) : Bool := es.all fun e => isGroupField e.code

/-- WRITE-TERMINAL by its selector: a set that names a field no group may carry is refused for a group as a whole (R19,
R171). -/
def writePlan (r : Request) (sel : Selector) : GroupPlan :=
  match fieldSet termWidth r.body with
  | none => .refuse { status := .badValue, body := noTermField r }
  | some es =>
    match sel with
    | .terminal _ => .apply (writeOne es)
    | .carrier _ => if groupFields es then .apply (writeOne es) else .refuse (.plain .badSelector)
    | .sector => if groupFields es then .apply (writeOne es) else .refuse (.plain .badSelector)

/-- The response to a WRITE-TERMINAL under TERMINAL names the field whose check failed (R19, Table 12.7). -/
def writeAnswer (r : Request) (before : State) (t : TermNo) (a : State × Status) : Reply :=
  let es := (fieldSet termWidth r.body).getD []
  { status := a.2, body := if a.2 = .done then [] else be8 (before.sector.writeCheck t es).2 }

/-- WRITE_TERMINAL (R19). -/
def execWriteTerminal (s : State) : Host.Outcome State Fault Refusal :=
  .next (s.serveGroup 2 writePlan writeAnswer noTermField)

end Sys2Proof.Machine
end

