-- ==== Sys2Proof/Machine/Requests.lean ====
section
/-! DEFINITION. Requests on the Tag Map (Section 1.1), the Profile Table (Section 7.1), and the Management Unit's own state
(Sections 10.6 and 10.7). -/

namespace Sys2Proof.Machine

/-! ### BIND-TAG, UNBIND-TAG, READ-TAG (R2 to R4) -/

/-- The two-byte number a body gives, if that is its form. -/
def twoByteBody (body : List Byte) : Option Nat := if body.length = 2 then some (beNat body) else none

/-- A tag that a request may bind or unbind: not 0, not 4095, not above 4095 (R2, R3). -/
def bindable (n : Nat) : Option Tag :=
  if h : n < 4095 then (if n = 0 then none else some ⟨n, Nat.lt_succ_of_lt h⟩) else none

/-- The state with the Tag Map entry of `tag` set. -/
def State.setTag (s : State) (tag : Tag) (e : Option TermNo) : State := { s with tagMap := s.tagMap.write none tag e }

/-- The response body of BIND-TAG and UNBIND-TAG: the tag and the terminal its entry holds (R2, Table 12.7). -/
def tagBody (tag : Tag) (e : Option TermNo) : List Byte :=
  be16 tag.val ++ be16 (match e with | some t => t.val | none => 65535)

/-- BIND-TAG (R2). -/
def State.bindTagRequest (r : Request) (t : TermNo) (s : State) : State × Reply :=
  match (twoByteBody r.body).bind bindable with
  | none => (s, .plain .badValue)
  | some tag =>
    match s.tagEntry tag with
    | none => (s.setTag tag (some t), { status := .done, body := tagBody tag (some t) })
    | some o => (s, { status := if o = t then .done else .conflict, body := tagBody tag (some o) })

/-- UNBIND-TAG (R3). -/
def State.unbindTagRequest (r : Request) (t : TermNo) (s : State) : State × Reply :=
  match (twoByteBody r.body).bind bindable with
  | none => (s, .plain .badValue)
  | some tag =>
    match s.tagEntry tag with
    | none => (s, { status := .done, body := tagBody tag none })
    | some o =>
      if o = t then (s.setTag tag none, { status := .done, body := tagBody tag none })
      else (s, { status := .conflict, body := tagBody tag (some o) })

/-- Every tag value, ascending. -/
def allTags : List Tag := List.finRange 4096

/-- The tags at or above `start` whose entries hold `t`, ascending (R4). -/
def State.tagsOf (s : State) (t : TermNo) (start : Nat) : List Tag :=
  allTags.filter fun tag => decide (start ≤ tag.val) && decide (s.tagEntry tag = some t)

/-- The continuation tag: the last tag listed plus one when more tags remain above it (R4). -/
def continuation (tags : List Tag) : Option Nat :=
  if 256 < tags.length then (tags.take 256).getLast?.map fun tag => tag.val + 1 else none

/-- READ-TAG (R4). -/
def State.readTagRequest (r : Request) (t : TermNo) (s : State) : State × Reply :=
  match twoByteBody r.body with
  | none => (s, .plain .badValue)
  | some start =>
    if 4095 < start then (s, .plain .badValue)
    else
      let tags := s.tagsOf t start
      let shown := tags.take 256
      (s, { status := .done
            body := bit (continuation tags).isSome ++ be16 ((continuation tags).getD 0) ++ be16 shown.length ++
              (shown.map fun tag => be16 tag.val).flatten })

/-! ### LOAD-PROFILE and READ-PROFILE (R123, R124) -/

/-- The entry and index a LOAD-PROFILE body gives; none when a value lies outside its range, or the down margin is not
below the up margin (R123, Table 7.1). -/
def parseProfile : List Byte → Option (ProfileNo × Profile)
  | [i, en, m, cr, snr, up, down, hold, room] =>
    match profileByte i, flagByte en, Modulation.ofCode m.toNat, CodeRate.ofCode cr.toNat with
    | some p, some enabled, some modulation, some rate =>
      if snr.toNat ≤ 100 ∧ down.toInt < up.toInt ∧ 1 ≤ hold.toNat ∧ hold.toNat ≤ 63 ∧ room.toNat ≤ 63 then
        some (p, { enabled := enabled, modulation := modulation, codeRate := rate, requiredSnr := snr.toNat
                   upMargin := up.toInt, downMargin := down.toInt, stepUpHold := hold.toNat
                   neededHeadroom := room.toNat })
      else none
    | _, _, _, _ => none
  | _ => none

/-- Entry `p` is the current profile or the pending target of a terminal in ADMITTING, SERVING or FADING (R123). -/
def Terminal.usesNow (p : ProfileNo) (r : Terminal) : Bool :=
  r.link.state.usesProfile && (decide (r.ladder.current = p) ||
    match r.ladder.pending with
    | some q => decide (q.target = p)
    | none => false)

/-- Entry `p` is the floor, ceiling or re-entry profile of a terminal (R123). -/
def Terminal.bounds (p : ProfileNo) (r : Terminal) : Bool :=
  decide (r.cfg.floor = p) || decide (r.cfg.ceiling = p) || decide (r.cfg.reentry = p)

/-- The lowest-numbered terminal that keeps entry `p` in use, by check 3 and then check 4 (R123). -/
def Sector.profileUser (s : Sector) (p : ProfileNo) : Option TermNo :=
  match s.configuredTerms.find? fun t => (s.term t).usesNow p with
  | some t => some t
  | none => s.configuredTerms.find? fun t => (s.term t).bounds p

/-- The sector with entry `p` of the Profile Table set. -/
def Sector.setProfile (s : Sector) (p : ProfileNo) (x : Profile) : Sector := { s with profiles := s.profiles.set p x }

/-- LOAD-PROFILE (R123). -/
def State.loadProfileRequest (r : Request) (_ : Unit) (s : State) : State × Reply :=
  match parseProfile r.body with
  | none => (s, .plain .badValue)
  | some (p, x) =>
    let user := if (s.sector.profile p).enabled && !x.enabled then s.sector.profileUser p else none
    match user with
    | some t => (s, { status := .inUse, body := be8 p.val ++ be8 t.val })
    | none => (s.onSector fun z => z.setProfile p x, { status := .done, body := be8 p.val })

/-- The nine fields of an entry, coded as a LOAD-PROFILE body (Table 12.7). -/
def Profile.bytes (p : ProfileNo) (x : Profile) : List Byte :=
  be8 p.val ++ bit x.enabled ++ be8 x.modulation.code ++ be8 x.codeRate.code ++ be8 x.requiredSnr ++
  beInt8 x.upMargin ++ beInt8 x.downMargin ++ be8 x.stepUpHold ++ be8 x.neededHeadroom

/-- The configured terminals whose current profile is entry `p` (R124). -/
def Sector.profileUsers (s : Sector) (p : ProfileNo) : Nat :=
  s.configuredTerms.countP fun t => decide ((s.term t).ladder.current = p)

/-- READ-PROFILE (R124). -/
def State.readProfileRequest (_ : Unit) (s : State) : State × Reply :=
  (s, { status := .done
        body := (allProfiles.map fun p => (s.sector.profile p).bytes p ++ be16 (s.sector.profileUsers p)).flatten })

/-! ### READ-EVENTS and SET-NOTICES (R174, R175) -/

/-- READ-EVENTS: the six sets are returned and emptied, and the notice-outstanding flag is cleared (R174). -/
def State.readEventsRequest (_ : Unit) (s : State) : State × Reply :=
  ({ s with sector := s.sector.note fun _ => {}, mgu := { s.mgu with outstanding := false } },
   { status := .done, body := s.sector.events.bytes })

/-- The six enables of a SET-NOTICES body (Table 12.6, R181). -/
def parseEnables : List Byte → Option NoticeEnables
  | [a, b, c, d, e, f] =>
    match flagByte a, flagByte b, flagByte c, flagByte d, flagByte e, flagByte f with
    | some a, some b, some c, some d, some e, some f =>
      some { stateChange := a, carrier := b, rangeFail := c, storm := d, listFull := e, store := f }
    | _, _, _, _, _, _ => none
  | _ => none

/-- SET-NOTICES: the enables and the destination are set, then the notice test is made (R175). -/
def State.setNoticesRequest (r : Request) (_ : Unit) (s : State) : State × Reply :=
  match parseEnables r.body with
  | none => (s, .plain .badValue)
  | some n => (State.noticeTest { s with mgu := { s.mgu with enables := n, noticeDest := r.source } }, .plain .done)

/-! ### SET-SECTOR (R176) -/

/-- Sector fields: 1 the station address, 2 the store low mark (Section 12.4). -/
def isSectorField (c : Nat) : Bool := decide (c = 1) || decide (c = 2)

/-- Widths of the sector fields (Section 12.4). -/
def sectorWidth (c n : Nat) : Bool :=
  match c with
  | 1 => decide (n = 6)
  | 2 => decide (n = 2)
  | _ => true

/-- A station address that is all zeros or a group address (R176). -/
def badStation (v : List Byte) : Bool := decide (beNat v = 0) || (byteAt v 0).getLsbD 0

/-- The codes of the sector fields that fail, by the first check that any fails (R176). -/
def sectorFailures (es : List FieldEntry) : List Nat :=
  match misnamed isSectorField es with
  | x :: l => x :: l
  | [] =>
    if es.any fun e => decide (e.code = 1) && badStation e.value then [1]
    else if es.any fun e => decide (e.code = 2) && decide (8192 < beNat e.value) then [2]
    else []

/-- The state with one sector field set (R176). -/
def State.setSectorField (s : State) (e : FieldEntry) : State :=
  if e.code = 1 then { s with mgu := { s.mgu with station := BitVec.ofNat 48 (beNat e.value) } }
  else if e.code = 2 then s.onSector fun x => { x with storeLowMark := beNat e.value }
  else s

/-- The body of an accepted SET-SECTOR: both settings as they stand after it (R176, Table 12.7). -/
def State.sectorBody (s : State) : List Byte := beBytes 6 s.mgu.station.toNat ++ be16 s.sector.storeLowMark

/-- SET-SECTOR (R176). -/
def State.setSectorRequest (r : Request) (_ : Unit) (s : State) : State × Reply :=
  match fieldSet sectorWidth r.body with
  | none => (s, { status := .badValue, body := be8 0 })
  | some es =>
    match sectorFailures es with
    | x :: l => (s, { status := .badValue, body := be8 (pickField (x :: l)) })
    | [] =>
      let set := es.foldl State.setSectorField s
      (set, { status := .done, body := set.sectorBody })

/-- The body of a SET-SECTOR refusal that names no field (Table 12.7). -/
def noSectorField (_ : Request) : List Byte := be8 0

/-! ### The meanings -/

/-- BIND_TAG (R2). -/
def execBindTag (s : State) : Host.Outcome State Fault Refusal :=
  .next (s.serve 3 Request.terminal? State.bindTagRequest)

/-- UNBIND_TAG (R3). -/
def execUnbindTag (s : State) : Host.Outcome State Fault Refusal :=
  .next (s.serve 4 Request.terminal? State.unbindTagRequest)

/-- READ_TAG (R4). -/
def execReadTag (s : State) : Host.Outcome State Fault Refusal :=
  .next (s.serve 5 Request.terminal? State.readTagRequest)

/-- LOAD_PROFILE (R123). -/
def execLoadProfile (s : State) : Host.Outcome State Fault Refusal :=
  .next (s.serve 6 Request.sector? State.loadProfileRequest)

/-- READ_PROFILE (R124). -/
def execReadProfile (s : State) : Host.Outcome State Fault Refusal :=
  .next (s.serve 7 Request.sector? (emptyBody State.readProfileRequest))

/-- READ_EVENTS (R174). -/
def execReadEvents (s : State) : Host.Outcome State Fault Refusal :=
  .next (s.serve 16 Request.sector? (emptyBody State.readEventsRequest))

/-- SET_NOTICES (R175). -/
def execSetNotices (s : State) : Host.Outcome State Fault Refusal :=
  .next (s.serve 17 Request.sector? State.setNoticesRequest)

/-- SET_SECTOR (R176). -/
def execSetSector (s : State) : Host.Outcome State Fault Refusal :=
  .next (s.serve 19 Request.sector? State.setSectorRequest noSectorField)

end Sys2Proof.Machine
end

