-- ==== Sys2Proof/Machine/CarrierWrites.lean ====
section
/-! DEFINITION. WRITE-CARRIER (Sections 4.1 and 4.2): the field set's form, the checks of Table 4.3, and the effects of R68,
R70 and R79. -/

namespace Sys2Proof.Machine

/-- Carrier settings have codes 1 to 24 (Section 12.4). -/
def isCarrierField (c : Nat) : Bool := decide (1 ≤ c) && decide (c ≤ 24)

/-- The width of each setting's value: 4 bytes for the base slot kinds, 2 for numbers beyond a byte, 1 for the rest
(Section 12.4). -/
def carrierWidth (c n : Nat) : Bool :=
  match c with
  | 6 => decide (n = 2)
  | 15 => decide (n = 2)
  | 19 => decide (n = 2)
  | 24 => decide (n = 4)
  | _ => !isCarrierField c || decide (n = 1)

/-- The settings with one set to a value; none when the value lies outside its range (Table 4.1). -/
def CarrierConfig.setField (cfg : CarrierConfig) (e : FieldEntry) : Option CarrierConfig :=
  let v := e.value
  match e.code with
  | 1 => (withinFlag v).map fun x => { cfg with enabled := x }
  | 2 => (within 2 15 v).map fun x => { cfg with grantLead := x }
  | 3 => (within 2 15 v).map fun x => { cfg with applyLead := x }
  | 4 => (within 0 15 v).map fun x => { cfg with settle := x }
  | 5 => (within 1 15 v).map fun x => { cfg with trimLimit := x }
  | 6 => (within 16 4095 v).map fun x => { cfg with searchWindow := x }
  | 7 => (within 0 255 v).map fun x => { cfg with fineWindow := x }
  | 8 => (within 0 20 v).map fun x => { cfg with powerWindow := x }
  | 9 => (within 0 100 v).map fun x => { cfg with targetSnr := x }
  | 10 => (within 1 4 v).map fun x => { cfg with paceLimit := x }
  | 11 => (within 1 4 v).map fun x => { cfg with recoveryPace := x }
  | 12 => (within 1 8 v).map fun x => { cfg with rangingSize := x }
  | 13 => (within 0 8 v).map fun x => { cfg with offerLimit := x }
  | 14 => (within 0 8 v).map fun x => { cfg with recoveryOffer := x }
  | 15 => (within 1 65535 v).map fun x => { cfg with recoveryPeriod := x }
  | 16 => (within 8 64 v).map fun x => { cfg with backoffWindow := x }
  | 17 => (within 1 64 v).map fun x => { cfg with backoffHigh := x }
  | 18 => (within 0 63 v).map fun x => { cfg with backoffLow := x }
  | 19 => (within 1 65535 v).map fun x => { cfg with admitWaitLimit := x }
  | 20 => (within 1 255 v).map fun x => { cfg with yieldPeriod := x }
  | 21 => (within 1 64 v).map fun x => { cfg with releaseBudget := x }
  | 22 => (withinFlag v).map fun x => { cfg with guardRestart := x }
  | 23 => (withinFlag v).map fun x => { cfg with fadeStepDown := x }
  | 24 => some { cfg with base := BitVec.ofNat 32 (beNat v) }
  | _ => none

/-- The settings as they would stand with every field of the set applied; a value out of range is passed over. -/
def CarrierConfig.withFields (cfg : CarrierConfig) (es : List FieldEntry) : CarrierConfig :=
  es.foldl (fun k e => (k.setField e).getD k) cfg

/-! ### The checks of Table 4.3 -/

/-- Check 2: the codes of the fields that fail (R68). -/
def carrierRangeFailures (cfg : CarrierConfig) (es : List FieldEntry) : List Nat :=
  let new := cfg.withFields es
  let single := misnamed isCarrierField es ++
    (es.filter fun e => isCarrierField e.code && (cfg.setField e).isNone).map (·.code)
  single ++
  if !(single.contains 17 || single.contains 18) && decide (new.backoffHigh ≤ new.backoffLow) then
    [lowestNamed es [17, 18]]
  else []

/-- Some configured terminal bound to the carrier is not HELD (Table 4.3). -/
def Sector.anyNotHeld (s : Sector) (c : CarrierNo) : Bool :=
  (s.boundTo c).any fun t => decide ((s.term t).link.state ≠ .held)

/-- Check 3: the code named when the base slot kinds change on a carrier that is not DISABLED, or the carrier is disabled
with a terminal not HELD: the lower of enabled and the base slot kinds among those the set names (R68; log 14). -/
def Sector.carrierStateFailures (s : Sector) (c : CarrierNo) (es : List FieldEntry) (new : CarrierConfig) : List Nat :=
  let k := s.car c
  let disables := k.cfg.enabled && !new.enabled
  let rebases := decide (new.base ≠ k.cfg.base)
  if (rebases && decide (k.state ≠ .disabled)) || (disables && s.anyNotHeld c) then
    [lowestNamed es [1, 24]]
  else []

/-- Check 4: a slot whose resulting base kind is REENTRY is a home slot of a configured terminal of the carrier (R68). -/
def Sector.baseFailures (s : Sector) (c : CarrierNo) (new : CarrierConfig) : List Nat :=
  if (s.boundTo c).any fun t => (s.term t).cfg.homeSlots.any fun x => decide (new.baseKind x = .reentry) then [24] else []

/-- The checks of Table 4.3 from check 2: the status and the field a refusal names. -/
def Sector.carrierCheck (s : Sector) (c : CarrierNo) (es : List FieldEntry) : Status × Nat :=
  let cfg := (s.car c).cfg
  let new := cfg.withFields es
  match carrierRangeFailures cfg es with
  | x :: l => (.badValue, pickField (x :: l))
  | [] =>
    match s.carrierStateFailures c es new with
    | x :: l => (.wrongState, pickField (x :: l))
    | [] =>
      match s.baseFailures c new with
      | x :: l => (.conflict, pickField (x :: l))
      | [] => (.done, 0)

/-! ### The effects (R68, R70, R79) -/

/-- The current kind of a slot that is no home slot follows its base kind (R79). -/
def SlotUse.rebase (u base : SlotUse) : SlotUse :=
  match u with
  | .opened => base
  | .reentry => base
  | .traffic t => .traffic t
  | .lent t m => .lent t m

/-- The settings take their new values, and the current kinds of REENTRY and OPEN slots follow (R68, R79). -/
def Carrier.configure (k : Carrier) (new : CarrierConfig) : Carrier :=
  allSlots.foldl (fun x slot => x.setSlot slot ((x.slotUse slot).rebase (new.baseKind slot))) { k with cfg := new }

/-- Enabled goes from no to yes: DISABLED to DOWN with a recovery count of 0 (R70). -/
def Sector.enable (s : Sector) (c : CarrierNo) : Sector :=
  (s.setCarrierState c .down).modCar c fun k => { k with recovery := 0 }

/-- Enabled goes from yes to no: DISABLED, the calendar cleared without outcome or refund, the recovery count, the backoff
window and the exponent reset (R70, R102). -/
def Sector.disable (s : Sector) (c : CarrierNo) : Sector :=
  ((s.setCarrierState c .disabled).clearCalendar c).modCar c fun k =>
    { k with recovery := 0, res := { k.res with window := [], exponent := 0 } }

/-- An accepted WRITE-CARRIER takes effect: base slot kinds before a change of enabled (R68, R70). -/
def Sector.writeCarrier (s : Sector) (c : CarrierNo) (new : CarrierConfig) : Sector :=
  let old := (s.car c).cfg.enabled
  let written := s.modCar c fun k => k.configure new
  if old = new.enabled then written
  else if new.enabled then written.enable c
  else written.disable c

/-- The body of a refusal that names no field (Table 12.7). -/
def noCarrierField (_ : Request) : List Byte := be8 0

/-- WRITE-CARRIER (R68). -/
def State.writeCarrierRequest (r : Request) (c : CarrierNo) (s : State) : State × Reply :=
  match fieldSet carrierWidth r.body with
  | none => (s, { status := .badValue, body := noCarrierField r })
  | some es =>
    let check := s.sector.carrierCheck c es
    if check.1 = .done then (s.event fun x => x.writeCarrier c ((x.car c).cfg.withFields es), .plain .done)
    else (s, { status := check.1, body := be8 check.2 })

/-- WRITE_CARRIER (R68). -/
def execWriteCarrier (s : State) : Host.Outcome State Fault Refusal :=
  .next (s.serve 8 Request.carrier? State.writeCarrierRequest noCarrierField)

end Sys2Proof.Machine
end

