-- ==== Sys2Proof/Machine/Directives.lean ====
section
/-! DEFINITION. The Directive Composer (Chapter 9): the ranks and their rotation, placing and sending, what is left over, and
the list handed to the Modem Link. -/

namespace Sys2Proof.Machine

/-- The five ranks, highest first (R160). -/
inductive Rank
  | halt | admission | stepDown | grant | stepUp
  deriving DecidableEq, Repr

/-- Places in the body of a list (R160). -/
def bodyPlaces : Nat := 12

/-- The pending profile has direction `d` (R160). -/
def LadderFields.pendingIs (d : Direction) (l : LadderFields) : Bool :=
  match l.pending with
  | some p => decide (p.direction = d)
  | none => false

/-- A terminal owes a mark of the rank (R160, Table 9.1). -/
def Rank.owedBy (k : Rank) (r : Terminal) : Bool :=
  match k with
  | .halt => r.owed.halt
  | .admission => r.owed.admission
  | .stepDown => r.owed.profile && r.ladder.pendingIs .stepDown
  | .grant => r.owed.grant.isSome
  | .stepUp => r.owed.profile && r.ladder.pendingIs .stepUp

/-- A rank's rotation pointer (R161). -/
def RankPointers.get (p : RankPointers) (k : Rank) : TermNo :=
  match k with
  | .halt => p.halt
  | .admission => p.admission
  | .stepDown => p.stepDown
  | .grant => p.grant
  | .stepUp => p.stepUp

/-- The pointers with that of rank `k` set to the terminal just served (R161). -/
def RankPointers.set (p : RankPointers) (k : Rank) (t : TermNo) : RankPointers :=
  match k with
  | .halt => { p with halt := t }
  | .admission => { p with admission := t }
  | .stepDown => { p with stepDown := t }
  | .grant => { p with grant := t }
  | .stepUp => { p with stepUp := t }

/-- The terminal a directive names. -/
def Directive.terminal : Directive → TermNo
  | .trim t _ _ _ => t
  | .profile t _ _ _ _ => t
  | .admission t _ _ => t
  | .halt t => t

/-- A TRIM directive. -/
def Directive.isTrim : Directive → Bool
  | .trim _ _ _ _ => true
  | .profile _ _ _ _ _ => false
  | .admission _ _ _ => false
  | .halt _ => false

/-- A composition under way: the sector, the body so far, and whether a mark reached was left for want of a place
(R165). -/
structure Draft where
  sector : Sector
  body : List Directive
  want : Bool
  deriving DecidableEq, Repr

/-! ### Sending (R163, R164) -/

/-- A HALT is sent (R163). -/
def Sector.sendHalt (s : Sector) (c : CarrierNo) (t : TermNo) : Sector × Directive :=
  ((s.modOwed t fun o => { o with halt := false }).countDcp c fun k => { k with haltsSent := k.haltsSent + 1 }, .halt t)

/-- An ADMIT is sent, its effective frame recorded when `t` is ADMITTING (R163). -/
def Sector.sendAdmission (s : Sector) (c : CarrierNo) (g : FrameNo) (t : TermNo) : Sector × Directive :=
  let e := FrameNo.plus g (s.car c).cfg.applyLead
  let sent := s.modTerm t fun r =>
    { r with owed := { r.owed with admission := false }
             adm := if r.link.state = .admitting then { r.adm with sent := some e } else r.adm }
  (sent.countDcp c fun k => { k with admitsSent := k.admitsSent + 1 }, .admission t e (s.term t).cfg.homeSlots)

/-- A PROFILE of pending profile `p` is sent and its apply frame recorded (R164). -/
def Sector.sendProfile (s : Sector) (c : CarrierNo) (g : FrameNo) (t : TermNo) (p : PendingProfile) :
    Sector × Directive :=
  let f := FrameNo.plus g (s.car c).cfg.applyLead
  let entry := s.profile p.target
  let sent := s.modTerm t fun r =>
    { r with owed := { r.owed with profile := false }
             ladder := { r.ladder with pending := some { p with apply := some f } } }
  (sent.countDcp c fun k =>
    match p.direction with
    | .stepDown => { k with downsSent := k.downsSent + 1 }
    | .stepUp => { k with upsSent := k.upsSent + 1 },
   .profile t p.target entry.modulation entry.codeRate f)

/-- A GRANT is sent as a TRIM; the grant outstanding stays (R164). -/
def Sector.sendGrant (s : Sector) (c : CarrierNo) (t : TermNo) (x : GrantRef) : Sector × Directive :=
  let r := s.term t
  ((s.modOwed t fun o => { o with grant := none }).countDcp c fun k => { k with trimsSent := k.trimsSent + 1 },
   .trim t x r.range.correction r.range.power)

/-! ### Placing (R160 to R162) -/

/-- What sending gives is placed in the body and the rank's pointer moves; a full body leaves the mark (R160, R161). -/
def Draft.place (d : Draft) (c : CarrierNo) (k : Rank) (t : TermNo) (sent : Sector × Directive) : Draft :=
  if bodyPlaces ≤ d.body.length then { d with want := true }
  else
    { d with sector := sent.1.modCar c fun x => { x with dcp := x.dcp.set k t }
             body := d.body ++ [sent.2] }

/-- An owed GRANT is judged: late, pace reached, or placed (R162). -/
def Draft.judgeGrant (d : Draft) (c : CarrierNo) (g : FrameNo) (t : TermNo) (x : GrantRef) : Draft :=
  if FrameNo.later x.frame g then
    if (d.sector.car c).pace ≤ d.body.countP Directive.isTrim then d
    else d.place c .grant t (d.sector.sendGrant c t x)
  else
    { d with sector := (d.sector.withdraw t).countDcp c fun n => { n with lateGrants := n.lateGrants + 1 } }

/-- Terminal `t` is reached in a rank: passed over when it holds a directive already, or owes no mark of the rank
(R160, R161). -/
def Draft.reach (c : CarrierNo) (g : FrameNo) (k : Rank) (d : Draft) (t : TermNo) : Draft :=
  if d.body.any (fun x => decide (x.terminal = t)) then d
  else if k.owedBy (d.sector.term t) then
    match k with
    | .halt => d.place c .halt t (d.sector.sendHalt c t)
    | .admission => d.place c .admission t (d.sector.sendAdmission c g t)
    | .stepDown | .stepUp =>
      match (d.sector.term t).ladder.pending with
      | some p => d.place c k t (d.sector.sendProfile c g t p)
      | none => d
    | .grant =>
      match (d.sector.term t).owed.grant with
      | some x => d.judgeGrant c g t x
      | none => d
  else d

/-- One rank, in the rotation order of its pointer (R161). -/
def Draft.rank (c : CarrierNo) (g : FrameNo) (d : Draft) (k : Rank) : Draft :=
  (rotated ((d.sector.car c).dcp.get k) (d.sector.boundTo c)).foldl (Draft.reach c g k) d

/-- The five ranks in order (R160). -/
def allRanks : List Rank := [.halt, .admission, .stepDown, .grant, .stepUp]

/-! ### The list (R158, R159, R165) -/

/-- The offered call slots of upstream frame `g` + grant lead, if its row is filled (R159). -/
def Carrier.offeredSlots (k : Carrier) (g : FrameNo) : List SlotNo :=
  match k.row? (FrameNo.plus g k.cfg.grantLead) with
  | some r => if r.filled then allSlots.filter fun x => decide (r.cell x = .offered) else []
  | none => []

/-- Every GRANT still owed on carrier `c` is withdrawn (R165). -/
def Sector.withdrawLeft (s : Sector) (c : CarrierNo) : Sector := (s.boundTo c).foldl Sector.withdraw s

/-- A full list is reported (R165). -/
def Sector.noteFull (s : Sector) (c : CarrierNo) : Sector :=
  (s.countDcp c fun k => { k with fullLists := k.fullLists + 1 }).note (·.addListFull c)

/-- The body of a list of an UP or RECOVERING carrier, composed and sent (R160 to R165). -/
def Sector.compose (s : Sector) (c : CarrierNo) (g : FrameNo) : Sector × List Directive :=
  let d := allRanks.foldl (Draft.rank c g) { sector := s, body := [], want := false }
  let left := d.sector.withdrawLeft c
  (if d.want then left.noteFull c else left, d.body)

/-- A list-close: exactly one list is handed to the Modem Link (R158). -/
def Sector.listClose (s : Sector) (c : CarrierNo) (g : FrameNo) : Sector :=
  let k := s.car c
  let counted := s.countDcp c fun n => { n with listCloses := n.listCloses + 1 }
  if k.state = .up ∨ k.state = .recovering then
    let made := counted.compose c g
    made.1.handOut
      [.list { carrier := c, frame := g, exponent := k.res.exponent, offered := k.offeredSlots g, body := made.2 }]
  else
    (counted.countDcp c fun n => { n with headerOnly := n.headerOnly + 1 }).handOut
      [.list { carrier := c, frame := g, exponent := k.res.exponent, offered := [], body := [] }]

/-- LIST_CLOSE (R158). -/
def execListClose (c : CarrierNo) (g : FrameNo) (s : State) : Host.Outcome State Fault Refusal :=
  .next (s.event fun x => x.listClose c g)

end Sys2Proof.Machine
end

