-- ==== Sys2Proof/Machine/Outcome.lean ====
section
/-! DEFINITION. Dispatch of slot outcomes (Section 4.5). -/

namespace Sys2Proof.Machine

/-- What a good traffic burst hands to the PLD, the HFS and the FCL (R85). -/
structure GoodBurst where
  snr : Nat
  fragment : Fragment
  pause : Bool
  payload : List (List Byte)
  deriving DecidableEq, Repr

/-- A good traffic burst of `t`: a BURST of kind TRAFFIC claiming `t` (R85). -/
def goodFor (t : TermNo) (o : SlotResult) : Option GoodBurst :=
  match o with
  | .burst b =>
    match b.kind with
    | .traffic x pause payload =>
      if b.claimed = t then some { snr := b.snr, fragment := x, pause := pause, payload := payload } else none
    | .call _ _ => none
    | .trim _ => none
  | .empty => none
  | .garbled => none

/-- A burst claiming a terminal other than `t`, of any kind (Table 4.7). -/
def foreignTo (t : TermNo) (o : SlotResult) : Bool :=
  match o with
  | .burst b => decide (b.claimed ≠ t)
  | .empty => false
  | .garbled => false

/-- A BURST. -/
def isBurst : SlotResult → Bool
  | .burst _ => true
  | .empty => false
  | .garbled => false

/-- A stray outcome (R85). -/
def Sector.stray (s : Sector) (c : CarrierNo) (o : SlotResult) : Sector :=
  s.countCsp c fun k =>
    { k with strayOutcomes := k.strayOutcomes + 1
             strayBursts := if isBurst o then k.strayBursts + 1 else k.strayBursts }

/-- A good traffic burst of `t`: to the LSV, to the PLD, whose SNR comes before its fragment, and to the HFS (R85, R128). -/
def Sector.goodBurst (s : Sector) (t : TermNo) (g : GoodBurst) : Sector :=
  (((s.lsvGoodBurst t).takeSnr t g.snr).takeFragment t g.fragment).takePauseFlag t g.pause

/-- A miss for `t`: a foreign burst is counted, the PLD discards a partial assembly, the LSV takes the miss (R85). -/
def Sector.slotMiss (s : Sector) (t : TermNo) (o : SlotResult) : Sector :=
  let counted := if foreignTo t o then s.countTerm t fun k => { k with foreignBursts := k.foreignBursts + 1 } else s
  (counted.breakAssembly t).lsvMiss t

/-- An outcome dispatched by the slot's current kind (R85, Table 4.7). -/
def Sector.byKind (s : Sector) (c : CarrierNo) (slot : SlotNo) (o : SlotResult) : Sector :=
  match (s.car c).slotUse slot with
  | .traffic t =>
    if (s.term t).link.state.inService then
      match goodFor t o with
      | some g => s.goodBurst t g
      | none => s.slotMiss t o
    else s.stray c o
  | .lent _ _ => s.stray c o
  | .reentry => s.stray c o
  | .opened => s.stray c o

/-- The cell an outcome for upstream frame `u` finds: that of the current row; none for another frame (R83). -/
def Carrier.outcomeCell (k : Carrier) (u : FrameNo) (slot : SlotNo) : Cell :=
  if u = k.lastFrame then k.cell u slot else .empty

/-- A slot outcome record taken by the CSP (R83, R84). -/
def Sector.slotOutcome (s : Sector) (c : CarrierNo) (u : FrameNo) (slot : SlotNo) (o : SlotResult) : Sector :=
  let counted := if u = (s.car c).lastFrame then s else s.countCsp c fun k => { k with outOfFrame := k.outOfFrame + 1 }
  let consumed := s.modCar c fun k => k.setCell u slot .empty
  match (s.car c).outcomeCell u slot with
  | .empty => counted.byKind c slot o
  | .offered => consumed.offeredOutcome c o
  | .granted t _ => consumed.rngOutcome c u slot t (TrimOutcome.ofResult t o)

/-- The terminal and payload of an outcome that is a good traffic burst from a terminal in service (R13, R85). -/
def Sector.payloadOf (s : Sector) (c : CarrierNo) (u : FrameNo) (slot : SlotNo) (o : SlotResult) :
    Option (TermNo × List (List Byte)) :=
  match (s.car c).outcomeCell u slot, (s.car c).slotUse slot with
  | .empty, .traffic t =>
    if (s.term t).link.state.inService then (goodFor t o).map fun g => (t, g.payload) else none
  | .empty, .lent _ _ => none
  | .empty, .reentry => none
  | .empty, .opened => none
  | .offered, _ => none
  | .granted _ _, _ => none

/-- A slot outcome record and the payload it carries upstream (R83 to R85, R13). -/
def State.slotOutcome (s : State) (c : CarrierNo) (u : FrameNo) (slot : SlotNo) (o : SlotResult) : State :=
  let taken := s.event fun x => x.slotOutcome c u slot o
  match s.sector.payloadOf c u slot o with
  | some p => taken.upstream p.1 p.2
  | none => taken

/-- SLOT_OUTCOME (R83); a record whose fields lie outside their ranges is discarded (R180, log 29). -/
def execSlotOutcome (c : CarrierNo) (u : FrameNo) (slot : SlotNo) (o : SlotResult) (s : State) :
    Host.Outcome State Fault Refusal := .next (if o.inRange then s.slotOutcome c u slot o else s)

end Sys2Proof.Machine
end

