-- ==== Sys2Proof/Machine/Resets.lean ====
section
/-! DEFINITION. Power-on, SECTOR-RESET and CARRIER-RESTART (Sections 10.7 and 10.8), and Modem Link records that arrive as
bytes (R180). -/

namespace Sys2Proof.Machine

/-! ### SECTOR-RESET (R65, R74, R102, R121, R138, R157, R161, R178) -/

/-- A configured terminal's part that is counted: an exchange ended, and the held queue discarded with cause STATE (R115,
R155). -/
def Sector.resetCounts (s : Sector) (t : TermNo) : Sector :=
  let ended := if (s.term t).link.state = .trimming then
    s.countRng (s.carrierOf t) fun k => { k with ended := k.ended + 1 } else s
  ended.discardHeldQueue t

/-- Every record keeps its configuration and counters; every dynamic field takes its power-on value (Table 2.9). -/
def resetRecords (l : Table 256 Terminal) : Table 256 Terminal :=
  (l.map fun e => (e.1, e.2.fresh)).filter fun e => decide (e.2 ≠ Terminal.powerOn)

/-- The carrier with every slot at its configured base kind. -/
def Carrier.baseSlots (k : Carrier) : Carrier :=
  allSlots.foldl (fun x slot => x.setSlot slot (x.cfg.baseKind slot)) { k with slots := [] }

/-- A carrier's dynamic fields after SECTOR-RESET, but for its home slots (Table 4.2, R74, R102, R157, R161). -/
def Carrier.sectorReset (k : Carrier) : Carrier :=
  { k.clearCalendar.baseSlots with
    state := if k.cfg.enabled then .down else .disabled
    recovery := 0
    res := {}
    releasePtr := 255
    dcp := {} }

/-- The home slots of the terminals of carrier `c` are TRAFFIC for them (R65, R79). -/
def Sector.restoreHomes (s : Sector) (c : CarrierNo) : Sector :=
  (s.boundTo c).foldl (fun x t => x.modCar c fun k => k.claimSlots t (s.term t).cfg.homeSlots) s

/-- SECTOR-RESET across the link side, its event sets left empty (R178). -/
def Sector.sectorReset (s : Sector) : Sector :=
  let counted := s.configuredTerms.foldl Sector.resetCounts s
  let records : Sector :=
    { counted with terms := resetRecords counted.terms, freeDescriptors := 4096, freeBlocks := 8192, events := {} }
  let carriers := allCarriers.foldl (fun x c => x.modCar c Carrier.sectorReset) records
  allCarriers.foldl Sector.restoreHomes carriers

/-- SECTOR-RESET: the whole event, the notice-outstanding flag cleared with the event sets (R178). -/
def State.sectorResetRequest (_ : Unit) (s : State) : State × Reply :=
  ({ s with sector := s.sector.sectorReset, mgu := { s.mgu with outstanding := false } }, .plain .done)

/-! ### CARRIER-RESTART (R64, R74, R179) -/

/-- CARRIER-RESTART of a carrier in DOWN, RECOVERING or UP, one event (R179). -/
def Sector.carrierRestart (s : Sector) (c : CarrierNo) : Sector :=
  let cleared := (s.clearCalendar c).modCar c fun k => { k with recovery := 0 }
  ((cleared.boundTo c).foldl Sector.restartAt cleared).setCarrierState c .down

/-- CARRIER-RESTART, refused in DISABLED (R74, R179). -/
def State.carrierRestartRequest (c : CarrierNo) (s : State) : State × Reply :=
  if (s.sector.car c).state = .disabled then (s, .plain .wrongState)
  else (s.event fun x => x.carrierRestart c, .plain .done)

/-! ### Records as bytes (R180) -/

/-- A record from the modem is taken by the rule of its type; a malformed one changes nothing (R180; log 28). -/
def State.takeRecord (s : State) (bytes : List Byte) : State :=
  match MlRecord.parse bytes with
  | none => s
  | some (.frameStart c f) => s.frameStart c f []
  | some (.carrierLost c) => s.event fun x => x.carrierLost c
  | some (.carrierFound c) => s.event fun x => x.carrierFound c
  | some (.slotOutcome c u slot o) => s.slotOutcome c u slot o
  | some (.listClose c g) => s.event fun x => x.listClose c g

/-! ### Power-on (R177) -/

/-- The part at its power-on values; the commands that wait, and what has already left the part, are no state of the part
and stay (R177; log 1). -/
def State.repower (s : State) (straps : Fin 64) : State :=
  let fresh := State.powerOn straps
  { fresh with
    pending := s.pending
    shares := s.shares
    sector := { fresh.sector with mlOut := s.sector.mlOut }
    npTraffic := s.npTraffic
    npMgmt := s.npMgmt }

/-! ### The meanings -/

/-- POWER_ON_RESET (R177). -/
def execPowerOnReset (straps : Fin 64) (s : State) : Host.Outcome State Fault Refusal := .next (s.repower straps)

/-- SECTOR_RESET (R178). -/
def execSectorReset (s : State) : Host.Outcome State Fault Refusal :=
  .next (s.serve 20 Request.sector? (emptyBody State.sectorResetRequest))

/-- CARRIER_RESTART (R179). -/
def execCarrierRestart (s : State) : Host.Outcome State Fault Refusal :=
  .next (s.serve 21 Request.carrier? (emptyBody State.carrierRestartRequest))

/-- DISCARDED_RECORD (R180). -/
def execDiscardedRecord (bytes : List Byte) (s : State) : Host.Outcome State Fault Refusal := .next (s.takeRecord bytes)

end Sys2Proof.Machine
end

