-- ==== Sys2Proof/Machine/Dispatch.lean ====
section
/-! DEFINITION. The meaning of each command: one arm per row of the opcode table. -/

namespace Sys2Proof.Machine

/-- What each command does to the state, the queue of waiting commands apart. -/
def exec (i : Instr) (s : State) : Host.Outcome State Fault Refusal :=
  match i with
  | .powerOnReset straps => Sys2Proof.Machine.execPowerOnReset straps s
  | .frameReceived bytes checkRight => Sys2Proof.Machine.execFrameReceived bytes checkRight s
  | .unknownRequest => Sys2Proof.Machine.execUnknownRequest s
  | .readTerminal => Sys2Proof.Machine.execReadTerminal s
  | .writeTerminal => Sys2Proof.Machine.execWriteTerminal s
  | .bindTag => Sys2Proof.Machine.execBindTag s
  | .unbindTag => Sys2Proof.Machine.execUnbindTag s
  | .readTag => Sys2Proof.Machine.execReadTag s
  | .loadProfile => Sys2Proof.Machine.execLoadProfile s
  | .readProfile => Sys2Proof.Machine.execReadProfile s
  | .writeCarrier => Sys2Proof.Machine.execWriteCarrier s
  | .readCarrier => Sys2Proof.Machine.execReadCarrier s
  | .release => Sys2Proof.Machine.execRelease s
  | .hold => Sys2Proof.Machine.execHold s
  | .forceState => Sys2Proof.Machine.execForceState s
  | .permit => Sys2Proof.Machine.execPermit s
  | .flushHeld => Sys2Proof.Machine.execFlushHeld s
  | .readQueue => Sys2Proof.Machine.execReadQueue s
  | .readEvents => Sys2Proof.Machine.execReadEvents s
  | .setNotices => Sys2Proof.Machine.execSetNotices s
  | .readCounters => Sys2Proof.Machine.execReadCounters s
  | .setSector => Sys2Proof.Machine.execSetSector s
  | .sectorReset => Sys2Proof.Machine.execSectorReset s
  | .carrierRestart => Sys2Proof.Machine.execCarrierRestart s
  | .discardedRecord bytes => Sys2Proof.Machine.execDiscardedRecord bytes s
  | .frameStart c f order => Sys2Proof.Machine.execFrameStart c f order s
  | .recoveryPeriodReached c => Sys2Proof.Machine.execRecoveryPeriodReached c s
  | .reclaim c slot => Sys2Proof.Machine.execReclaim c slot s
  | .lendCompare t => Sys2Proof.Machine.execLendCompare t s
  | .warmCompare t => Sys2Proof.Machine.execWarmCompare t s
  | .fadeTimerExpiry t => Sys2Proof.Machine.execFadeTimerExpiry t s
  | .guardExpiry t => Sys2Proof.Machine.execGuardExpiry t s
  | .admitWaitExpiry t => Sys2Proof.Machine.execAdmitWaitExpiry t s
  | .effectiveFrameReached t => Sys2Proof.Machine.execEffectiveFrameReached t s
  | .applyFrameReached t => Sys2Proof.Machine.execApplyFrameReached t s
  | .settleCountEnd t => Sys2Proof.Machine.execSettleCountEnd t s
  | .yieldCountEnd t => Sys2Proof.Machine.execYieldCountEnd t s
  | .ageDiscard t => Sys2Proof.Machine.execAgeDiscard t s
  | .carrierLost c => Sys2Proof.Machine.execCarrierLost c s
  | .carrierFound c => Sys2Proof.Machine.execCarrierFound c s
  | .slotOutcome c u slot o => Sys2Proof.Machine.execSlotOutcome c u slot o s
  | .listClose c g => Sys2Proof.Machine.execListClose c g s

end Sys2Proof.Machine
end

