-- ==== Sys2Proof/Safety.lean ====
section
/-! DEFINITION. The terms in which claims about the GL-416 are made: what holds of every state a run meets, what a command
of the link side keeps, and what it is for a request to be taken and answered. -/

namespace Sys2Proof.Machine

/-! ### What every state of a run satisfies -/

/-- Frames received equal the sum of the seven outcomes, modulo 2^32 (R5). -/
abbrev FclCounters.balanced (k : FclCounters) : Prop :=
  k.received = k.untagged + k.diverted + k.length + k.unknownTag + k.passedThrough + k.handedToHfs + k.stateDiscards

/-- The seven outcome counters of Table 1.2. -/
def FclCounters.outcomes (k : FclCounters) : List Counter :=
  [k.untagged, k.diverted, k.length, k.unknownTag, k.passedThrough, k.handedToHfs, k.stateDiscards]

/-- The request buffer has four places; its occupied places are the requests admitted less the responses sent, and the
frames diverted are those admitted, dropped, misaddressed or short (R168, R173). -/
abbrev State.mguBalanced (s : State) : Prop :=
  s.mgu.buffer.length ≤ 4 ∧
  BitVec.ofNat 32 s.mgu.buffer.length = s.mgu.ctr.admitted - s.mgu.ctr.responses ∧
  s.fcl.diverted = s.mgu.ctr.admitted + s.mgu.ctr.dropped + s.mgu.ctr.misaddressed + s.mgu.ctr.shortFrames

/-- Tag Map entries 0 and 4095 are NONE (R1). -/
abbrev State.tagsFixed (s : State) : Prop := s.tagEntry 0 = none ∧ s.tagEntry 4095 = none

/-- The calendar holds one row for each upstream frame from the current frame to fifteen frames ahead (R76). -/
abbrev Carrier.windowed (k : Carrier) : Prop :=
  k.calendar.map Row.frame = (List.range 16).map fun i => k.lastFrame + BitVec.ofNat 16 i

/-- A carrier's sparse tables are in canonical form. -/
def Carrier.canonical (k : Carrier) : Prop :=
  Table.wf .opened k.slots = true ∧ ∀ r ∈ k.calendar, Table.wf .empty r.cells = true

/-- Every sparse table of the link side is in canonical form. -/
def Sector.canonical (s : Sector) : Prop :=
  Table.wf Terminal.powerOn s.terms = true ∧ ∀ c, (s.car c).canonical

/-- Every sparse table of the part is in canonical form. -/
def State.canonical (s : State) : Prop := Table.wf none s.tagMap = true ∧ s.sector.canonical

/-- The frames held for all terminals. -/
def Sector.heldFrames (s : Sector) : Nat := (allTerminals.map fun t => (s.term t).hold.frames).sum

/-- The blocks held for all terminals. -/
def Sector.heldBlocks (s : Sector) : Nat := (allTerminals.map fun t => (s.term t).hold.blocks).sum

/-- Every descriptor and every payload block is either free or taken by a held frame (R140). -/
def Sector.poolsWhole (s : Sector) : Prop :=
  s.freeDescriptors + s.heldFrames = 4096 ∧ s.freeBlocks + s.heldBlocks = 8192

/-- Each event set is listed in ascending order and without duplicates (R174). -/
def EventSets.ascending (e : EventSets) : Prop :=
  e.stateChange.Pairwise (· < ·) ∧ e.carrier.Pairwise (· < ·) ∧ e.rangeFail.Pairwise (· < ·) ∧ e.storm.Pairwise (· < ·) ∧
  e.listFull.Pairwise (· < ·)

/-- The re-entry queue and the ranging set of carrier `c` are as R90 to R92 say: the queue in class order and within a class in
the order in which entries were made, its entries exactly the CALLED terminals of the carrier, each once and with the
class of its record; the set exactly its TRIMMING terminals, listed in ascending number, at most eight. -/
def Sector.scheduled (s : Sector) (c : CarrierNo) : Prop :=
  let q := (s.car c).res
  q.queue.Pairwise (fun a b => a.cls < b.cls ∨ (a.cls = b.cls ∧ a.stamp < b.stamp)) ∧
  (q.queue.map QueueEntry.stamp).Nodup ∧ (∀ e ∈ q.queue, e.stamp < q.nextOrder) ∧
  (q.queue.map QueueEntry.terminal).Nodup ∧ (∀ e ∈ q.queue, e.cls = (s.term e.terminal).cfg.cls) ∧
  (∀ t, (∃ e ∈ q.queue, e.terminal = t) ↔ s.bound c t = true ∧ (s.term t).link.state = .called) ∧
  q.ranging.Pairwise (· < ·) ∧ q.ranging.length ≤ 8 ∧ (s.car c).cfg.rangingSize ≤ 8 ∧
  ∀ t, t ∈ q.ranging ↔ s.bound c t = true ∧ (s.term t).link.state = .trimming

/-- Every carrier's queue and set are as R90 to R92 say, and an unconfigured record is HELD (R17). -/
def Sector.allScheduled (s : Sector) : Prop :=
  (∀ c, s.scheduled c) ∧ ∀ t, (s.term t).cfg.configured = false → (s.term t).link.state = .held

/-! ### What an arbiter hands out -/

/-- The frames handed at each visit of a release arbiter with `left` of its budget, the terminals in the order of their visits:
as many as the terminal's own limit allows, within what is left (R149). -/
def visitCounts (limit : TermNo → Nat) : Nat → List TermNo → List (TermNo × Nat)
  | _, [] => []
  | left, t :: l => (t, min (limit t) left) :: visitCounts limit (left - min (limit t) left) l

/-- The marks a list of twelve places carries, taken from `marks` in their order after those already `placed`: a terminal that holds
a directive is passed over, so is a GRANT that is too late or beyond the pace, and a full body takes no more (R160 to
R162). -/
def carried (late : TermNo → Bool) (pace : Nat) : List (Rank × TermNo) → List (Rank × TermNo) → List (Rank × TermNo)
  | placed, [] => placed
  | placed, (k, t) :: marks =>
    if placed.any (fun x => decide (x.2 = t)) then carried late pace placed marks
    else if k = .grant ∧ (late t = true ∨ pace ≤ placed.countP fun x => decide (x.1 = .grant)) then
      carried late pace placed marks
    else if 12 ≤ placed.length then carried late pace placed marks
    else carried late pace (placed ++ [(k, t)]) marks

/-- A mark of `marks` was reached and left for want of a place alone (R165). -/
def wantsPlace (late : TermNo → Bool) (pace : Nat) (placed marks : List (Rank × TermNo)) : Prop :=
  ∃ before k t after, marks = before ++ (k, t) :: after ∧
    let held := carried late pace placed before
    12 ≤ held.length ∧ (∀ x ∈ held, x.2 ≠ t) ∧
    ¬ (k = .grant ∧ (late t = true ∨ pace ≤ held.countP fun x => decide (x.1 = .grant)))

/-! ### What the link side's events keep -/

/-- What frame starts count of a carrier: its last frame number, the frame starts and the slips (R77). -/
def Carrier.frames (k : Carrier) : FrameNo × Counter × Counter := (k.lastFrame, k.csp.frameStarts, k.csp.frameSlips)

/-- What every event of the link side but a management write keeps from `s` to `s'`: configuration and settings, frame
numbers and their counts, the calendar's rows, the Profile Table, canonical forms, the pools' sums, and what was handed to the modem. -/
structure Sector.Keeps (s s' : Sector) : Prop where
  cfg : ∀ t, (s'.term t).cfg = (s.term t).cfg
  settings : ∀ c, (s'.car c).cfg = (s.car c).cfg
  frames : ∀ c, (s'.car c).frames = (s.car c).frames
  rows : ∀ c, (s'.car c).calendar.map Row.frame = (s.car c).calendar.map Row.frame
  profiles : s'.profiles = s.profiles
  storeLowMark : s'.storeLowMark = s.storeLowMark
  canonical : s.canonical → s'.canonical
  descriptors : s'.freeDescriptors + s'.heldFrames = s.freeDescriptors + s.heldFrames
  blocks : s'.freeBlocks + s'.heldBlocks = s.freeBlocks + s.heldBlocks
  handed : ∃ l, s'.mlOut = s.mlOut ++ l

/-! ### Requests -/

/-- Request `r` stands at the head of the buffer with code `code` and a body within its frame, and no request is being taken,
so that taking it reaches the selector check (R169, R170). -/
abbrev State.headIs (s : State) (r : Request) (code : Nat) : Prop :=
  s.mgu.buffer.head? = some r ∧ r.code.toNat = code ∧ r.bodyLength ≤ r.rest.length ∧ s.mgu.taking = none

/-- A group request that is being taken, but for the notices that wait (R171). -/
def GroupTaking.progress (g : GroupTaking) : List TermNo × List (TermNo × Status) := (g.remaining, g.results)

/-- The request selects terminal `t` (R170). -/
abbrev Request.selectsTerminal (r : Request) (t : TermNo) : Prop := r.kind = 1 ∧ r.value.toNat = t.val

/-- The request selects carrier `c` (R170). -/
abbrev Request.selectsCarrier (r : Request) (c : CarrierNo) : Prop := r.kind = 2 ∧ r.value.toNat = c.val

/-- The request selects the sector (R170). -/
abbrev Request.selectsSector (r : Request) : Prop := r.kind = 3

/-- From `s` to `t` the MGU answered `r` with one response of status `x` and body `body`: the response is the first frame
it handed, repeats the request's header, the place returned to the buffer, and the responses and refusals were counted
(R169). -/
def Answered (s t : State) (r : Request) (x : Status) (body : List Byte) : Prop :=
  (∃ later, t.npMgmt = s.npMgmt ++
    { dest := r.source, source := t.mgu.station, code := r.code, kind := r.kind, number := r.number, value := r.value
      status := x, body := body } :: later) ∧
  t.mgu.buffer = s.mgu.buffer.drop 1 ∧
  t.mgu.ctr.responses = s.mgu.ctr.responses + 1 ∧
  t.mgu.ctr.refusals = (if x = .done then s.mgu.ctr.refusals else s.mgu.ctr.refusals + 1)

/-- From `s` to `t` nothing outside the MGU changed: the queue, the shares, the straps, the Tag Map, the FCL counters, the link side
and the upstream frames are as they were, and so are the station address, the notice settings and the request being taken. -/
def OnlyAnswered (s t : State) : Prop :=
  t.pending = s.pending ∧ t.shares = s.shares ∧ t.straps = s.straps ∧ t.tagMap = s.tagMap ∧ t.fcl = s.fcl ∧
  t.sector = s.sector ∧ t.npTraffic = s.npTraffic ∧ t.mgu.station = s.mgu.station ∧ t.mgu.enables = s.mgu.enables ∧
  t.mgu.noticeDest = s.mgu.noticeDest ∧ t.mgu.outstanding = s.mgu.outstanding ∧ t.mgu.taking = s.mgu.taking

/-- From `s` to `t` only the link side and the notice state changed: the queue, the shares, the straps, the Tag Map, the FCL
counters, the request buffer, the MGU counters but for the notices sent, the upstream frames, the station address, the notice
settings and the progress of a request being taken are as they were, and management frames were at most added to. -/
def OnlyLinkSide (s t : State) : Prop :=
  t.pending = s.pending ∧ t.shares = s.shares ∧ t.straps = s.straps ∧ t.tagMap = s.tagMap ∧ t.fcl = s.fcl ∧
  t.npTraffic = s.npTraffic ∧ t.mgu.buffer = s.mgu.buffer ∧ t.mgu.station = s.mgu.station ∧
  t.mgu.enables = s.mgu.enables ∧ t.mgu.noticeDest = s.mgu.noticeDest ∧
  { t.mgu.ctr with notices := 0 } = { s.mgu.ctr with notices := 0 } ∧
  t.mgu.taking.map GroupTaking.progress = s.mgu.taking.map GroupTaking.progress ∧ ∃ l, t.npMgmt = s.npMgmt ++ l

/-- From `s` to `t` a request was answered whose owner changed only the link side: the queue, the shares, the straps, the Tag
Map, the FCL counters, the upstream frames, the station address, the notice settings and the counts of admission are as they
were, and no request is being taken. -/
def OnlyLinkAnswered (s t : State) : Prop :=
  t.pending = s.pending ∧ t.shares = s.shares ∧ t.straps = s.straps ∧ t.tagMap = s.tagMap ∧ t.fcl = s.fcl ∧
  t.npTraffic = s.npTraffic ∧ t.mgu.station = s.mgu.station ∧ t.mgu.enables = s.mgu.enables ∧
  t.mgu.noticeDest = s.mgu.noticeDest ∧ t.mgu.taking = none ∧
  { t.mgu.ctr with responses := 0, refusals := 0, notices := 0 } =
    { s.mgu.ctr with responses := 0, refusals := 0, notices := 0 }

/-! ### Frames of the link side -/

/-- Every record but that of terminal `t` is the same. -/
def OnlyRecord (s s' : Sector) (t : TermNo) : Prop := ∀ u, u ≠ t → s'.term u = s.term u

/-- Every carrier record but that of carrier `c` is the same. -/
def OnlyCarrier (s s' : Sector) (c : CarrierNo) : Prop := ∀ d, d ≠ c → s'.car d = s.car d

/-- Of the carrier records, only the slot kinds of carrier `c` may differ. -/
def OnlySlots (s s' : Sector) (c : CarrierNo) : Prop :=
  OnlyCarrier s s' c ∧ { s'.car c with slots := [] } = { s.car c with slots := [] }

/-- The Profile Table, the store's pools and mark, the sector's counters and what was handed to the modem are the same. -/
def OnlyRecords (s s' : Sector) : Prop :=
  s'.profiles = s.profiles ∧ s'.freeDescriptors = s.freeDescriptors ∧ s'.freeBlocks = s.freeBlocks ∧
  s'.storeLowMark = s.storeLowMark ∧ s'.pld = s.pld ∧ s'.hfs = s.hfs ∧ s'.mlOut = s.mlOut

/-- The request a command takes from the head of the buffer, by its code in Table 10.2; the other commands take none. -/
def requestCode : Instr → Option Nat
  | .readTerminal => some 1
  | .writeTerminal => some 2
  | .bindTag => some 3
  | .unbindTag => some 4
  | .readTag => some 5
  | .loadProfile => some 6
  | .readProfile => some 7
  | .writeCarrier => some 8
  | .readCarrier => some 9
  | .release => some 10
  | .hold => some 11
  | .forceState => some 12
  | .permit => some 13
  | .flushHeld => some 14
  | .readQueue => some 15
  | .readEvents => some 16
  | .setNotices => some 17
  | .readCounters => some 18
  | .setSector => some 19
  | .sectorReset => some 20
  | .carrierRestart => some 21
  | .powerOnReset _ => none
  | .frameReceived _ _ => none
  | .unknownRequest => none
  | .discardedRecord _ => none
  | .frameStart _ _ _ => none
  | .recoveryPeriodReached _ => none
  | .reclaim _ _ => none
  | .lendCompare _ => none
  | .warmCompare _ => none
  | .fadeTimerExpiry _ => none
  | .guardExpiry _ => none
  | .admitWaitExpiry _ => none
  | .effectiveFrameReached _ => none
  | .applyFrameReached _ => none
  | .settleCountEnd _ => none
  | .yieldCountEnd _ => none
  | .ageDiscard _ => none
  | .carrierLost _ => none
  | .carrierFound _ => none
  | .slotOutcome _ _ _ _ => none
  | .listClose _ _ => none

/-! ### Refunds -/

/-- The grant outstanding of terminal `v` has its cell on one of `slots` in the calendar of carrier `c`. -/
def Sector.grantOn (s : Sector) (c : CarrierNo) (slots : List SlotNo) (v : TermNo) : Prop :=
  ∃ g, (s.term v).range.grant = some g ∧ g.slot ∈ slots ∧
    ∃ row ∈ (s.car c).calendar, row.frame = g.frame ∧ ∃ n, row.cell g.slot = .granted v n

/-- From `s` to `s'` the cells on `slots` of carrier `c` were removed: a grant of `v` among them is refunded, its attempt given back,
with the settle count begun from the setting of carrier `c` (log 36) when its directive was sent; else the ranging fields and
marks of `v` are as they were (R100). -/
def RefundedOn (s s' : Sector) (c : CarrierNo) (slots : List SlotNo) (v : TermNo) : Prop :=
  let x := s.term v
  let y := s'.term v
  (s.grantOn c slots v →
    y.owed = { x.owed with grant := none } ∧
    y.range = { x.range with
      attempts := x.range.attempts - 1, grant := none
      settle := if x.owed.grant = none then (s.car c).cfg.settle else x.range.settle }) ∧
  (¬ s.grantOn c slots v → y.owed = x.owed ∧ y.range = x.range)

/-! ### Leaving a link state -/

/-- What leaving its link state by HOLD or FORCE-STATE makes of terminal `t` and of its carrier's schedule (R36, R98, R115): a CALLED
terminal's entry is removed; a TRIMMING one leaves the ranging set with its grant outstanding absent, an unsent GRANT withdrawn
with its cell and the attempt given back, and its exchange counted as ended; an ADMITTING one has its ADMIT sent absent and
no reclaim pending; the fade and guard timers stop. Off the home slots every other cell stays. -/
def LeftByRequest (s s' : Sector) (t : TermNo) : Prop :=
  let x := s.term t
  let y := s'.term t
  let k := s.car x.cfg.carrier
  let j := s'.car x.cfg.carrier
  let withdrawn : Option GrantRef := if x.link.state = .trimming then x.owed.grant else none
  j.res.queue = (if x.link.state = .called then k.res.queue.filter fun e => decide (e.terminal ≠ t) else k.res.queue) ∧
  j.res.ranging = (if x.link.state = .trimming then k.res.ranging.filter fun v => decide (v ≠ t) else k.res.ranging) ∧
  j.rng = (if x.link.state = .trimming then { k.rng with ended := k.rng.ended + 1 } else k.rng) ∧
  j.resCtr.grantsWithdrawn = (if withdrawn.isSome then k.resCtr.grantsWithdrawn + 1 else k.resCtr.grantsWithdrawn) ∧
  (∀ w z, z ∉ x.cfg.homeSlots → withdrawn ≠ some { frame := w, slot := z } → j.cell w z = k.cell w z) ∧
  (∀ g n, withdrawn = some g → k.cell g.frame g.slot = .granted t n → j.cell g.frame g.slot = .empty) ∧
  (x.link.state = .trimming → y.range.grant = none ∧ y.owed.grant = none ∧
    y.range.attempts = if x.owed.grant.isSome then x.range.attempts - 1 else x.range.attempts) ∧
  (x.link.state = .admitting → y.adm = { x.adm with sent := none, reclaimPending := false } ∧
    ∀ z ∈ x.cfg.homeSlots, j.slotUse z ≠ .lent t true) ∧
  (x.link.state = .fading → y.link.fadeOn = false) ∧
  (x.link.state = .guard → y.link.guardOn = false)

/-! ### Cells and records -/

/-- A cell that holds a grant. -/
def Cell.isGrant : Cell → Bool
  | .granted _ _ => true
  | .empty => false
  | .offered => false

/-- The payload frames of a traffic burst end where the record says they do: `n` frames, each after its two length bytes. -/
def payloadEnds : Nat → List Byte → Prop
  | 0, _ => True
  | n + 1, l => 2 ≤ l.length ∧ beNat (l.take 2) ≤ (l.drop 2).length ∧ payloadEnds n ((l.drop 2).drop (beNat (l.take 2)))

/-- A record of the modem that R180 discards. -/
def malformed (bytes : List Byte) : Prop :=
  let at' (i : Nat) : Nat := (bytes.getD i 0).toNat
  bytes.length < 2 ∨ at' 0 < 1 ∨ 5 < at' 0 ∨ 3 < at' 1 ∨
  ((at' 0 = 1 ∨ at' 0 = 5) ∧ bytes.length < 4) ∨
  (at' 0 = 4 ∧
    (bytes.length < 6 ∨ 31 < at' 4 ∨ 2 < at' 5 ∨
      (at' 5 = 1 ∧
        (bytes.length < 11 ∨ 2 < at' 6 ∨ 100 < at' 10 ∨
          (BitVec.ofNat 16 (256 * at' 8 + at' 9)).toInt < -4096 ∨ 4095 < (BitVec.ofNat 16 (256 * at' 8 + at' 9)).toInt ∨
          (at' 6 = 0 ∧ (bytes.length < 13 ∨ 1 < at' 11 ∨ 7 < at' 12)) ∨
          (at' 6 = 1 ∧ bytes.length < 12) ∨
          (at' 6 = 2 ∧ (bytes.length < 14 ∨ 1 < at' 12 ∨ ¬ payloadEnds (at' 13) (bytes.drop 14)))))))

end Sys2Proof.Machine
end

