-- ==== Sys2Proof/Certificates/Slice0/Obligations.lean ====
section
/-! DEFINITION. The statements about the GL-416 that the provers settle. -/

open Sys2Proof Sys2Proof.Machine

/-! ### The queue of commands -/

/-- A step takes the command at the front of the queue and executes it on the state with the queue's rest; every command is carried
out: none is refused and none faults (R170, R180); and on an empty queue the block idles (the model's choice, log 2). -/
def Obligations.StepExecutesFrontCommand : Prop :=
  (∀ (c : Instr) (rest : List Instr) (s : State), s.pending = c :: rest → step s = exec c { s with pending := rest }) ∧
  (∀ (i : Instr) (s : State), ∃ u, exec i s = .next u) ∧
  ∀ s : State, s.pending = [] → step s = .next s

/-! ### Power-on (R177 and the power-on values of Tables 1.2 to 10.4) -/

/-- POWER_ON_RESET gives every block its power-on values, with the address straps as the operand has them. What waits in the
queue, the shares listed for group requests and what has left the part stays (the model's choice, logs 1 and 22). -/
def Obligations.PowerOnResetValues : Prop :=
  ∀ (straps : Fin 64) (s : State), ∃ u, exec (.powerOnReset straps) s = .next u ∧
    (u.pending = s.pending ∧ u.shares = s.shares ∧ u.npTraffic = s.npTraffic ∧ u.npMgmt = s.npMgmt ∧ u.sector.mlOut = s.sector.mlOut) ∧
    u.straps = straps ∧
    (∀ tag, u.tagEntry tag = none) ∧
    (∀ x ∈ u.fcl.list ++ u.sector.pld.list ++ u.sector.hfs.list ++ u.mgu.ctr.list, x = 0) ∧
    (∀ t, (u.sector.term t).cfg =
        { configured := false, carrier := 0, cls := 3, homeTag := none, homeSlots := [], floor := 0, ceiling := 0,
          reentry := 0, autoAdmit := false, holdQuota := 0, holdAge := 3000, dropPolicy := .dropOldest,
          backPressure := .wait, releaseBurst := .four, fadeTimeout := 40, fadeMissLimit := 8, lendDelay := 200,
          warmLimit := 1000, guardPeriod := 1000 } ∧
      (u.sector.term t).link =
        { state := .held, cause := .none, forced := false, permit := false, outage := 0, outageOn := false,
          lendActive := 200, warmActive := 1000, lendTaken := false, warmClosed := false, fadeOn := false, fadeCount := 0,
          fadeActive := 40, fadeMisses := 0, guardOn := false, guardCount := 0, guardActive := 1000, repeatCalls := 0,
          keptLock := false } ∧
      (u.sector.term t).range =
        { stored := none, attempts := 0, measured := 0, warm := false, last := none, settle := 0, grant := none,
          correction := 0, power := 0 } ∧
      (u.sector.term t).adm = { wait := 0, reclaimPending := false, sent := none } ∧
      (u.sector.term t).ladder =
        { current := 0, pending := none, assembly := [], report := none, upMargin := none, stepUp := 0 } ∧
      (u.sector.term t).hold = { release := .idle, yieldCount := 0, queue := [] } ∧
      (u.sector.term t).owed = { halt := false, admission := false, profile := false, grant := none } ∧
      ∀ x ∈ (u.sector.term t).ctr.list, x = 0) ∧
    (∀ c, (u.sector.car c).cfg =
        { enabled := false, grantLead := 4, applyLead := 4, settle := 2, trimLimit := 6, searchWindow := 1024,
          fineWindow := 4, powerWindow := 4, targetSnr := 40, paceLimit := 2, recoveryPace := 4, rangingSize := 4,
          offerLimit := 2, recoveryOffer := 6, recoveryPeriod := 2000, backoffWindow := 32, backoffHigh := 12,
          backoffLow := 3, admitWaitLimit := 500, yieldPeriod := 8, releaseBudget := 16, guardRestart := false,
          fadeStepDown := true, base := 0 } ∧
      (u.sector.car c).state = .disabled ∧ (u.sector.car c).recovery = 0 ∧ (u.sector.car c).lastFrame = 0 ∧
      (u.sector.car c).calendar =
        (List.range 16).map (fun i => { frame := BitVec.ofNat 16 i, filled := false, cells := [] }) ∧
      (∀ x, (u.sector.car c).slotUse x = .opened) ∧
      (u.sector.car c).res.queue = [] ∧ (u.sector.car c).res.ranging = [] ∧ (u.sector.car c).res.rotation = 255 ∧
      (u.sector.car c).res.window = [] ∧ (u.sector.car c).res.exponent = 0 ∧
      (u.sector.car c).releasePtr = 255 ∧
      (u.sector.car c).dcp = { halt := 255, admission := 255, stepDown := 255, grant := 255, stepUp := 255 } ∧
      ∀ x ∈ (u.sector.car c).counterList, x = 0) ∧
    (∀ p, u.sector.profile p =
        { enabled := false, modulation := .qpsk, codeRate := .half, requiredSnr := 0, upMargin := 0, downMargin := -1,
          stepUpHold := 0, neededHeadroom := 0 }) ∧
    u.sector.freeDescriptors = 4096 ∧ u.sector.freeBlocks = 8192 ∧ u.sector.storeLowMark = 512 ∧
    u.sector.events = { stateChange := [], carrier := [], rangeFail := [], storm := [], listFull := [], storeLow := false
                        storeExhausted := false } ∧
    u.mgu.buffer = [] ∧ u.mgu.taking = none ∧ u.mgu.station = 0x020000000000 + BitVec.ofNat 48 straps.val ∧
    u.mgu.enables = { stateChange := false, carrier := false, rangeFail := false, storm := false, listFull := false
                      store := false } ∧
    u.mgu.noticeDest = 0xFFFFFFFFFFFF ∧ u.mgu.outstanding = false

/-! ### Frames from the Network Port (Chapter 1, R168) -/

/-- A received frame: with a wrong check sequence it is counted and nothing else changes; with a right one it is counted as
received and in exactly one of the seven outcomes, so that the sum of R5 stays. One that carries no tag, is too long, or
has a tag whose entry is NONE or names an unconfigured terminal is discarded and counted, and nothing else changes (R6 to
R8); that a frame of 14 or 15 bytes, too short to hold a whole tag, carries none is the model's choice (log 9), and that its
length counts a check sequence of four bytes is presumed (log 33). -/
def Obligations.ReceivedFrameEndsInOneOutcome : Prop :=
  (∀ (bytes : List Byte) (s : State), exec (.frameReceived bytes false) s =
    .next { s with fcl := { s.fcl with checkErrors := s.fcl.checkErrors + 1 } }) ∧
  (∀ (bytes : List Byte) (s : State), ∃ u, exec (.frameReceived bytes true) s = .next u ∧
    u.pending = s.pending ∧ u.shares = s.shares ∧ u.straps = s.straps ∧ u.tagMap = s.tagMap ∧ u.npTraffic = s.npTraffic ∧
    u.fcl.checkErrors = s.fcl.checkErrors ∧ u.fcl.received = s.fcl.received + 1 ∧
    (∃ i < 7, u.fcl.outcomes = (s.fcl.outcomes).set i ((s.fcl.outcomes).getD i 0 + 1)) ∧
    u.fcl.upstreamSent = s.fcl.upstreamSent ∧ u.fcl.upstreamNoTag = s.fcl.upstreamNoTag ∧
    u.fcl.upstreamFormat = s.fcl.upstreamFormat ∧ (s.fcl.balanced → u.fcl.balanced)) ∧
  ∀ (bytes : List Byte) (s : State),
    (¬ (16 ≤ bytes.length ∧ bytesAt bytes 12 2 = [0x81, 0x00]) → exec (.frameReceived bytes true) s =
      .next { s with fcl := { s.fcl with received := s.fcl.received + 1, untagged := s.fcl.untagged + 1 } }) ∧
    (16 ≤ bytes.length → bytesAt bytes 12 2 = [0x81, 0x00] → tagOf bytes ≠ 4095 → 2048 < bytes.length →
      exec (.frameReceived bytes true) s =
        .next { s with fcl := { s.fcl with received := s.fcl.received + 1, length := s.fcl.length + 1 } }) ∧
    (16 ≤ bytes.length → bytesAt bytes 12 2 = [0x81, 0x00] → tagOf bytes ≠ 4095 → bytes.length ≤ 2048 →
      (∀ t, s.tagEntry (tagOf bytes) = some t → (s.sector.term t).cfg.configured = false) →
      exec (.frameReceived bytes true) s =
        .next { s with fcl := { s.fcl with received := s.fcl.received + 1, unknownTag := s.fcl.unknownTag + 1 } })

/-- A traffic frame of a configured terminal is decided by Table 1.1: HELD discards it with cause STATE; SERVING with an empty
queue and release state IDLE passes it through, untagged, padded and with its check sequence computed anew; every other
state hands it to the HFS, which takes it by the append rules with the carrier's current frame number. Neither the forced
mark nor the carrier state plays a part. That the check sequence has four bytes is presumed (log 33), its value free (log 6). -/
def Obligations.DownstreamDecisionByLinkState : Prop :=
  ∀ (bytes : List Byte) (s : State) (t : TermNo),
    16 ≤ bytes.length → bytesAt bytes 12 2 = [0x81, 0x00] → tagOf bytes ≠ 4095 → bytes.length ≤ 2048 →
    s.tagEntry (tagOf bytes) = some t → (s.sector.term t).cfg.configured = true →
    let body := bytes.take 12 ++ bytes.drop 16
    let padded := body ++ List.replicate (60 - body.length) 0
    let whole := padded ++ beBytes 4 (Config.checkSequence padded).toNat
    let r := s.sector.term t
    ∃ u, exec (.frameReceived bytes true) s = .next u ∧
      u.pending = s.pending ∧ u.shares = s.shares ∧ u.straps = s.straps ∧ u.tagMap = s.tagMap ∧ u.npTraffic = s.npTraffic ∧
      u.mgu.buffer = s.mgu.buffer ∧
      (r.link.state = .held →
        u.fcl = { s.fcl with received := s.fcl.received + 1, stateDiscards := s.fcl.stateDiscards + 1 } ∧
        u.sector = s.sector.modTerm t fun r => { r with ctr := { r.ctr with discardState := r.ctr.discardState + 1 } }) ∧
      (r.link.state = .serving → r.hold.queue = [] → r.hold.release = .idle →
        u.fcl = { s.fcl with received := s.fcl.received + 1, passedThrough := s.fcl.passedThrough + 1 } ∧
        u.sector = { s.sector with mlOut := s.sector.mlOut ++ [.downstream r.cfg.carrier t whole] }) ∧
      (r.link.state ≠ .held → ¬ (r.link.state = .serving ∧ r.hold.queue = [] ∧ r.hold.release = .idle) →
        u.fcl = { s.fcl with received := s.fcl.received + 1, handedToHfs := s.fcl.handedToHfs + 1 } ∧
        u.sector = s.sector.offerFrame t whole (s.sector.car r.cfg.carrier).lastFrame)

/-- A frame with tag 4095 is judged for its address, its length and room, in this order, and takes a place at the tail of the
buffer when it passes all three (R168). -/
def Obligations.ManagementFrameAdmission : Prop :=
  ∀ (bytes : List Byte) (s : State),
    16 ≤ bytes.length → bytesAt bytes 12 2 = [0x81, 0x00] → tagOf bytes = 4095 →
    let dest : Addr := BitVec.ofNat 48 (beNat (bytes.take 6))
    let counted : State := { s with fcl := { s.fcl with received := s.fcl.received + 1, diverted := s.fcl.diverted + 1 } }
    (dest ≠ s.mgu.station → dest ≠ 0xFFFFFFFFFFFF → exec (.frameReceived bytes true) s =
      .next { counted with
        mgu := { s.mgu with ctr := { s.mgu.ctr with misaddressed := s.mgu.ctr.misaddressed + 1 } } }) ∧
    (dest = s.mgu.station ∨ dest = 0xFFFFFFFFFFFF → bytes.length < 26 → exec (.frameReceived bytes true) s =
      .next { counted with
        mgu := { s.mgu with ctr := { s.mgu.ctr with shortFrames := s.mgu.ctr.shortFrames + 1 } } }) ∧
    (dest = s.mgu.station ∨ dest = 0xFFFFFFFFFFFF → 26 ≤ bytes.length → 4 ≤ s.mgu.buffer.length →
      exec (.frameReceived bytes true) s =
        .next { counted with mgu := { s.mgu with ctr := { s.mgu.ctr with dropped := s.mgu.ctr.dropped + 1 } } }) ∧
    (dest = s.mgu.station ∨ dest = 0xFFFFFFFFFFFF → 26 ≤ bytes.length → s.mgu.buffer.length < 4 →
      exec (.frameReceived bytes true) s =
        .next { counted with
          mgu := { s.mgu with
            ctr := { s.mgu.ctr with admitted := s.mgu.ctr.admitted + 1 }
            buffer := s.mgu.buffer ++
              [{ source := BitVec.ofNat 48 (beNat ((bytes.drop 6).take 6)), code := bytes.getD 18 0
                 kind := bytes.getD 19 0, number := BitVec.ofNat 16 (beNat ((bytes.drop 20).take 2))
                 value := BitVec.ofNat 16 (beNat ((bytes.drop 22).take 2))
                 bodyLength := beNat ((bytes.drop 24).take 2), rest := bytes.drop 26 }] } })

/-! ### The held-frame store (Chapter 8) -/

/-- A frame offered to the queue of `t` (R142, R143): at quota 0 it is discarded with cause QUOTA; a frame that fits joins the
tail with age 0 and takes one descriptor and its blocks; under DROP-NEW a frame that does not fit is discarded with cause
QUOTA when the quota is reached, else with cause POOL. Under DROP-OLDEST (R144) the least number of heads of the terminal's own
queue after which the frame fits gives way, each with cause QUOTA while the queue is at or above the quota and else with POOL,
their descriptors and blocks going back to the pools, and the frame joins the tail; when it fits after no number of them the
whole queue has gone, the frame is discarded with cause POOL, and the release state is IDLE (R147). A successful append that
leaves the free blocks below the mark raises STORE-LOW, and counts a crossing when they were not below it before (R145); under
DROP-OLDEST, before the append but after the heads gave way, which is the model's choice (log 37). -/
def Obligations.OfferedFrameJoinsOrIsDiscarded : Prop :=
  (∀ (s : Sector) (t : TermNo) (bytes : List Byte) (arrival : FrameNo),
     let r := s.term t
     let blocks := (bytes.length + 255) / 256
     let fits : Prop := r.hold.queue.length < r.cfg.holdQuota ∧ 1 ≤ s.freeDescriptors ∧ blocks ≤ s.freeBlocks
     let u := s.offerFrame t bytes arrival
     u.cars = s.cars ∧ u.mlOut = s.mlOut ∧ OnlyRecord s u t ∧
     (r.cfg.holdQuota = 0 →
       u.term t = { r with ctr := { r.ctr with discardQuota := r.ctr.discardQuota + 1
                                               arrivalQuota := r.ctr.arrivalQuota + 1 } } ∧
       u.hfs = { s.hfs with arrivalQuota := s.hfs.arrivalQuota + 1 } ∧
       u.freeDescriptors = s.freeDescriptors ∧ u.freeBlocks = s.freeBlocks ∧ u.events = s.events) ∧
     (fits →
       u.term t = { r with hold := { r.hold with queue := r.hold.queue ++ [{ bytes := bytes, arrival := arrival, age := 0 }] }
                           ctr := { r.ctr with framesHeld := r.ctr.framesHeld + 1 } } ∧
       u.hfs = { s.hfs with appends := s.hfs.appends + 1
                            storeLow := if s.freeBlocks - blocks < s.storeLowMark ∧ s.storeLowMark ≤ s.freeBlocks
                              then s.hfs.storeLow + 1 else s.hfs.storeLow } ∧
       u.freeDescriptors = s.freeDescriptors - 1 ∧ u.freeBlocks = s.freeBlocks - blocks ∧
       u.events = { s.events with storeLow := s.events.storeLow || decide (s.freeBlocks - blocks < s.storeLowMark) }) ∧
     (r.cfg.holdQuota ≠ 0 → ¬ fits → r.cfg.dropPolicy = .dropNew → r.cfg.holdQuota ≤ r.hold.queue.length →
       u.term t = { r with ctr := { r.ctr with discardQuota := r.ctr.discardQuota + 1
                                               arrivalQuota := r.ctr.arrivalQuota + 1 } } ∧
       u.hfs = { s.hfs with arrivalQuota := s.hfs.arrivalQuota + 1 } ∧
       u.freeDescriptors = s.freeDescriptors ∧ u.freeBlocks = s.freeBlocks ∧ u.events = s.events) ∧
     (r.cfg.holdQuota ≠ 0 → ¬ fits → r.cfg.dropPolicy = .dropNew → r.hold.queue.length < r.cfg.holdQuota →
       u.term t = { r with ctr := { r.ctr with discardPool := r.ctr.discardPool + 1
                                               arrivalPool := r.ctr.arrivalPool + 1 } } ∧
       u.hfs = { s.hfs with arrivalPool := s.hfs.arrivalPool + 1, storeExhausted := s.hfs.storeExhausted + 1 } ∧
       u.freeDescriptors = s.freeDescriptors ∧ u.freeBlocks = s.freeBlocks ∧
       u.events = { s.events with storeExhausted := true })) ∧
  ∀ (s : Sector) (t : TermNo) (bytes : List Byte) (arrival : FrameNo),
    let r := s.term t
    let q := r.hold.queue
    let quota := r.cfg.holdQuota
    let blocks := (bytes.length + 255) / 256
    let returned (n : Nat) : Nat := ((q.take n).map fun h => (h.bytes.length + 255) / 256).sum
    let fitsAfter (n : Nat) : Prop :=
      q.length - n < quota ∧ 1 ≤ s.freeDescriptors + n ∧ blocks ≤ s.freeBlocks + returned n
    let byQuota (n : Nat) : Nat := (List.range n).countP fun i => decide (quota ≤ q.length - i)
    let before (n : Nat) : Nat := s.freeBlocks + returned n
    quota ≠ 0 → r.cfg.dropPolicy = .dropOldest →
    let u := s.offerFrame t bytes arrival
    u.profiles = s.profiles ∧ u.storeLowMark = s.storeLowMark ∧ u.pld = s.pld ∧
    (∀ n ≤ q.length, fitsAfter n → (∀ m < n, ¬ fitsAfter m) →
      let quotas : Counter := BitVec.ofNat 32 (byQuota n)
      let pools : Counter := BitVec.ofNat 32 (n - byQuota n)
      let low := before n - blocks < s.storeLowMark
      u.term t = { r with hold := { r.hold with queue := q.drop n ++ [{ bytes := bytes, arrival := arrival, age := 0 }] }
                          ctr := { r.ctr with framesHeld := r.ctr.framesHeld + 1
                                              discardQuota := r.ctr.discardQuota + quotas
                                              discardPool := r.ctr.discardPool + pools } } ∧
      u.hfs = { s.hfs with appends := s.hfs.appends + 1, heldQuota := s.hfs.heldQuota + quotas
                           heldPool := s.hfs.heldPool + pools
                           storeLow := if low ∧ s.storeLowMark ≤ before n then s.hfs.storeLow + 1 else s.hfs.storeLow } ∧
      u.freeDescriptors = s.freeDescriptors + n - 1 ∧ u.freeBlocks = before n - blocks ∧
      u.events = { s.events with storeLow := s.events.storeLow || decide low }) ∧
    ((∀ n ≤ q.length, ¬ fitsAfter n) →
      let quotas : Counter := BitVec.ofNat 32 (byQuota q.length)
      let pools : Counter := BitVec.ofNat 32 (q.length - byQuota q.length)
      u.term t = { r with hold := { release := .idle, yieldCount := 0, queue := [] }
                          ctr := { r.ctr with discardQuota := r.ctr.discardQuota + quotas
                                              discardPool := r.ctr.discardPool + pools + 1
                                              arrivalPool := r.ctr.arrivalPool + 1 } } ∧
      u.hfs = { s.hfs with heldQuota := s.hfs.heldQuota + quotas, heldPool := s.hfs.heldPool + pools
                           arrivalPool := s.hfs.arrivalPool + 1, storeExhausted := s.hfs.storeExhausted + 1 } ∧
      u.freeDescriptors = s.freeDescriptors + q.length ∧ u.freeBlocks = before q.length ∧
      u.events = { s.events with storeExhausted := true })

/-- At a frame start the release arbiter visits the terminals of the carrier that are RELEASING when the HFS takes it, in ascending
number from the first above the release pointer, and hands the heads of each one's held queue, aged first, in queue order:
as many as its release burst and what is left of the budget allow. Each frame handed leaves its queue and is labelled with
its terminal and carrier; the pointer takes the last terminal that was handed one; a queue so emptied leaves its terminal
IDLE (R146 to R150, R152). What the HFS finds is what the blocks before it in the order have left (log 3); they change no
queue. -/
def Obligations.FrameStartReleasesQueueHeads : Prop :=
  ∀ (c : CarrierNo) (f : FrameNo) (order : List Block) (s : State),
    let found := ((blockOrder order).takeWhile fun b => decide (b ≠ .hfs)).foldl (State.frameBlock c f) s
    let x (t : TermNo) : Terminal := found.sector.term t
    let aged (t : TermNo) : List HeldFrame :=
      ((x t).hold.queue.map fun h => { h with age := h.age + 1 }).dropWhile fun h => decide ((x t).cfg.holdAge < h.age)
    let releasing (t : TermNo) : Prop :=
      (x t).hold.release = .releasing ∨ ((x t).hold.release = .yielding ∧ (x t).hold.yieldCount ≤ 1)
    let burst (t : TermNo) : Nat :=
      match (x t).cfg.releaseBurst with
      | .one => min 1 (aged t).length
      | .two => min 2 (aged t).length
      | .four => min 4 (aged t).length
      | .eight => min 8 (aged t).length
      | .continuous => (aged t).length
    let k := s.sector.car c
    let bound := (List.finRange 256).filter (s.sector.bound c)
    let visits := visitCounts (fun t => if releasing t then burst t else 0) k.cfg.releaseBudget
      ((bound.filter fun t => decide (k.releasePtr < t)) ++ bound.filter fun t => decide (t ≤ k.releasePtr))
    let given (t : TermNo) : Nat := ((visits.find? fun v => decide (v.1 = t)).map Prod.snd).getD 0
    ∃ u, exec (.frameStart c f order) s = .next u ∧
      (∀ t, (x t).hold.queue = (s.sector.term t).hold.queue ∧ (x t).cfg = (s.sector.term t).cfg) ∧
      u.sector.mlOut = s.sector.mlOut ++
        (visits.map fun v => ((aged v.1).take v.2).map fun h => MlOut.downstream c v.1 h.bytes).flatten ∧
      (visits.map Prod.snd).sum ≤ k.cfg.releaseBudget ∧
      (u.sector.car c).releasePtr =
        (((visits.filter fun v => decide (0 < v.2)).getLast?).map Prod.fst).getD k.releasePtr ∧
      u.sector.hfs.releases = s.sector.hfs.releases + BitVec.ofNat 32 (visits.map Prod.snd).sum ∧
      (∀ t ∈ bound,
        let y := u.sector.term t
        let gone : Counter := BitVec.ofNat 32 ((x t).hold.queue.length - (aged t).length)
        y.hold.queue = (aged t).drop (given t) ∧
        (0 < given t → (aged t).drop (given t) = [] → y.hold.release = .idle) ∧
        y.ctr.framesReleased = (s.sector.term t).ctr.framesReleased + BitVec.ofNat 32 (given t) ∧
        y.ctr.discardAge = (s.sector.term t).ctr.discardAge + gone) ∧
      ∀ t, t ∉ bound → (u.sector.term t).hold.queue = (s.sector.term t).hold.queue

/-- Each of these events acts when its condition stands, and otherwise changes nothing (the model's choice, log 4). Aging
(R146): the head frames of `t` whose age is above the hold age leave with cause AGE, their descriptors and blocks return to
the pools, and a queue so left empty sets the release state to IDLE. The end of the yield count (R152): a YIELDING terminal
whose last frame is counted becomes RELEASING with yield count 0. The settle count's end (R114): a TRIMMING terminal's
settle count of 1 becomes 0, so that it is eligible for a grant. -/
def Obligations.AgeYieldAndSettleCountsEnd : Prop :=
  (∀ (t : TermNo) (s : State),
    let r := s.sector.term t
    let old := r.hold.queue.takeWhile fun h => decide (r.cfg.holdAge < h.age)
    let rest := r.hold.queue.drop old.length
    let n : Counter := BitVec.ofNat 32 old.length
    ∃ u, exec (.ageDiscard t) s = .next u ∧ OnlyLinkSide s u ∧
      (old = [] → u = s) ∧
      (old ≠ [] →
        OnlyRecord s.sector u.sector t ∧ u.sector.cars = s.sector.cars ∧ u.sector.events = s.sector.events ∧
        u.sector.term t =
          { r with hold := if rest = [] then { release := .idle, yieldCount := 0, queue := [] } else { r.hold with queue := rest }
                   ctr := { r.ctr with discardAge := r.ctr.discardAge + n } } ∧
        u.sector.hfs = { s.sector.hfs with heldAge := s.sector.hfs.heldAge + n } ∧
        u.sector.freeDescriptors = s.sector.freeDescriptors + old.length ∧
        u.sector.freeBlocks = s.sector.freeBlocks + (old.map fun h => (h.bytes.length + 255) / 256).sum ∧
        u.sector.mlOut = s.sector.mlOut)) ∧
  (∀ (t : TermNo) (s : State),
     let r := s.sector.term t
     (r.hold.release = .yielding → r.hold.yieldCount ≤ 1 → exec (.yieldCountEnd t) s =
       .next { s with sector := s.sector.modTerm t fun r =>
         { r with hold := { r.hold with release := .releasing, yieldCount := 0 } } }) ∧
     (¬ (r.hold.release = .yielding ∧ r.hold.yieldCount ≤ 1) → ∃ u, exec (.yieldCountEnd t) s = .next u ∧
       OnlyLinkSide s u ∧ u.sector.cars = s.sector.cars ∧ (∀ v, u.sector.term v = s.sector.term v) ∧
       OnlyRecords s.sector u.sector ∧ u.sector.events = s.sector.events)) ∧
  ∀ (t : TermNo) (s : State),
    let r := s.sector.term t
    (r.link.state = .trimming → r.range.settle = 1 → exec (.settleCountEnd t) s =
      .next { s with sector := s.sector.modTerm t fun r => { r with range := { r.range with settle := 0 } } }) ∧
    (¬ (r.link.state = .trimming ∧ r.range.settle = 1) → ∃ u, exec (.settleCountEnd t) s = .next u ∧
      OnlyLinkSide s u ∧ u.sector.cars = s.sector.cars ∧ (∀ v, u.sector.term v = s.sector.term v) ∧
      OnlyRecords s.sector u.sector ∧ u.sector.events = s.sector.events)

/-! ### Requests: the common checks (R169, R170) -/

/-- The common checks of every request row (R170): a body longer than the bytes that follow the header is refused with
BAD-VALUE; a selector kind that is none of the three, or a value out of range, or a kind that Table 10.2 does not allow, with
BAD-SELECTOR; a code outside 1 to 21 is answered UNKNOWN-REQUEST; and nothing else changes. A request whose body must be empty
(Table 12.6) is refused with BAD-VALUE when it is not, and so is one whose body has another length than its fixed form, before
any check of its owner (R172, R174, R178, R179, R181; that the form comes first is the model's inference, log 13). A row that
finds another request at the head, or none, or that meets a request being taken which it does not go on with, leaves the state
(the model's choice, log 5). -/
def Obligations.CommonChecksRefuse : Prop :=
  (∀ (i : Instr) (code : Nat) (r : Request) (rest : List Request) (s : State), requestCode i = some code →
     s.mgu.buffer = r :: rest → r.code.toNat = code → s.mgu.taking = none →
     (r.rest.length < r.bodyLength →
       ∃ u body, exec i s = .next u ∧ Answered s u r .badValue body ∧ OnlyAnswered s u) ∧
     (r.bodyLength ≤ r.rest.length →
       ¬ (r.kind = 1 ∧ r.value.toNat < 256) → ¬ (r.kind = 2 ∧ r.value.toNat < 4) → r.kind ≠ 3 →
       ∃ u, exec i s = .next u ∧ Answered s u r .badSelector [] ∧ OnlyAnswered s u)) ∧
  (∀ (i : Instr) (code : Nat) (r : Request) (s : State), requestCode i = some code → s.headIs r code →
     ((code = 1 ∨ code = 3 ∨ code = 4 ∨ code = 5) ∧ r.kind ≠ 1) ∨
     ((code = 8 ∨ code = 9 ∨ code = 15 ∨ code = 21) ∧ r.kind ≠ 2) ∨
     ((code = 6 ∨ code = 7 ∨ code = 16 ∨ code = 17 ∨ code = 19 ∨ code = 20) ∧ r.kind ≠ 3) →
     ∃ u, exec i s = .next u ∧ Answered s u r .badSelector [] ∧ OnlyAnswered s u) ∧
  (∀ (i : Instr) (code length : Nat) (r : Request) (s : State), requestCode i = some code → s.headIs r code →
     r.body.length ≠ length →
     (r.kind = 1 ∧ r.value.toNat < 256) ∨ (r.kind = 2 ∧ r.value.toNat < 4) ∨ r.kind = 3 →
     (length = 0 ∧ ((code = 1 ∧ r.kind = 1) ∨ ((code = 9 ∨ code = 15 ∨ code = 21) ∧ r.kind = 2) ∨
       ((code = 7 ∨ code = 16 ∨ code = 20) ∧ r.kind = 3) ∨
       code = 10 ∨ code = 11 ∨ code = 13 ∨ code = 14 ∨ code = 18)) ∨
     (length = 2 ∧ (code = 3 ∨ code = 4 ∨ code = 5) ∧ r.kind = 1) ∨ (length = 9 ∧ code = 6 ∧ r.kind = 3) ∨
     (length = 6 ∧ code = 17 ∧ r.kind = 3) ∨ (length = 1 ∧ code = 12) →
     ∃ u, exec i s = .next u ∧ Answered s u r .badValue [] ∧ OnlyAnswered s u) ∧
  (∀ (i : Instr) (code : Nat) (s : State), requestCode i = some code →
     (∀ r rest, s.mgu.buffer = r :: rest → r.code.toNat ≠ code) → exec i s = .next s) ∧
  (∀ (r : Request) (rest : List Request) (s : State), s.mgu.buffer = r :: rest → s.mgu.taking = none →
    ¬ (1 ≤ r.code.toNat ∧ r.code.toNat ≤ 21) →
    ∃ u, exec .unknownRequest s = .next u ∧ Answered s u r .unknownRequest [] ∧ OnlyAnswered s u) ∧
  (∀ (r : Request) (rest : List Request) (s : State), s.mgu.buffer = r :: rest → 1 ≤ r.code.toNat → r.code.toNat ≤ 21 →
    exec .unknownRequest s = .next s) ∧
  (∀ s : State, s.mgu.buffer = [] ∨ s.mgu.taking ≠ none → exec .unknownRequest s = .next s) ∧
  ∀ (i : Instr) (code : Nat) (s : State), requestCode i = some code → code ≠ 2 → ¬ (10 ≤ code ∧ code ≤ 14) →
    s.mgu.taking ≠ none → exec i s = .next s

/-! ### The Tag Map (R2 to R4) -/

/-- BIND-TAG, UNBIND-TAG and READ-TAG: a selector that names no terminal is refused with BAD-SELECTOR. With a two-byte body,
BIND-TAG and UNBIND-TAG are then decided by the tag and the entry it finds (R2, R3). For READ-TAG a starting tag above 4095
is refused; otherwise the response lists, in ascending order, the tags at or above it whose entries hold the terminal, at
most 256, and the continuation tag when more remain (R4). -/
def Obligations.TagRequestsByEntry : Prop :=
  (∀ (r : Request) (s : State), (∀ t, ¬ r.selectsTerminal t) →
     (s.headIs r 3 → ∃ u, exec .bindTag s = .next u ∧ Answered s u r .badSelector [] ∧ OnlyAnswered s u) ∧
     (s.headIs r 4 → ∃ u, exec .unbindTag s = .next u ∧ Answered s u r .badSelector [] ∧ OnlyAnswered s u)) ∧
  (∀ (r : Request) (t : TermNo) (hi lo : Byte) (s : State), s.headIs r 3 → r.selectsTerminal t → r.body = [hi, lo] →
     let n := 256 * hi.toNat + lo.toNat
     (n = 0 ∨ 4095 ≤ n → ∃ u, exec .bindTag s = .next u ∧ Answered s u r .badValue [] ∧ OnlyAnswered s u) ∧
     ∀ tag : Tag, tag.val = n → n ≠ 0 → n ≠ 4095 →
       (∀ o, s.tagEntry tag = some o → o ≠ t → ∃ u, exec .bindTag s = .next u ∧
         Answered s u r .conflict [hi, lo, 0, BitVec.ofNat 8 o.val] ∧ OnlyAnswered s u) ∧
       (s.tagEntry tag = some t → ∃ u, exec .bindTag s = .next u ∧
         Answered s u r .done [hi, lo, 0, BitVec.ofNat 8 t.val] ∧ OnlyAnswered s u) ∧
       (s.tagEntry tag = none → ∃ u, exec .bindTag s = .next u ∧
         Answered s u r .done [hi, lo, 0, BitVec.ofNat 8 t.val] ∧ OnlyAnswered s { u with tagMap := s.tagMap } ∧
         u.tagEntry tag = some t ∧ ∀ other, other ≠ tag → u.tagEntry other = s.tagEntry other)) ∧
  (∀ (r : Request) (t : TermNo) (hi lo : Byte) (s : State), s.headIs r 4 → r.selectsTerminal t → r.body = [hi, lo] →
    let n := 256 * hi.toNat + lo.toNat
    (n = 0 ∨ 4095 ≤ n → ∃ u, exec .unbindTag s = .next u ∧ Answered s u r .badValue [] ∧ OnlyAnswered s u) ∧
    ∀ tag : Tag, tag.val = n → n ≠ 0 → n ≠ 4095 →
      (∀ o, s.tagEntry tag = some o → o ≠ t → ∃ u, exec .unbindTag s = .next u ∧
        Answered s u r .conflict [hi, lo, 0, BitVec.ofNat 8 o.val] ∧ OnlyAnswered s u) ∧
      (s.tagEntry tag = none → ∃ u, exec .unbindTag s = .next u ∧
        Answered s u r .done [hi, lo, 0xFF, 0xFF] ∧ OnlyAnswered s u) ∧
      (s.tagEntry tag = some t → ∃ u, exec .unbindTag s = .next u ∧
        Answered s u r .done [hi, lo, 0xFF, 0xFF] ∧ OnlyAnswered s { u with tagMap := s.tagMap } ∧
        u.tagEntry tag = none ∧ ∀ other, other ≠ tag → u.tagEntry other = s.tagEntry other)) ∧
  (∀ (r : Request) (s : State), s.headIs r 5 → (∀ t, ¬ r.selectsTerminal t) →
     ∃ u, exec .readTag s = .next u ∧ Answered s u r .badSelector [] ∧ OnlyAnswered s u) ∧
  ∀ (r : Request) (t : TermNo) (hi lo : Byte) (s : State), s.headIs r 5 → r.selectsTerminal t → r.body = [hi, lo] →
    let start := 256 * hi.toNat + lo.toNat
    let tags := (List.finRange 4096).filter fun tag => decide (start ≤ tag.val) && decide (s.tagEntry tag = some t)
    let shown := tags.take 256
    let more := decide (256 < tags.length)
    let next : Nat := if more then (shown.getLastD 0).val + 1 else 0
    (4095 < start → ∃ u, exec .readTag s = .next u ∧ Answered s u r .badValue [] ∧ OnlyAnswered s u) ∧
    (start ≤ 4095 → ∃ u, exec .readTag s = .next u ∧
      Answered s u r .done (be8 (if more then 1 else 0) ++ be16 next ++ be16 shown.length ++
        (shown.map fun tag => be16 tag.val).flatten) ∧ OnlyAnswered s u)

/-! ### Reads of whole records (R32, R86, R103, R124, R172) -/

/-- Each read with an empty body is answered DONE with what it reads, laid out as Table 12.7 and the lists after it give, field by
field in the order of Tables 2.1, 2.5 to 2.8, 4.1, 4.8, 5.3, 6.3, 7.1, 7.2, 8.5, 9.2, 10.3 and 1.2, and changes nothing. That
GRANT sent is 1 when a grant is outstanding and no GRANT is owed is the model's reading (log 26), and where the one or two
fragments of a partial value stand in its two bytes is the model's choice (log 35). -/
def Obligations.ReadsGiveTheirLayouts : Prop :=
  ∀ (r : Request) (s : State), r.body = [] →
    let flag (b : Bool) : List Byte := be8 (if b then 1 else 0)
    let stopped (running : Bool) : List Byte := be8 (if running then 0 else 1)
    let grant (g : Option GrantRef) : List Byte := g.elim [] fun x => be16 x.frame.toNat ++ be8 x.slot.val
    let fieldSet (l : List (List Byte)) : List Byte :=
      be8 l.length ++ ((l.zipIdx 1).map fun e => be8 e.2 ++ be8 e.1.length ++ e.1).flatten
    let counters (l : List Counter) : List Byte := (l.map fun x => be32 x.toNat).flatten
    (∀ t, s.headIs r 1 → r.selectsTerminal t →
      let x := s.sector.term t
      ∃ u, exec .readTerminal s = .next u ∧ OnlyAnswered s u ∧
        Answered s u r .done (fieldSet
          [flag x.cfg.configured, be8 x.cfg.carrier.val, be8 x.cfg.cls.val, x.cfg.homeTag.elim [] be16,
           (x.cfg.homeSlots.map fun y => be8 y.val).flatten, be8 x.cfg.floor.val, be8 x.cfg.ceiling.val,
           be8 x.cfg.reentry.val, flag x.cfg.autoAdmit, be16 x.cfg.holdQuota, be16 x.cfg.holdAge,
           be8 ([DropPolicy.dropNew, .dropOldest].idxOf x.cfg.dropPolicy),
           be8 ([BackPressure.wait, .yielding].idxOf x.cfg.backPressure),
           be8 (match x.cfg.releaseBurst with | .continuous => 0 | .one => 1 | .two => 2 | .four => 4 | .eight => 8),
           be16 x.cfg.fadeTimeout, be8 x.cfg.fadeMissLimit, be16 x.cfg.lendDelay, be16 x.cfg.warmLimit,
           be16 x.cfg.guardPeriod,
           be8 ([LinkState.held, .dark, .called, .trimming, .admitting, .serving, .fading, .guard].idxOf x.link.state),
           be8 ([Cause.none, .fade, .recall, .carrier, .rangeFail, .noPermit, .restart, .forced].idxOf x.link.cause),
           flag x.link.forced, flag x.link.permit, be32 x.link.outage ++ stopped x.link.outageOn,
           be16 x.link.lendActive ++ be16 x.link.warmActive, flag x.link.lendTaken, flag x.link.warmClosed,
           stopped x.link.fadeOn ++ be16 x.link.fadeCount ++ be16 x.link.fadeActive, be8 x.link.fadeMisses,
           stopped x.link.guardOn ++ be16 x.link.guardCount ++ be16 x.link.guardActive, be8 x.link.repeatCalls,
           flag x.link.keptLock,
           x.range.stored.elim [] fun v => be16 (BitVec.ofInt 16 v).toNat, be8 x.range.attempts, be8 x.range.measured,
           flag x.range.warm, x.range.last.elim [] fun m => be16 (BitVec.ofInt 16 m.offset).toNat,
           x.range.last.elim [] fun m => be8 m.snr, be8 x.range.settle, grant x.range.grant, be16 x.adm.wait,
           flag x.adm.reclaimPending, x.adm.sent.elim [] fun f => be16 f.toNat,
           be8 x.ladder.current.val,
           x.ladder.pending.elim [] fun p => be8 p.target.val ++ be8 (if p.direction = .stepDown then 0 else 1) ++
             p.apply.elim [] fun f => be16 f.toNat,
           be8 x.ladder.assembly.length ++ be16 (x.ladder.assembly.foldl (fun n y => n * 16 + y.toNat) 0),
           x.ladder.report.elim [] fun z => [BitVec.ofInt 8 z.margin],
           x.ladder.report.elim [] fun z => be8 ([Trend.falling, .steady, .rising, .unknown].idxOf z.trend),
           x.ladder.report.elim [] fun z => be8 z.headroom, x.ladder.upMargin.elim [] fun m => [BitVec.ofInt 8 m],
           be8 x.ladder.stepUp,
           be8 ([ReleaseState.idle, .releasing, .paused, .yielding, .suspended].idxOf x.hold.release),
           be8 x.hold.yieldCount,
           be16 x.hold.queue.length ++ be16 (x.hold.queue.map fun h => (h.bytes.length + 255) / 256).sum,
           flag x.owed.halt, flag x.owed.admission, flag x.owed.profile, grant x.owed.grant,
           be16 (BitVec.ofInt 16 x.range.correction).toNat, [BitVec.ofInt 8 x.range.power],
           x.hold.queue.head?.elim [] fun h => be16 h.arrival.toNat, x.hold.queue.head?.elim [] fun h => be32 h.age])) ∧
    (s.headIs r 7 → r.selectsSector →
      ∃ u, exec .readProfile s = .next u ∧ OnlyAnswered s u ∧
        Answered s u r .done (((List.finRange 8).map fun p =>
          let x := s.sector.profile p
          be8 p.val ++ flag x.enabled ++
          be8 ([Modulation.qpsk, .psk8, .qam16, .qam32, .qam64, .qam128, .qam256].idxOf x.modulation) ++
          be8 ([CodeRate.half, .twoThirds, .threeQuarters, .fiveSixths, .nineTenths].idxOf x.codeRate) ++
          be8 x.requiredSnr ++ [BitVec.ofInt 8 x.upMargin, BitVec.ofInt 8 x.downMargin] ++ be8 x.stepUpHold ++
          be8 x.neededHeadroom ++
          be16 ((List.finRange 256).countP fun t =>
            (s.sector.term t).cfg.configured && decide ((s.sector.term t).ladder.current = p))).flatten)) ∧
    (∀ c, s.headIs r 9 → r.selectsCarrier c →
      let k := s.sector.car c
      let owner (y : SlotNo) : Option TermNo :=
        (List.finRange 256).find? fun t => s.sector.bound c t && (s.sector.term t).cfg.homeSlots.contains y
      ∃ u, exec .readCarrier s = .next u ∧ OnlyAnswered s u ∧
        Answered s u r .done (fieldSet (
          [flag k.cfg.enabled, be8 k.cfg.grantLead, be8 k.cfg.applyLead, be8 k.cfg.settle, be8 k.cfg.trimLimit,
           be16 k.cfg.searchWindow, be8 k.cfg.fineWindow, be8 k.cfg.powerWindow, be8 k.cfg.targetSnr, be8 k.cfg.paceLimit,
           be8 k.cfg.recoveryPace, be8 k.cfg.rangingSize, be8 k.cfg.offerLimit, be8 k.cfg.recoveryOffer,
           be16 k.cfg.recoveryPeriod, be8 k.cfg.backoffWindow, be8 k.cfg.backoffHigh, be8 k.cfg.backoffLow,
           be16 k.cfg.admitWaitLimit, be8 k.cfg.yieldPeriod, be8 k.cfg.releaseBudget, flag k.cfg.guardRestart,
           flag k.cfg.fadeStepDown, be32 k.cfg.base.toNat,
           be8 ([CarrierState.disabled, .down, .up, .recovering].idxOf k.state), be16 k.recovery, be16 k.lastFrame.toNat,
           be8 k.res.exponent] ++
          ((List.finRange 32).map fun y =>
            be8 (if (owner y).isSome then 2 else if k.cfg.base.getLsbD y.val then 0 else 1) ++
            be8 (match k.slotUse y with | .reentry => 0 | .opened => 1 | .traffic _ => 2 | .lent _ _ => 3) ++
            be8 ((owner y).elim 0 fun t => t.val) ++ flag (decide (∃ t, k.slotUse y = .lent t true))) ++
          k.calendar.map fun row => be16 row.frame.toNat ++ flag row.filled ++
            ((List.finRange 32).map fun y =>
              match row.cell y with
              | .empty => be8 0 ++ be8 0 ++ be8 0
              | .offered => be8 1 ++ be8 0 ++ be8 0
              | .granted t n => be8 2 ++ be8 t.val ++ be8 n).flatten))) ∧
    (∀ c, s.headIs r 15 → r.selectsCarrier c →
      let k := s.sector.car c
      ∃ u, exec .readQueue s = .next u ∧ OnlyAnswered s u ∧
        Answered s u r .done (
          be16 (256 - ((List.finRange 4).map fun d => (s.sector.car d).res.queue.length).sum) ++
          be16 k.res.queue.length ++
          (k.res.queue.map fun e => be8 e.terminal.val ++ be8 e.cls.val ++ be8 e.lastProfile.val ++
            be8 (s.sector.term e.terminal).link.repeatCalls).flatten ++
          be8 k.res.ranging.length ++
          (k.res.ranging.map fun t =>
            let g := (s.sector.term t).range
            be8 t.val ++ be8 g.attempts ++ flag g.warm ++ be8 g.settle ++ flag g.grant.isSome ++
            be16 (g.grant.elim 0 fun y => y.frame.toNat) ++ be8 (g.grant.elim 0 fun y => y.slot.val) ++
            flag (g.grant.isSome && (s.sector.term t).owed.grant.isNone)).flatten ++
          be8 k.res.rotation.val ++ be8 k.res.window.length ++
          be8 ((k.res.window.drop (k.res.window.length - k.cfg.backoffWindow)).countP fun y =>
            decide (y = .garbled)) ++ be8 k.res.exponent)) ∧
    (∀ t, s.headIs r 18 → r.selectsTerminal t →
      let n := (s.sector.term t).ctr
      ∃ u, exec .readCounters s = .next u ∧ OnlyAnswered s u ∧
        Answered s u r .done (counters
          [n.callsAccepted, n.repeatCalls, n.guardHits, n.ignoredCalls, n.suppressed, n.misses, n.fades, n.foreignBursts,
           n.rangingAttempts, n.rangingOverflows, n.rangingFailures, n.lateTrims, n.brokenReports, n.stepsDown, n.stepsUp,
           n.framesHeld, n.framesReleased, n.discardQuota, n.discardPool, n.discardAge, n.discardState, n.discardFlush,
           n.arrivalQuota, n.arrivalPool, n.heldState])) ∧
    (∀ c, s.headIs r 18 → r.selectsCarrier c →
      let k := s.sector.car c
      ∃ u, exec .readCounters s = .next u ∧ OnlyAnswered s u ∧
        Answered s u r .done (counters (
          [k.csp.frameStarts, k.csp.frameSlips, k.csp.carrierFound, k.csp.carrierLost, k.csp.expiredCells, k.csp.outOfFrame,
           k.csp.strayOutcomes, k.csp.strayBursts] ++
          [k.resCtr.callsAccepted, k.resCtr.strayCalls, k.resCtr.collisions, k.resCtr.quietOffers, k.resCtr.terminalsTaken,
           k.resCtr.grantsPlaced, k.resCtr.grantsWithdrawn, k.resCtr.grantsRefunded, k.resCtr.storms] ++
          [k.rng.warmExchanges, k.rng.coldExchanges, k.rng.outcomes, k.rng.measurements, k.rng.misses, k.rng.overflows,
           k.rng.warmFallbacks, k.rng.convergences, k.rng.failures, k.rng.ended, k.rng.lateTrims, k.rng.staleOutcomes,
           k.rng.unsentOutcomes] ++
          [k.dcpCtr.listCloses, k.dcpCtr.headerOnly, k.dcpCtr.haltsSent, k.dcpCtr.admitsSent, k.dcpCtr.downsSent,
           k.dcpCtr.upsSent, k.dcpCtr.trimsSent, k.dcpCtr.lateGrants, k.dcpCtr.fullLists]))) ∧
    (s.headIs r 18 → r.selectsSector →
      let f := s.fcl
      let p := s.sector.pld
      let h := s.sector.hfs
      let m := s.mgu.ctr
      ∃ u, exec .readCounters s = .next u ∧ OnlyAnswered s u ∧
        Answered s u r .done (
          counters [f.checkErrors, f.received, f.untagged, f.diverted, f.length, f.unknownTag, f.passedThrough, f.handedToHfs,
            f.stateDiscards, f.upstreamSent, f.upstreamNoTag, f.upstreamFormat] ++
          counters [p.reportsCompleted, p.brokenReports, p.orphanFragments, p.stepDownDecisions, p.stepUpDecisions,
            p.fadeStepDowns, p.pendingReplaced, p.appliedDown, p.appliedUp] ++
          counters [h.appends, h.releases, h.arrivalQuota, h.arrivalPool, h.heldQuota, h.heldPool, h.heldAge, h.heldFlush,
            h.heldState, h.storeLow, h.storeExhausted] ++
          be16 s.sector.freeDescriptors ++ be16 s.sector.freeBlocks ++
          counters [m.admitted, m.dropped, m.misaddressed, m.shortFrames, m.responses, m.refusals, m.notices]))

/-! ### Event sets and notices (R174, R175), sector settings (R176) -/

/-- READ-EVENTS, where the event sets are listed in ascending order (as every step keeps them), returns the six sets in that
order, each with its count, empties them and clears the notice-outstanding flag (R174). SET-NOTICES with six enable bytes:
with every byte 0 or 1 the enables and the destination are set and the response is followed by a notice exactly when the
flag is clear and an enabled set is not empty; any other byte, or a body of another length, is refused with BAD-VALUE and
changes nothing (R175, R181). -/
def Obligations.EventSetsAreReadAndEnabled : Prop :=
  (∀ (r : Request) (s : State), s.headIs r 16 → r.selectsSector → r.body = [] → s.sector.events.ascending →
    let e := s.sector.events
    let set (l : List Nat) : List Byte := be16 l.length ++ (l.map be8).flatten
    ∃ u, exec .readEvents s = .next u ∧
      Answered s u r .done (set (e.stateChange.map Fin.val) ++ set (e.carrier.map Fin.val) ++ set (e.rangeFail.map Fin.val) ++
        set (e.storm.map Fin.val) ++ set (e.listFull.map Fin.val) ++
        set ((if e.storeLow then [0] else []) ++ if e.storeExhausted then [1] else [])) ∧
      u.mgu.outstanding = false ∧ OnlyLinkAnswered s u ∧
      u.sector = { s.sector with
        events := { stateChange := [], carrier := [], rangeFail := [], storm := [], listFull := [], storeLow := false
                    storeExhausted := false } }) ∧
  ∀ (r : Request) (s : State), s.headIs r 17 → r.selectsSector →
    (∀ a b c d e f : Bool, r.body = [a, b, c, d, e, f].map (fun x => if x then 1 else 0) →
      let n : NoticeEnables := { stateChange := a, carrier := b, rangeFail := c, storm := d, listFull := e, store := f }
      let notice := decide (s.mgu.outstanding = false) && s.sector.events.enabledNonempty n
      ∃ u, exec .setNotices s = .next u ∧ Answered s u r .done [] ∧
        u.mgu.enables = n ∧ u.mgu.noticeDest = r.source ∧
        u.mgu.outstanding = (s.mgu.outstanding || notice) ∧
        u.mgu.ctr.notices = (if notice then s.mgu.ctr.notices + 1 else s.mgu.ctr.notices) ∧
        u.npMgmt.length = s.npMgmt.length + (if notice then 2 else 1) ∧
        u.sector = s.sector ∧ u.pending = s.pending ∧ u.straps = s.straps ∧ u.tagMap = s.tagMap ∧ u.fcl = s.fcl ∧
        u.npTraffic = s.npTraffic ∧ u.mgu.station = s.mgu.station) ∧
    (r.body.length ≠ 6 ∨ (∃ x ∈ r.body, 1 < x.toNat) →
      ∃ u, exec .setNotices s = .next u ∧ Answered s u r .badValue [] ∧ OnlyAnswered s u)

/-- The notice test (R175). After a command that is one event, when that event added to an event set, the notice-outstanding flag
was clear, and some set whose class is enabled is not empty, one notice frame with all six sets is handed, counted, and the
flag is set; while a group request is being taken the notice waits for its response. Otherwise no notice is formed. A request
that is one event hands its notice after its response. A frame start, whose blocks make their events one after another,
forms at most one notice, and forms it on the same condition (log 11). -/
def Obligations.NoticeTestAfterEvents : Prop :=
  (∀ (i : Instr) (s u : State), requestCode i = none → (∀ x, i ≠ .powerOnReset x) → i ≠ .unknownRequest →
    (∀ c f order, i ≠ .frameStart c f order) → (∀ bytes, i ≠ .discardedRecord bytes) → exec i s = .next u →
      let e := u.sector.events
      let n := s.mgu.enables
      let set (l : List Nat) : List Byte := be16 l.length ++ (l.map be8).flatten
      let met := e ≠ s.sector.events ∧ s.mgu.outstanding = false ∧
        ((n.stateChange = true ∧ e.stateChange ≠ []) ∨ (n.carrier = true ∧ e.carrier ≠ []) ∨
          (n.rangeFail = true ∧ e.rangeFail ≠ []) ∨ (n.storm = true ∧ e.storm ≠ []) ∨
          (n.listFull = true ∧ e.listFull ≠ []) ∨ (n.store = true ∧ (e.storeLow = true ∨ e.storeExhausted = true)))
      let notice : MgmtFrame :=
        { dest := s.mgu.noticeDest, source := s.mgu.station, code := 255, kind := 3, number := 0, value := 0, status := .done,
          body := set (e.stateChange.map Fin.val) ++ set (e.carrier.map Fin.val) ++ set (e.rangeFail.map Fin.val) ++
            set (e.storm.map Fin.val) ++ set (e.listFull.map Fin.val) ++
            set ((if e.storeLow then [0] else []) ++ if e.storeExhausted then [1] else []) }
      (met → s.mgu.taking = none →
        u.npMgmt = s.npMgmt ++ [notice] ∧ u.mgu.outstanding = true ∧ u.mgu.ctr.notices = s.mgu.ctr.notices + 1 ∧
        u.mgu.taking = none) ∧
      (met → ∀ g, s.mgu.taking = some g →
        u.npMgmt = s.npMgmt ∧ u.mgu.outstanding = true ∧ u.mgu.ctr.notices = s.mgu.ctr.notices ∧
        u.mgu.taking = some { g with notices := g.notices ++ [notice] }) ∧
      (¬ met → u.npMgmt = s.npMgmt ∧ u.mgu.outstanding = s.mgu.outstanding ∧
        u.mgu.ctr.notices = s.mgu.ctr.notices ∧ u.mgu.taking = s.mgu.taking)) ∧
  (∀ (i : Instr) (code : Nat) (r : Request) (s u : State), requestCode i = some code → s.mgu.buffer.head? = some r →
    r.code.toNat = code → s.mgu.taking = none → (r.kind = 1 ∧ (code = 2 ∨ 10 ≤ code ∧ code ≤ 14)) ∨ code = 8 ∨ code = 21 →
    exec i s = .next u →
      let e := u.sector.events
      let n := s.mgu.enables
      let set (l : List Nat) : List Byte := be16 l.length ++ (l.map be8).flatten
      let met := e ≠ s.sector.events ∧ s.mgu.outstanding = false ∧
        ((n.stateChange = true ∧ e.stateChange ≠ []) ∨ (n.carrier = true ∧ e.carrier ≠ []) ∨
          (n.rangeFail = true ∧ e.rangeFail ≠ []) ∨ (n.storm = true ∧ e.storm ≠ []) ∨
          (n.listFull = true ∧ e.listFull ≠ []) ∨ (n.store = true ∧ (e.storeLow = true ∨ e.storeExhausted = true)))
      let notice : MgmtFrame :=
        { dest := s.mgu.noticeDest, source := s.mgu.station, code := 255, kind := 3, number := 0, value := 0, status := .done,
          body := set (e.stateChange.map Fin.val) ++ set (e.carrier.map Fin.val) ++ set (e.rangeFail.map Fin.val) ++
            set (e.storm.map Fin.val) ++ set (e.listFull.map Fin.val) ++
            set ((if e.storeLow then [0] else []) ++ if e.storeExhausted then [1] else []) }
      (met → u.mgu.outstanding = true ∧ u.mgu.ctr.notices = s.mgu.ctr.notices + 1 ∧
        ∃ answer, u.npMgmt = s.npMgmt ++ [answer, notice] ∧ answer.code = r.code ∧ answer.number = r.number) ∧
      (¬ met → u.mgu.outstanding = s.mgu.outstanding ∧ u.mgu.ctr.notices = s.mgu.ctr.notices ∧
        ∃ answer, u.npMgmt = s.npMgmt ++ [answer] ∧ answer.code = r.code ∧ answer.number = r.number)) ∧
  ∀ (c : CarrierNo) (f : FrameNo) (order : List Block) (s u : State), s.mgu.taking = none →
    exec (.frameStart c f order) s = .next u →
      let e := u.sector.events
      let n := s.mgu.enables
      let met := e ≠ s.sector.events ∧ s.mgu.outstanding = false ∧
        ((n.stateChange = true ∧ e.stateChange ≠ []) ∨ (n.carrier = true ∧ e.carrier ≠ []) ∨
          (n.rangeFail = true ∧ e.rangeFail ≠ []) ∨ (n.storm = true ∧ e.storm ≠ []) ∨
          (n.listFull = true ∧ e.listFull ≠ []) ∨ (n.store = true ∧ (e.storeLow = true ∨ e.storeExhausted = true)))
      (met → u.mgu.outstanding = true ∧ u.mgu.ctr.notices = s.mgu.ctr.notices + 1 ∧
        ∃ notice, u.npMgmt = s.npMgmt ++ [notice] ∧ notice.dest = s.mgu.noticeDest ∧ notice.source = s.mgu.station ∧
          notice.code = 255 ∧ notice.kind = 3 ∧ notice.number = 0 ∧ notice.value = 0 ∧ notice.status = .done) ∧
      (¬ met → u.npMgmt = s.npMgmt ∧ u.mgu.outstanding = s.mgu.outstanding ∧ u.mgu.ctr.notices = s.mgu.ctr.notices)

/-- SET-SECTOR with a station address, a store low mark, both in either order, or no field: it is refused, naming the failing
field, when the address is all zeros or a group address, and then when the mark is above 8192; else the settings named take
their values and the response gives both as they then stand. A set that names one field that is none, or a field twice, is
refused naming it (R176). One whose entries have not their widths, or that does not fill the body, is refused naming field 0,
which the model infers (log 13). -/
def Obligations.SetSectorTakesSettings : Prop :=
  ∀ (r : Request) (s : State), s.headIs r 19 → r.selectsSector →
    let bad (a : List Byte) : Prop := beNat a = 0 ∨ (a.getD 0 0).getLsbD 0 = true
    let refuses (field : Byte) : Prop :=
      ∃ u, exec .setSector s = .next u ∧ Answered s u r .badValue [field] ∧ OnlyAnswered s u
    let takes (station : Addr) (mark : Nat) : Prop :=
      ∃ u, exec .setSector s = .next u ∧ Answered s u r .done (beBytes 6 station.toNat ++ be16 mark) ∧
        u.mgu.station = station ∧ u.sector = { s.sector with storeLowMark := mark } ∧
        OnlyAnswered s { u with sector := s.sector, mgu := { u.mgu with station := s.mgu.station } }
    (∀ a m : List Byte, a.length = 6 → m.length = 2 →
      r.body = [2, 1, 6] ++ a ++ [2, 2] ++ m ∨ r.body = [2, 2, 2] ++ m ++ [1, 6] ++ a →
      (bad a → refuses 1) ∧ (¬ bad a → 8192 < beNat m → refuses 2) ∧
      (¬ bad a → beNat m ≤ 8192 → takes (BitVec.ofNat 48 (beNat a)) (beNat m))) ∧
    (∀ a : List Byte, a.length = 6 → r.body = [1, 1, 6] ++ a →
      (bad a → refuses 1) ∧ (¬ bad a → takes (BitVec.ofNat 48 (beNat a)) s.sector.storeLowMark)) ∧
    (∀ m : List Byte, m.length = 2 → r.body = [1, 2, 2] ++ m →
      (8192 < beNat m → refuses 2) ∧ (beNat m ≤ 8192 → takes s.mgu.station (beNat m))) ∧
    (r.body = [0] → takes s.mgu.station s.sector.storeLowMark) ∧
    (∀ (code len : Byte) (v : List Byte), code ≠ 1 → code ≠ 2 → v.length = len.toNat → r.body = [1, code, len] ++ v →
      refuses code) ∧
    (∀ a b : List Byte, a.length = 6 → b.length = 6 → r.body = [2, 1, 6] ++ a ++ [1, 6] ++ b → refuses 1) ∧
    (∀ m n : List Byte, m.length = 2 → n.length = 2 → r.body = [2, 2, 2] ++ m ++ [2, 2] ++ n → refuses 2) ∧
    (∀ (len : Byte) (v : List Byte), v.length = len.toNat →
      (r.body = [1, 1, len] ++ v ∧ len ≠ 6) ∨ (r.body = [1, 2, len] ++ v ∧ len ≠ 2) → refuses 0) ∧
    (parseFieldSet r.body = none → refuses 0)

/-! ### The Profile Table (R123) -/

/-- LOAD-PROFILE: another selector kind than SECTOR is refused with BAD-SELECTOR. With a nine-byte body, by the checks of R123
in their order: a value out of range is refused with BAD-VALUE;
disabling an enabled entry that a configured terminal uses now, or else bounds a configured terminal, is refused with
IN-USE, naming the lowest such terminal; otherwise the entry takes its eight values and no other entry changes. -/
def Obligations.LoadProfileChecksAndWrites : Prop :=
  (∀ (r : Request) (s : State), s.headIs r 6 → ¬ r.selectsSector →
     ∃ u, exec .loadProfile s = .next u ∧ Answered s u r .badSelector [] ∧ OnlyAnswered s u) ∧
  ∀ (r : Request) (s : State) (i en m cr snr up down hold room : Byte), s.headIs r 6 → r.selectsSector →
    r.body = [i, en, m, cr, snr, up, down, hold, room] →
    let valid := i.toNat < 8 ∧ en.toNat < 2 ∧ m.toNat < 7 ∧ cr.toNat < 5 ∧ snr.toNat ≤ 100 ∧ down.toInt < up.toInt ∧
      1 ≤ hold.toNat ∧ hold.toNat ≤ 63 ∧ room.toNat ≤ 63
    (¬ valid → ∃ u, exec .loadProfile s = .next u ∧ Answered s u r .badValue [] ∧ OnlyAnswered s u) ∧
    (valid → ∀ p : ProfileNo, p.val = i.toNat →
      let term := s.sector.term
      let uses (t : TermNo) : Prop := (term t).cfg.configured = true ∧
        ((term t).link.state = .admitting ∨ (term t).link.state = .serving ∨ (term t).link.state = .fading) ∧
        ((term t).ladder.current = p ∨ ∃ q, (term t).ladder.pending = some q ∧ q.target = p)
      let bounds (t : TermNo) : Prop := (term t).cfg.configured = true ∧
        ((term t).cfg.floor = p ∨ (term t).cfg.ceiling = p ∨ (term t).cfg.reentry = p)
      let disables := (s.sector.profile p).enabled = true ∧ en = 0
      (∀ t, disables → uses t → (∀ v < t, ¬ uses v) → ∃ u, exec .loadProfile s = .next u ∧
        Answered s u r .inUse [i, BitVec.ofNat 8 t.val] ∧ OnlyAnswered s u) ∧
      (∀ t, disables → (∀ v, ¬ uses v) → bounds t → (∀ v < t, ¬ bounds v) → ∃ u, exec .loadProfile s = .next u ∧
        Answered s u r .inUse [i, BitVec.ofNat 8 t.val] ∧ OnlyAnswered s u) ∧
      (¬ disables ∨ (∀ v, ¬ uses v ∧ ¬ bounds v) →
        ∃ u modulation rate, exec .loadProfile s = .next u ∧ Answered s u r .done [i] ∧
          modulation.code = m.toNat ∧ rate.code = cr.toNat ∧
          u.sector.profile p =
            { enabled := decide (en = 1), modulation := modulation, codeRate := rate, requiredSnr := snr.toNat
              upMargin := up.toInt, downMargin := down.toInt, stepUpHold := hold.toNat, neededHeadroom := room.toNat } ∧
          (∀ q, q ≠ p → u.sector.profile q = s.sector.profile q) ∧
          OnlyAnswered s { u with sector := s.sector } ∧ u.sector = { s.sector with profiles := u.sector.profiles }))

/-! ### WRITE-TERMINAL (R18 to R25) -/

/-- A WRITE-TERMINAL at one record that passes every check is answered DONE: that record takes every field of the set, and no
other record and no carrier's settings change (R19). The active copy of a setting that the set names takes the setting exactly
when the timer or compare that uses it is not running (R27, R28). One that fails a check changes nothing and answers the check's
status and one field. A field set that does not have its form is refused naming field 0 (log 13, the model's inference), for a
group with an empty body before any terminal is touched, and a group request naming a field that no group may carry, a code that
is no field among them, with BAD-SELECTOR (R19; that an unknown code counts among them is the model's choice, log 30). -/
def Obligations.WriteTerminalTakesFields : Prop :=
  (∀ (r : Request) (t : TermNo) (es : List FieldEntry) (s : State), s.headIs r 2 → r.selectsTerminal t →
     fieldSet termWidth r.body = some es → (s.sector.writeCheck t es).1 = .done →
     ∃ u, exec .writeTerminal s = .next u ∧ Answered s u r .done [] ∧ OnlyLinkAnswered s u ∧
       (u.sector.term t).cfg = (s.sector.term t).cfg.withFields es ∧
       OnlyRecord s.sector u.sector t ∧
       (∀ c, (u.sector.car c).cfg = (s.sector.car c).cfg ∧ (u.sector.car c).state = (s.sector.car c).state ∧
         (u.sector.car c).calendar = (s.sector.car c).calendar) ∧
       u.sector.profiles = s.sector.profiles ∧ u.sector.mlOut = s.sector.mlOut ∧ u.sector.events = s.sector.events ∧
       ((u.sector.term t).cfg.configured = (s.sector.term t).cfg.configured →
         (u.sector.term t).hold = (s.sector.term t).hold ∧ (u.sector.term t).range = (s.sector.term t).range ∧
         (u.sector.term t).link.state = (s.sector.term t).link.state ∧
         let x := (s.sector.term t).link
         let y := (u.sector.term t).link
         let cfg := (u.sector.term t).cfg
         let copy (field : Nat) (running : Bool) (was setting now : Nat) : Prop :=
           if (∃ e ∈ es, e.code = field) ∧ running = false then now = setting else now = was
         copy 15 x.fadeOn x.fadeActive cfg.fadeTimeout y.fadeActive ∧ copy 17 x.outageOn x.lendActive cfg.lendDelay y.lendActive ∧
         copy 18 x.outageOn x.warmActive cfg.warmLimit y.warmActive ∧ copy 19 x.guardOn x.guardActive cfg.guardPeriod y.guardActive ∧
         y.fadeOn = x.fadeOn ∧ y.fadeCount = x.fadeCount ∧ y.outageOn = x.outageOn ∧ y.outage = x.outage ∧
         y.guardOn = x.guardOn ∧ y.guardCount = x.guardCount) ∧
       (u.sector.term t).ctr = (s.sector.term t).ctr) ∧
  ∀ (r : Request) (s : State), s.headIs r 2 →
    (∀ t, r.selectsTerminal t → fieldSet termWidth r.body = none →
      ∃ u, exec .writeTerminal s = .next u ∧ Answered s u r .badValue [0] ∧ OnlyAnswered s u) ∧
    ((∃ c, r.selectsCarrier c) ∨ r.selectsSector → fieldSet termWidth r.body = none →
      ∃ u, exec .writeTerminal s = .next u ∧ Answered s u r .badValue [] ∧ OnlyAnswered s u) ∧
    (∀ t es, r.selectsTerminal t → fieldSet termWidth r.body = some es → (s.sector.writeCheck t es).1 ≠ .done →
      ∃ u field, exec .writeTerminal s = .next u ∧ Answered s u r (s.sector.writeCheck t es).1 [field] ∧ OnlyAnswered s u) ∧
    (∀ es, (∃ c, r.selectsCarrier c) ∨ r.selectsSector → fieldSet termWidth r.body = some es →
      (∃ e ∈ es, ¬ (9 ≤ e.code ∧ e.code ≤ 19)) →
      ∃ u, exec .writeTerminal s = .next u ∧ Answered s u r .badSelector [] ∧ OnlyAnswered s u)

/-- The checks of Table 2.2 on one record, exactly and in their order. BAD-VALUE: a code that is no field or is named twice, a value
out of its range, or floor, re-entry and ceiling profiles out of order (R20). WRONG-STATE: a configured record in any state but
HELD would change its carrier, its home slots, or configured to no (R21). CONFLICT: a record configured after the write, and
configured by it or moved, has a home slot that another configured terminal of the carrier has or whose base kind is REENTRY
(R22), or, where the profile checks run, one of its three profiles disabled (R23). IN-USE: in ADMITTING, SERVING or FADING the
current or a pending profile would lie outside the new bounds (R23). The request at one terminal answers the status so found,
and an accepted one moves a CALLED or TRIMMING terminal whose current profile lies outside the new bounds to its re-entry
profile (R23). -/
def Obligations.WriteTerminalChecks : Prop :=
  ∀ (t : TermNo) (es : List FieldEntry) (s : State),
    let x := s.sector.term t
    let old := x.cfg
    let new := old.withFields es
    let named (n : Nat) : Prop := ∃ e ∈ es, e.code = n
    let outside (p : ProfileNo) : Prop := p < new.floor ∨ new.ceiling < p
    let fits : Prop := (∀ e ∈ es, 1 ≤ e.code ∧ e.code ≤ 19 ∧ (old.setField e).isSome = true) ∧
      (es.map FieldEntry.code).Nodup ∧ new.floor ≤ new.reentry ∧ new.reentry ≤ new.ceiling
    let wrong : Prop := old.configured = true ∧ x.link.state ≠ .held ∧
      (new.carrier ≠ old.carrier ∨ new.homeSlots ≠ old.homeSlots ∨ new.configured = false)
    let clash : Prop := new.configured = true ∧
      (old.configured = false ∨ new.carrier ≠ old.carrier ∨ new.homeSlots ≠ old.homeSlots) ∧
      ∃ slot ∈ new.homeSlots, (s.sector.car new.carrier).cfg.baseKind slot = .reentry ∨
        ∃ v, v ≠ t ∧ (s.sector.term v).cfg.configured = true ∧ (s.sector.term v).cfg.carrier = new.carrier ∧
          slot ∈ (s.sector.term v).cfg.homeSlots
    let judged : Prop := named 6 ∨ named 7 ∨ named 8 ∨ (named 1 ∧ new.configured = true)
    let disabled : Prop := judged ∧ new.configured = true ∧
      ∃ p ∈ [new.floor, new.ceiling, new.reentry], (s.sector.profile p).enabled = false
    let used : Prop := judged ∧ (x.link.state = .admitting ∨ x.link.state = .serving ∨ x.link.state = .fading) ∧
      (outside x.ladder.current ∨ ∃ p, x.ladder.pending = some p ∧ outside p.target)
    let status := (s.sector.writeCheck t es).1
    (status = .badValue ↔ ¬ fits) ∧ (status = .wrongState ↔ fits ∧ wrong) ∧
    (status = .conflict ↔ fits ∧ ¬ wrong ∧ (clash ∨ disabled)) ∧
    (status = .inUse ↔ fits ∧ ¬ wrong ∧ ¬ clash ∧ ¬ disabled ∧ used) ∧
    (status = .done ↔ fits ∧ ¬ wrong ∧ ¬ clash ∧ ¬ disabled ∧ ¬ used) ∧
    ∀ r : Request, s.headIs r 2 → r.selectsTerminal t → fieldSet termWidth r.body = some es →
      ∃ u body, exec .writeTerminal s = .next u ∧ Answered s u r status body ∧
        (status ≠ .done → OnlyAnswered s u) ∧
        (status = .done → old.configured = true → new.configured = true →
          (u.sector.term t).ladder =
            (if judged ∧ (x.link.state = .called ∨ x.link.state = .trimming) ∧ outside x.ladder.current
              then { x.ladder with current := new.reentry } else x.ladder))

/-- Each of the nineteen configuration fields of a terminal and the twenty-four settings of a carrier takes the value its bytes give,
no other field changing, and a value out of the field's range gives no configuration (Tables 2.1 and 4.1, Section 12.4, R20,
R68). The home slot list is stored in ascending order. -/
def Obligations.ConfigurationFieldCodes : Prop :=
  (∀ (k : TermConfig) (b hi lo : Byte) (v : List Byte),
    let n := 256 * hi.toNat + lo.toNat
    (∀ x : Bool, k.setField { code := 1, value := [if x then 1 else 0] } = some { k with configured := x } ∧
      k.setField { code := 9, value := [if x then 1 else 0] } = some { k with autoAdmit := x } ∧
      k.setField { code := 12, value := [if x then 1 else 0] } =
        some { k with dropPolicy := if x then .dropOldest else .dropNew } ∧
      k.setField { code := 13, value := [if x then 1 else 0] } =
        some { k with backPressure := if x then .yielding else .wait }) ∧
    (2 ≤ b.toNat → ∀ c ∈ [1, 9, 12, 13], k.setField { code := c, value := [b] } = none) ∧
    (∀ h : b.toNat < 4, k.setField { code := 2, value := [b] } = some { k with carrier := ⟨b.toNat, h⟩ } ∧
      k.setField { code := 3, value := [b] } = some { k with cls := ⟨b.toNat, h⟩ }) ∧
    (4 ≤ b.toNat → k.setField { code := 2, value := [b] } = none ∧ k.setField { code := 3, value := [b] } = none) ∧
    k.setField { code := 4, value := [] } = some { k with homeTag := none } ∧
    (1 ≤ n → n ≤ 4094 → k.setField { code := 4, value := [hi, lo] } = some { k with homeTag := some n }) ∧
    (n = 0 ∨ 4095 ≤ n → k.setField { code := 4, value := [hi, lo] } = none) ∧
    (v.length ≤ 4 → v.Nodup → (∀ x ∈ v, x.toNat < 32) →
      ∃ l : List SlotNo, k.setField { code := 5, value := v } = some { k with homeSlots := l } ∧ l.Pairwise (· < ·) ∧
        ∀ z : SlotNo, z ∈ l ↔ BitVec.ofNat 8 z.val ∈ v) ∧
    (4 < v.length ∨ ¬ v.Nodup ∨ (∃ x ∈ v, 32 ≤ x.toNat) → k.setField { code := 5, value := v } = none) ∧
    (∀ h : b.toNat < 8, k.setField { code := 6, value := [b] } = some { k with floor := ⟨b.toNat, h⟩ } ∧
      k.setField { code := 7, value := [b] } = some { k with ceiling := ⟨b.toNat, h⟩ } ∧
      k.setField { code := 8, value := [b] } = some { k with reentry := ⟨b.toNat, h⟩ }) ∧
    (8 ≤ b.toNat → ∀ c ∈ [6, 7, 8], k.setField { code := c, value := [b] } = none) ∧
    k.setField { code := 10, value := [hi, lo] } = (if n ≤ 1024 then some { k with holdQuota := n } else none) ∧
    k.setField { code := 11, value := [hi, lo] } = (if 1 ≤ n then some { k with holdAge := n } else none) ∧
    (∀ p ∈ [((0 : Byte), ReleaseBurst.continuous), (1, .one), (2, .two), (4, .four), (8, .eight)],
      k.setField { code := 14, value := [p.1] } = some { k with releaseBurst := p.2 }) ∧
    (b ∉ [(0 : Byte), 1, 2, 4, 8] → k.setField { code := 14, value := [b] } = none) ∧
    k.setField { code := 15, value := [hi, lo] } =
      (if 1 ≤ n ∧ n ≤ 1023 then some { k with fadeTimeout := n } else none) ∧
    k.setField { code := 16, value := [b] } =
      (if 1 ≤ b.toNat ∧ b.toNat ≤ 15 then some { k with fadeMissLimit := b.toNat } else none) ∧
    k.setField { code := 17, value := [hi, lo] } = some { k with lendDelay := n } ∧
    k.setField { code := 18, value := [hi, lo] } = some { k with warmLimit := n } ∧
    k.setField { code := 19, value := [hi, lo] } = (if 1 ≤ n then some { k with guardPeriod := n } else none)) ∧
  ∀ (k : CarrierConfig) (b hi lo : Byte) (b₃ b₂ b₁ b₀ : Byte),
    let n := 256 * hi.toNat + lo.toNat
    (∀ x : Bool, k.setField { code := 1, value := [if x then 1 else 0] } = some { k with enabled := x }) ∧
    k.setField { code := 2, value := [b] } = (if 2 ≤ b.toNat ∧ b.toNat ≤ 15 then some { k with grantLead := b.toNat } else none) ∧
    k.setField { code := 3, value := [b] } = (if 2 ≤ b.toNat ∧ b.toNat ≤ 15 then some { k with applyLead := b.toNat } else none) ∧
    k.setField { code := 4, value := [b] } = (if b.toNat ≤ 15 then some { k with settle := b.toNat } else none) ∧
    k.setField { code := 5, value := [b] } = (if 1 ≤ b.toNat ∧ b.toNat ≤ 15 then some { k with trimLimit := b.toNat } else none) ∧
    k.setField { code := 6, value := [hi, lo] } = (if 16 ≤ n ∧ n ≤ 4095 then some { k with searchWindow := n } else none) ∧
    k.setField { code := 7, value := [b] } = some { k with fineWindow := b.toNat } ∧
    k.setField { code := 8, value := [b] } = (if b.toNat ≤ 20 then some { k with powerWindow := b.toNat } else none) ∧
    k.setField { code := 9, value := [b] } = (if b.toNat ≤ 100 then some { k with targetSnr := b.toNat } else none) ∧
    k.setField { code := 10, value := [b] } = (if 1 ≤ b.toNat ∧ b.toNat ≤ 4 then some { k with paceLimit := b.toNat } else none) ∧
    k.setField { code := 11, value := [b] } = (if 1 ≤ b.toNat ∧ b.toNat ≤ 4 then some { k with recoveryPace := b.toNat } else none) ∧
    k.setField { code := 12, value := [b] } = (if 1 ≤ b.toNat ∧ b.toNat ≤ 8 then some { k with rangingSize := b.toNat } else none) ∧
    k.setField { code := 13, value := [b] } = (if b.toNat ≤ 8 then some { k with offerLimit := b.toNat } else none) ∧
    k.setField { code := 14, value := [b] } = (if b.toNat ≤ 8 then some { k with recoveryOffer := b.toNat } else none) ∧
    k.setField { code := 15, value := [hi, lo] } = (if 1 ≤ n then some { k with recoveryPeriod := n } else none) ∧
    k.setField { code := 16, value := [b] } = (if 8 ≤ b.toNat ∧ b.toNat ≤ 64 then some { k with backoffWindow := b.toNat } else none) ∧
    k.setField { code := 17, value := [b] } = (if 1 ≤ b.toNat ∧ b.toNat ≤ 64 then some { k with backoffHigh := b.toNat } else none) ∧
    k.setField { code := 18, value := [b] } = (if b.toNat ≤ 63 then some { k with backoffLow := b.toNat } else none) ∧
    k.setField { code := 19, value := [hi, lo] } = (if 1 ≤ n then some { k with admitWaitLimit := n } else none) ∧
    k.setField { code := 20, value := [b] } = (if 1 ≤ b.toNat then some { k with yieldPeriod := b.toNat } else none) ∧
    k.setField { code := 21, value := [b] } = (if 1 ≤ b.toNat ∧ b.toNat ≤ 64 then some { k with releaseBudget := b.toNat } else none) ∧
    (∀ x : Bool, k.setField { code := 22, value := [if x then 1 else 0] } = some { k with guardRestart := x }) ∧
    (∀ x : Bool, k.setField { code := 23, value := [if x then 1 else 0] } = some { k with fadeStepDown := x }) ∧
    (2 ≤ b.toNat → ∀ c ∈ [1, 22, 23], k.setField { code := c, value := [b] } = none) ∧
    k.setField { code := 24, value := [b₃, b₂, b₁, b₀] } = some { k with base := b₃ ++ b₂ ++ b₁ ++ b₀ } ∧
    ∀ z : SlotNo, k.baseKind z = if k.base.getLsbD z.val then .reentry else .opened

/-- What an accepted WRITE-TERMINAL makes at once. One that configures a record (R24): it is HELD with last cause NONE, every
dynamic field holds its power-on value, its home slots become TRAFFIC for it, and no event set gains an entry. One that
unconfigures a HELD record (R25): every dynamic field returns to its power-on value and its home slots to their configured base
kind. The record's counters stay in both. One that keeps configured (R79, R26): a slot that leaves the home slots of a
configured terminal takes its base kind, and one that joins them TRAFFIC for it; a CALLED terminal's entry takes the new class
and stands among the entries of that class by its unchanged acceptance order; auto-admit turned to yes in ADMITTING, with no
ADMIT owed or sent, owes the ADMIT when no home slot is LENT and no reclaim is pending, the permit flag left (R59). -/
def Obligations.AcceptedWriteEffects : Prop :=
  ∀ (r : Request) (t : TermNo) (es : List FieldEntry) (s : State), s.headIs r 2 → r.selectsTerminal t →
    fieldSet termWidth r.body = some es → (s.sector.writeCheck t es).1 = .done →
    let old := (s.sector.term t).cfg
    let new := old.withFields es
    let fresh : Terminal :=
      { cfg := new
        link := { state := .held, cause := .none, forced := false, permit := false, outage := 0, outageOn := false
                  lendActive := new.lendDelay, warmActive := new.warmLimit, lendTaken := false, warmClosed := false
                  fadeOn := false, fadeCount := 0, fadeActive := new.fadeTimeout, fadeMisses := 0, guardOn := false
                  guardCount := 0, guardActive := new.guardPeriod, repeatCalls := 0, keptLock := false }
        range := {}, adm := {}, ladder := {}, hold := {}, owed := {}, ctr := (s.sector.term t).ctr }
    (old.configured = false → new.configured = true →
      ∃ u, exec .writeTerminal s = .next u ∧ Answered s u r .done [] ∧ OnlyLinkAnswered s u ∧
        u.sector.term t = fresh ∧
        (∀ x ∈ new.homeSlots, (u.sector.car new.carrier).slotUse x = .traffic t) ∧
        (∀ c x, c ≠ new.carrier ∨ x ∉ new.homeSlots → (u.sector.car c).slotUse x = (s.sector.car c).slotUse x) ∧
        u.sector.events = s.sector.events ∧ u.sector.mlOut = s.sector.mlOut) ∧
    (old.configured = true → new.configured = false →
      ∃ u, exec .writeTerminal s = .next u ∧ Answered s u r .done [] ∧ OnlyLinkAnswered s u ∧
        (s.sector.term t).link.state = .held ∧ u.sector.term t = fresh ∧
        (∀ x ∈ old.homeSlots, (u.sector.car old.carrier).slotUse x = (s.sector.car old.carrier).cfg.baseKind x) ∧
        (∀ c x, c ≠ old.carrier ∨ x ∉ old.homeSlots → (u.sector.car c).slotUse x = (s.sector.car c).slotUse x) ∧
        u.sector.freeDescriptors = s.sector.freeDescriptors + (s.sector.term t).hold.queue.length ∧
        u.sector.events = s.sector.events ∧ u.sector.mlOut = s.sector.mlOut) ∧
    (old.configured = new.configured →
      ∃ u, exec .writeTerminal s = .next u ∧ Answered s u r .done [] ∧ OnlyLinkAnswered s u ∧
        (let x := s.sector.term t
         let y := u.sector.term t
         let before (c : CarrierNo) (z : SlotNo) : Prop := old.configured = true ∧ old.carrier = c ∧ z ∈ old.homeSlots
         let after (c : CarrierNo) (z : SlotNo) : Prop := new.configured = true ∧ new.carrier = c ∧ z ∈ new.homeSlots
         (∀ c z, (u.sector.car c).slotUse z =
           if after c z ∧ ¬ before c z then .traffic t
           else if before c z ∧ ¬ after c z then (s.sector.car c).cfg.baseKind z else (s.sector.car c).slotUse z) ∧
         (∀ c, (u.sector.car c).res.ranging = (s.sector.car c).res.ranging ∧
           (u.sector.car c).res.nextOrder = (s.sector.car c).res.nextOrder) ∧
         (s.sector.allScheduled → ∀ c, x.link.state ≠ .called ∨ new.cls = old.cls ∨ c ≠ old.carrier →
           (u.sector.car c).res = (s.sector.car c).res) ∧
         (s.sector.allScheduled → x.link.state = .called →
           let p := (s.sector.car old.carrier).res.queue
           let q := (u.sector.car old.carrier).res.queue
           q.Pairwise (fun a b => a.cls < b.cls ∨ (a.cls = b.cls ∧ a.stamp < b.stamp)) ∧
           (∀ e, e.terminal ≠ t → (e ∈ q ↔ e ∈ p)) ∧
           ∀ e, e.terminal = t → (e ∈ q ↔ e.cls = new.cls ∧ { e with cls := old.cls } ∈ p)) ∧
         (if old.autoAdmit = false ∧ new.autoAdmit = true ∧ x.link.state = .admitting ∧ x.owed.admission = false ∧
             x.adm.sent = none ∧ x.adm.reclaimPending = false ∧
             (∀ z ∈ new.homeSlots, ∀ m, (u.sector.car new.carrier).slotUse z ≠ .lent t m)
           then y.owed = { x.owed with admission := true } else y.owed = x.owed) ∧
         y.link.permit = x.link.permit ∧ y.adm = x.adm ∧ u.sector.events = s.sector.events))

/-! ### WRITE-CARRIER (R68, R70) -/

/-- A WRITE-CARRIER that passes every check is answered DONE and its carrier takes every setting; one that fails changes nothing
and names one field, field 0 when the set does not have its form (log 13, the model's inference).
No other carrier changes, and no terminal's configuration, link fields or held frames (R68). Enabling takes a DISABLED
carrier to DOWN; disabling takes it to DISABLED with an empty calendar, recovery count 0, an empty backoff window and
exponent 0; either adds the carrier to CARRIER, and a write that keeps enabled changes neither (R70). -/
def Obligations.WriteCarrierTakesSettings : Prop :=
  (∀ (r : Request) (c : CarrierNo) (s : State), s.headIs r 8 → r.selectsCarrier c →
     (fieldSet carrierWidth r.body = none →
       ∃ u, exec .writeCarrier s = .next u ∧ Answered s u r .badValue [0] ∧ OnlyAnswered s u) ∧
     (∀ es, fieldSet carrierWidth r.body = some es → (s.sector.carrierCheck c es).1 ≠ .done →
       ∃ u field, exec .writeCarrier s = .next u ∧ Answered s u r (s.sector.carrierCheck c es).1 [field] ∧ OnlyAnswered s u) ∧
     (∀ es, fieldSet carrierWidth r.body = some es → (s.sector.carrierCheck c es).1 = .done →
       ∃ u, exec .writeCarrier s = .next u ∧ Answered s u r .done [] ∧ OnlyLinkAnswered s u ∧
         (u.sector.car c).cfg = (s.sector.car c).cfg.withFields es ∧ OnlyCarrier s.sector u.sector c ∧
         (∀ t, (u.sector.term t).cfg = (s.sector.term t).cfg ∧ (u.sector.term t).link = (s.sector.term t).link ∧
           (u.sector.term t).hold = (s.sector.term t).hold) ∧
         u.sector.profiles = s.sector.profiles ∧ u.sector.mlOut = s.sector.mlOut)) ∧
  ∀ (r : Request) (c : CarrierNo) (es : List FieldEntry) (s : State), s.headIs r 8 → r.selectsCarrier c →
    fieldSet carrierWidth r.body = some es → (s.sector.carrierCheck c es).1 = .done →
    let k := s.sector.car c
    let new := k.cfg.withFields es
    ∃ u, exec .writeCarrier s = .next u ∧
      (let j := u.sector.car c
       (k.cfg.enabled = new.enabled → j.state = k.state ∧ j.calendar = k.calendar ∧ u.sector.events = s.sector.events) ∧
       (k.cfg.enabled = false → new.enabled = true → k.state = .disabled →
         j.state = .down ∧ j.recovery = 0 ∧ j.calendar = k.calendar ∧
         u.sector.events = { s.sector.events with carrier := insertNo c s.sector.events.carrier }) ∧
       (k.cfg.enabled = true → new.enabled = false → k.state ≠ .disabled →
         j.state = .disabled ∧ j.recovery = 0 ∧
         j.calendar = k.calendar.map (fun x => { x with filled := false, cells := [] }) ∧
         j.res.window = [] ∧ j.res.exponent = 0 ∧
         u.sector.events = { s.sector.events with carrier := insertNo c s.sector.events.carrier }) ∧
       ∀ x, j.slotUse x =
         match k.slotUse x with
         | .opened => new.baseKind x
         | .reentry => new.baseKind x
         | .traffic t => .traffic t
         | .lent t m => .lent t m)

/-- The checks of Table 4.3 on one carrier, exactly and in their order (R68). BAD-VALUE: a code that is no setting or is named twice,
a value out of its range, or the resulting low mark not below the high mark. WRONG-STATE: a base slot kind would change on a
carrier that is not DISABLED, or enabled would go to no with a configured terminal of the carrier not HELD. CONFLICT: a slot
whose resulting base kind is REENTRY is a home slot of a configured terminal of the carrier. The request answers the status so
found; a refusal by the state check names the lower of enabled and the base slot kinds that the set names, one by the last
check the base slot kinds. -/
def Obligations.WriteCarrierChecks : Prop :=
  ∀ (c : CarrierNo) (es : List FieldEntry) (s : State),
    let k := s.sector.car c
    let new := k.cfg.withFields es
    let mine (t : TermNo) : Prop := (s.sector.term t).cfg.configured = true ∧ (s.sector.term t).cfg.carrier = c
    let fits : Prop := (∀ e ∈ es, 1 ≤ e.code ∧ e.code ≤ 24 ∧ (k.cfg.setField e).isSome = true) ∧
      (es.map FieldEntry.code).Nodup ∧ new.backoffLow < new.backoffHigh
    let wrong : Prop := (new.base ≠ k.cfg.base ∧ k.state ≠ .disabled) ∨
      (k.cfg.enabled = true ∧ new.enabled = false ∧ ∃ t, mine t ∧ (s.sector.term t).link.state ≠ .held)
    let clash : Prop := ∃ t, mine t ∧ ∃ z ∈ (s.sector.term t).cfg.homeSlots, new.base.getLsbD z.val = true
    let status := (s.sector.carrierCheck c es).1
    (status = .badValue ↔ ¬ fits) ∧ (status = .wrongState ↔ fits ∧ wrong) ∧
    (status = .conflict ↔ fits ∧ ¬ wrong ∧ clash) ∧ (status = .done ↔ fits ∧ ¬ wrong ∧ ¬ clash) ∧
    (status = .wrongState → (s.sector.carrierCheck c es).2 =
      if ∃ e ∈ es, e.code = 1 then 1 else if ∃ e ∈ es, e.code = 24 then 24 else 0) ∧
    (status = .conflict → (s.sector.carrierCheck c es).2 = 24) ∧
    ∀ r : Request, s.headIs r 8 → r.selectsCarrier c → fieldSet carrierWidth r.body = some es →
      ∃ u, exec .writeCarrier s = .next u ∧
        (status = .done → Answered s u r .done []) ∧
        (status ≠ .done → OnlyAnswered s u ∧
          Answered s u r status [BitVec.ofNat 8 (s.sector.carrierCheck c es).2])

/-! ### Entering and leaving link states (R37 to R43) -/

/-- What entering DARK, CALLED, SERVING, FADING, GUARD and HELD makes of the record, but for home slots and held frames (R37,
R38, R40 to R43, R66). Entering ADMITTING, by the second measurement of an exchange or the first of a warm one within both
windows of the grantee's carrier (R39, R113, R137; whose, where the cell stands on another, is the model's choice, log 34): a
current profile the table no longer allows becomes the re-entry profile, the wait begins, home
slots LENT for the terminal take the reclaim mark, and the conditions of R59 are examined. Entering FADING, by a miss in
SERVING (R41, R135): on a carrier with fade step-down the highest enabled profile below the current one and not below the
floor becomes pending, unless a step-down is pending already. Entering TRIMMING is stated of the fill that takes a queue
head (GrantArbiterServesItsClaimants). -/
def Obligations.EntryEffectsOfLinkStates : Prop :=
  (∀ (r : Terminal) (old : LinkState) (lock : Bool),
    ((old = .serving ∨ old = .fading ∨ old = .held) → Terminal.toDark old r =
      { r with
        link := { r.link with state := .dark, outage := 0, outageOn := true, lendActive := r.cfg.lendDelay
                              warmActive := r.cfg.warmLimit, lendTaken := decide (r.cfg.lendDelay = 0)
                              warmClosed := decide (r.cfg.warmLimit = 0) }
        ladder := { r.ladder with pending := none, assembly := [], stepUp := 0 }
        hold := { r.hold with release := .idle, yieldCount := 0 }
        owed := { r.owed with profile := false, admission := false } }) ∧
    (¬ (old = .serving ∨ old = .fading ∨ old = .held) → Terminal.toDark old r =
      { r with
        link := { r.link with state := .dark }
        ladder := { r.ladder with pending := none, assembly := [], stepUp := 0 }
        hold := { r.hold with release := .idle, yieldCount := 0 }
        owed := { r.owed with profile := false, admission := false } }) ∧
    Terminal.toCalled lock r =
      { r with
        link := { r.link with state := .called, keptLock := lock, repeatCalls := 0 }
        ladder := { current := r.cfg.reentry, pending := none, assembly := [], report := none, upMargin := none, stepUp := 0 }
        owed := { r.owed with profile := false, halt := false, admission := false } } ∧
    Terminal.toServing r =
      { r with
        link := { r.link with state := .serving, outageOn := false, fadeMisses := 0 }
        ladder := { r.ladder with upMargin := none, stepUp := 0 }
        hold := if r.hold.queue = [] then { r.hold with release := .idle, yieldCount := 0 }
          else { r.hold with release := .releasing, yieldCount := 0 }
        owed := { r.owed with halt := false } } ∧
    Terminal.toFading r =
      { r with
        link := { r.link with state := .fading, fadeMisses := 1, fadeOn := true, fadeCount := 0
                              fadeActive := r.cfg.fadeTimeout }
        ladder := { r.ladder with stepUp := 0 }
        hold := if r.hold.release = .releasing ∨ r.hold.release = .paused ∨ r.hold.release = .yielding then
          { r.hold with release := .suspended, yieldCount := 0 } else r.hold
        ctr := { r.ctr with fades := r.ctr.fades + 1 } } ∧
    Terminal.toGuard r =
      { r with
        link := { r.link with state := .guard, permit := false, guardOn := true, guardCount := 0
                              guardActive := r.cfg.guardPeriod }
        ladder := { r.ladder with pending := none, assembly := [], stepUp := 0 }
        hold := { r.hold with release := .idle, yieldCount := 0 }
        owed := { r.owed with profile := false, admission := false } } ∧
    Terminal.toHeld r =
      { r with
        link := { r.link with state := .held, outageOn := false, permit := false, fadeMisses := 0 }
        range := { r.range with stored := none }
        ladder := { r.ladder with pending := none, assembly := [], stepUp := 0 }
        owed := { r.owed with profile := false, admission := false } }) ∧
  (∀ (c : CarrierNo) (u : FrameNo) (slot : SlotNo) (t : TermNo) (n : Nat) (b : Burst) (f : Fragment) (s : State),
     let k := s.sector.car c
     let x := s.sector.term t
     let own := x.cfg.carrier
     let h := s.sector.car own
     (SlotResult.burst b).inRange = true → b.kind = .trim f → b.claimed = t → u = k.lastFrame →
     k.cell u slot = .granted t n → x.link.state = .trimming → x.link.forced = false →
     x.range.grant = some { frame := u, slot := slot } → x.owed.grant = none → b.offset.natAbs ≤ h.cfg.searchWindow →
     b.offset.natAbs ≤ h.cfg.fineWindow → ((b.snr : Int) - (h.cfg.targetSnr : Int)).natAbs ≤ h.cfg.powerWindow →
     (x.range.warm = true ∨ 1 ≤ x.range.measured) →
     let now := x.ladder.current
     let usable := (s.sector.profile now).enabled = true ∧ x.cfg.floor ≤ now ∧ now ≤ x.cfg.ceiling
     let lent (z : SlotNo) : Prop := z ∈ x.cfg.homeSlots ∧ (h.slotUse z = .lent t true ∨ h.slotUse z = .lent t false)
     let owes := x.owed.admission = false ∧ (∀ z, ¬ lent z) ∧ (x.link.permit = true ∨ x.cfg.autoAdmit = true)
     ∃ v, exec (.slotOutcome c u slot (.burst b)) s = .next v ∧ OnlyLinkSide s v ∧
       (let y := v.sector.term t
        y.adm.wait = 0 ∧ y.adm.sent = none ∧ (y.adm.reclaimPending = true ↔ ∃ z, lent z) ∧
        y.ladder.current = (if usable then now else x.cfg.reentry) ∧ y.ladder.stepUp = 0 ∧
        (owes → y.owed.admission = true ∧
          y.link = { x.link with state := .admitting, permit := x.link.permit && x.cfg.autoAdmit }) ∧
        (¬ owes → y.owed.admission = x.owed.admission ∧ y.link = { x.link with state := .admitting }) ∧
        v.sector.events.stateChange = insertNo t s.sector.events.stateChange) ∧
       ∀ z, (lent z → (v.sector.car own).slotUse z = .lent t true) ∧
         (¬ lent z → (v.sector.car own).slotUse z = h.slotUse z)) ∧
  ∀ (c : CarrierNo) (u : FrameNo) (slot : SlotNo) (o : SlotResult) (t : TermNo) (s : State),
    let k := s.sector.car c
    let x := s.sector.term t
    o.inRange = true → (u ≠ k.lastFrame ∨ k.cell u slot = .empty) → k.slotUse slot = .traffic t →
    x.link.state = .serving → x.link.forced = false → goodFor t o = none →
    let lower (p : ProfileNo) : Prop := (s.sector.profile p).enabled = true ∧ x.cfg.floor ≤ p ∧ p < x.ladder.current
    let down := ∃ d, x.ladder.pending = some d ∧ d.direction = .stepDown
    let steps := (s.sector.car x.cfg.carrier).cfg.fadeStepDown = true
    ∃ v, exec (.slotOutcome c u slot o) s = .next v ∧ OnlyLinkSide s v ∧
      (let y := v.sector.term t
       y.link.state = .fading ∧ y.ladder.stepUp = 0 ∧ y.ladder.current = x.ladder.current ∧
       (¬ steps ∨ down ∨ (∀ p, ¬ lower p) →
         y.ladder.pending = x.ladder.pending ∧ y.owed.profile = x.owed.profile ∧
         v.sector.pld.fadeStepDowns = s.sector.pld.fadeStepDowns ∧
         v.sector.pld.pendingReplaced = s.sector.pld.pendingReplaced) ∧
       ∀ p, steps → ¬ down → lower p → (∀ q, lower q → q ≤ p) →
         y.ladder.pending = some { target := p, direction := .stepDown, apply := none } ∧ y.owed.profile = true ∧
         v.sector.pld.fadeStepDowns = s.sector.pld.fadeStepDowns + 1 ∧
         v.sector.pld.pendingReplaced =
           if x.ladder.pending.isSome then s.sector.pld.pendingReplaced + 1 else s.sector.pld.pendingReplaced)

/-! ### Requests on the link state and the held queue (R46 to R51, R154, R171) -/

/-- RELEASE, HOLD, PERMIT and FLUSH-HELD with an empty body, and FORCE-STATE naming a state, under a TERMINAL selector: an
unconfigured record, and a HELD record for PERMIT, answers WRONG-STATE and nothing changes; the response gives the link state
and forced mark as they stand, and for FLUSH-HELD no frames discarded (Table 12.7). A FORCE-STATE whose body is not one byte,
or names no state, answers BAD-VALUE under every selector, for a group as a whole (R46, R51, R154, R170, R171). -/
def Obligations.LinkRequestsRefused : Prop :=
  (∀ (r : Request) (s : State), (∃ t, r.selectsTerminal t) ∨ (∃ c, r.selectsCarrier c) ∨ r.selectsSector →
    (r.body.length ≠ 1 ∨ ∃ b ∈ r.body, 8 ≤ b.toNat) → s.headIs r 12 →
      ∃ u, exec .forceState s = .next u ∧ Answered s u r .badValue [] ∧ OnlyAnswered s u) ∧
  ∀ (r : Request) (t : TermNo) (s : State), r.selectsTerminal t →
    let x := s.sector.term t
    let states := [LinkState.held, .dark, .called, .trimming, .admitting, .serving, .fading, .guard]
    let stands : List Byte := [BitVec.ofNat 8 (states.idxOf x.link.state), if x.link.forced then 1 else 0]
    (x.cfg.configured = false →
      (r.body = [] →
        (s.headIs r 10 → ∃ u, exec .release s = .next u ∧ Answered s u r .wrongState stands ∧ OnlyAnswered s u) ∧
        (s.headIs r 11 → ∃ u, exec .hold s = .next u ∧ Answered s u r .wrongState stands ∧ OnlyAnswered s u) ∧
        (s.headIs r 13 → ∃ u, exec .permit s = .next u ∧ Answered s u r .wrongState stands ∧ OnlyAnswered s u) ∧
        (s.headIs r 14 → ∃ u, exec .flushHeld s = .next u ∧ Answered s u r .wrongState [0, 0] ∧ OnlyAnswered s u)) ∧
      (∀ b : Byte, b.toNat < 8 → r.body = [b] → s.headIs r 12 →
        ∃ u, exec .forceState s = .next u ∧ Answered s u r .wrongState stands ∧ OnlyAnswered s u)) ∧
    (x.link.state = .held → r.body = [] → s.headIs r 13 →
      ∃ u, exec .permit s = .next u ∧ Answered s u r .wrongState stands ∧ OnlyAnswered s u)

/-- RELEASE at one configured terminal (R47): the forced mark is cleared; a HELD terminal enters DARK with a fresh outage, a
GUARD terminal whose guard timer has stopped, which only a suppressed expiry leaves so (log 17), enters DARK with its outage
going on, and every other terminal keeps its link state. -/
def Obligations.ReleaseClearsForcedMark : Prop :=
  ∀ (r : Request) (t : TermNo) (s : State), s.headIs r 10 → r.selectsTerminal t → r.body = [] →
    (s.sector.term t).cfg.configured = true →
    let x := s.sector.term t
    let home := x.cfg.homeSlots
    let cleared : Terminal := { x with link := { x.link with forced := false } }
    ∃ u, exec .release s = .next u ∧
      Answered s u r .done [BitVec.ofNat 8 (u.sector.term t).link.state.code, 0] ∧ OnlyLinkAnswered s u ∧
      OnlyRecord s.sector u.sector t ∧ OnlySlots s.sector u.sector x.cfg.carrier ∧ OnlyRecords s.sector u.sector ∧
      (x.link.state = .held → u.sector.term t = Terminal.toDark .held cleared) ∧
      (x.link.state = .guard → x.link.guardOn = false → u.sector.term t = Terminal.toDark .guard cleared) ∧
      (x.link.state = .held ∨ (x.link.state = .guard ∧ x.link.guardOn = false) →
        u.sector.events = { s.sector.events with stateChange := insertNo t s.sector.events.stateChange } ∧
        ∀ slot, (u.sector.car x.cfg.carrier).slotUse slot =
          if (u.sector.term t).link.lendTaken = true ∧ slot ∈ home ∧ (s.sector.car x.cfg.carrier).slotUse slot = .traffic t
          then .lent t false else (s.sector.car x.cfg.carrier).slotUse slot) ∧
      (¬ (x.link.state = .held ∨ (x.link.state = .guard ∧ x.link.guardOn = false)) →
        u.sector.term t = cleared ∧ u.sector.cars = s.sector.cars ∧ u.sector.events = s.sector.events)

/-- HOLD at one configured terminal (R48, R43): from every state but HELD the terminal becomes HELD with its held queue
discarded under cause STATE, its home slots TRAFFIC for it with no cell on them and every grant so removed refunded (R82, R100), a
HALT owed exactly when it was in service or owed one, and its last cause and forced mark as they were, with the effects of
leaving its state (R36, R98); in HELD nothing changes. Every case is answered DONE. A refunded grant that was sent takes the
settle setting of the removed cell's carrier, the model's choice where its grantee has left that carrier (log 36). -/
def Obligations.HoldTakesTerminalToHeld : Prop :=
  ∀ (r : Request) (t : TermNo) (s : State), s.headIs r 11 → r.selectsTerminal t → r.body = [] →
    (s.sector.term t).cfg.configured = true →
    let x := s.sector.term t
    let c := x.cfg.carrier
    let n : Counter := BitVec.ofNat 32 x.hold.queue.length
    ∃ u, exec .hold s = .next u ∧
      Answered s u r .done [0, if x.link.forced then 1 else 0] ∧ OnlyLinkAnswered s u ∧
      (x.link.state = .held → u.sector = s.sector) ∧
      (x.link.state ≠ .held →
        let y := u.sector.term t
        y.cfg = x.cfg ∧ y.link.state = .held ∧ y.link.cause = x.link.cause ∧ y.link.forced = x.link.forced ∧
        y.link.outageOn = false ∧ y.link.outage = x.link.outage ∧ y.link.permit = false ∧ y.link.fadeMisses = 0 ∧
        y.range.stored = none ∧ y.ladder.pending = none ∧ y.ladder.assembly = [] ∧
        y.hold = { release := .idle, yieldCount := 0, queue := [] } ∧
        y.owed.halt = (x.owed.halt || decide (x.link.state = .serving) || decide (x.link.state = .fading)) ∧
        y.owed.admission = false ∧ y.owed.profile = false ∧
        y.ctr = { x.ctr with discardState := x.ctr.discardState + n, heldState := x.ctr.heldState + n } ∧
        u.sector.hfs = { s.sector.hfs with heldState := s.sector.hfs.heldState + n } ∧
        u.sector.freeDescriptors = s.sector.freeDescriptors + x.hold.queue.length ∧
        (∀ slot ∈ x.cfg.homeSlots, (u.sector.car c).slotUse slot = .traffic t ∧
          ∀ row ∈ (u.sector.car c).calendar, row.cell slot = .empty) ∧
        LeftByRequest s.sector u.sector t ∧
        t ∈ u.sector.events.stateChange ∧ OnlyCarrier s.sector u.sector c ∧
        ∀ v, v ≠ t → (u.sector.term v).cfg = (s.sector.term v).cfg ∧ (u.sector.term v).link = (s.sector.term v).link ∧
          (u.sector.term v).adm = (s.sector.term v).adm ∧ (u.sector.term v).ladder = (s.sector.term v).ladder ∧
          (u.sector.term v).hold = (s.sector.term v).hold ∧ (u.sector.term v).ctr = (s.sector.term v).ctr ∧
          RefundedOn s.sector u.sector c x.cfg.homeSlots v)

/-- FORCE-STATE at one configured terminal (R49): the link state becomes the target, CALLED, TRIMMING, ADMITTING and FADING
standing for DARK; the last cause is FORCED and the mark set; a HALT is owed when the terminal was taken out of service;
STATE-CHANGE gains the terminal exactly when the state changed. To SERVING and HELD the home slots are taken: TRAFFIC for it, no
cell left on them, every grant so removed refunded (R82, R100). To SERVING an ADMIT is owed, a current profile that is not
enabled or lies outside its bounds becomes the re-entry profile, and a pending one that is so goes with its owed PROFILE
(R50). To HELD the held queue is discarded with cause STATE, and to the others it is kept (R43, R155). The effects of leaving
the old state are those of R36 and R98. A refunded grant that was sent takes the settle setting of the removed cell's carrier,
the model's choice where its grantee has left that carrier (log 36). -/
def Obligations.ForceStateSetsTargetState : Prop :=
  ∀ (r : Request) (t : TermNo) (b : Byte) (s : State), s.headIs r 12 → r.selectsTerminal t → r.body = [b] → b.toNat < 8 →
    (s.sector.term t).cfg.configured = true →
    let x := s.sector.term t
    let inService (l : LinkState) : Bool := decide (l = .serving) || decide (l = .fading)
    let target : LinkState := if b = 0 then .held else if b = 5 then .serving else if b = 7 then .guard else .dark
    ∃ u, exec .forceState s = .next u ∧
      Answered s u r .done [BitVec.ofNat 8 target.code, 1] ∧ OnlyLinkAnswered s u ∧
      (let y := u.sector.term t
       y.cfg = x.cfg ∧ y.link.state = target ∧ y.link.cause = .forced ∧ y.link.forced = true ∧
       (x.link.state = target →
         y = { x with link := { x.link with forced := true, cause := .forced } } ∧ OnlyRecord s.sector u.sector t ∧
         u.sector.cars = s.sector.cars ∧ u.sector.events = s.sector.events) ∧
       (x.link.state ≠ target →
         LeftByRequest s.sector u.sector t ∧ t ∈ u.sector.events.stateChange ∧
         (target = .held →
           let n : Counter := BitVec.ofNat 32 x.hold.queue.length
           y.hold = { release := .idle, yieldCount := 0, queue := [] } ∧
           y.ctr = { x.ctr with discardState := x.ctr.discardState + n, heldState := x.ctr.heldState + n } ∧
           u.sector.hfs = { s.sector.hfs with heldState := s.sector.hfs.heldState + n } ∧
           u.sector.freeDescriptors = s.sector.freeDescriptors + x.hold.queue.length ∧
           u.sector.freeBlocks = s.sector.freeBlocks + (x.hold.queue.map fun h => (h.bytes.length + 255) / 256).sum) ∧
         (target ≠ .held → y.hold.queue = x.hold.queue ∧ u.sector.hfs = s.sector.hfs ∧
           u.sector.freeDescriptors = s.sector.freeDescriptors ∧ u.sector.freeBlocks = s.sector.freeBlocks) ∧
         (target ≠ .serving → y.owed.admission = false) ∧
         (inService x.link.state = true → inService target = false → y.owed.halt = true) ∧
         (target = .guard → y.link.guardOn = true ∧ y.link.guardCount = 0 ∧ y.link.guardActive = x.cfg.guardPeriod) ∧
         (target = .dark ∨ target = .guard → inService x.link.state = true ∨ x.link.state = .held →
           y.link.outage = 0 ∧ y.link.outageOn = true) ∧
         (target = .serving ∨ target = .held →
           (∀ slot ∈ x.cfg.homeSlots, (u.sector.car x.cfg.carrier).slotUse slot = .traffic t ∧
             ∀ row ∈ (u.sector.car x.cfg.carrier).calendar, row.cell slot = .empty) ∧
           ∀ v, v ≠ t → RefundedOn s.sector u.sector x.cfg.carrier x.cfg.homeSlots v) ∧
         (target = .serving → y.owed.admission = true ∧ y.owed.halt = false ∧ y.link.outageOn = false ∧
           let allowed (p : ProfileNo) : Prop :=
             (s.sector.profile p).enabled = true ∧ x.cfg.floor ≤ p ∧ p ≤ x.cfg.ceiling
           y.ladder.current = (if allowed x.ladder.current then x.ladder.current else x.cfg.reentry) ∧
           (x.ladder.pending = none → y.ladder.pending = none ∧ y.owed.profile = x.owed.profile) ∧
           ∀ p, x.ladder.pending = some p →
             (allowed p.target → y.ladder.pending = some p ∧ y.owed.profile = x.owed.profile) ∧
             (¬ allowed p.target → y.ladder.pending = none ∧ y.owed.profile = false)))) ∧
      OnlyCarrier s.sector u.sector x.cfg.carrier ∧
      ∀ v, v ≠ t → (u.sector.term v).cfg = (s.sector.term v).cfg ∧ (u.sector.term v).link = (s.sector.term v).link ∧
        (u.sector.term v).hold = (s.sector.term v).hold ∧ (u.sector.term v).ctr = (s.sector.term v).ctr

/-- PERMIT at one configured terminal in any state but HELD (R51): outside ADMITTING the flag is set and nothing else of the
link side changes; in ADMITTING with no ADMIT owed or sent, the conditions of R59 are examined, and when they are met an
ADMIT is owed and the permit is kept only under auto-admit. -/
def Obligations.PermitSetsFlagOrOwesAdmit : Prop :=
  ∀ (r : Request) (t : TermNo) (s : State), s.headIs r 13 → r.selectsTerminal t → r.body = [] →
    (s.sector.term t).cfg.configured = true → (s.sector.term t).link.state ≠ .held →
    let x := s.sector.term t
    let lent := ∃ slot ∈ x.cfg.homeSlots, ∃ m, (s.sector.car x.cfg.carrier).slotUse slot = .lent t m
    let ready := x.link.state = .admitting ∧ x.owed.admission = false ∧ x.adm.sent = none ∧ ¬ lent ∧ x.adm.reclaimPending = false
    ∃ u, exec .permit s = .next u ∧
      Answered s u r .done [BitVec.ofNat 8 x.link.state.code, if x.link.forced then 1 else 0] ∧ OnlyLinkAnswered s u ∧
      OnlyRecord s.sector u.sector t ∧ u.sector.cars = s.sector.cars ∧ u.sector.events = s.sector.events ∧
      OnlyRecords s.sector u.sector ∧
      (¬ ready → u.sector.term t = { x with link := { x.link with permit := true } }) ∧
      (ready → u.sector.term t =
        { x with link := { x.link with permit := x.cfg.autoAdmit }, owed := { x.owed with admission := true } })

/-- FLUSH-HELD at one configured terminal (R154): every held frame leaves with cause FLUSH, its descriptor and blocks return,
the release state is IDLE, every other field stays, and the response gives the number discarded. -/
def Obligations.FlushHeldEmptiesQueue : Prop :=
  ∀ (r : Request) (t : TermNo) (s : State), s.headIs r 14 → r.selectsTerminal t → r.body = [] →
    (s.sector.term t).cfg.configured = true →
    let x := s.sector.term t
    let n : Counter := BitVec.ofNat 32 x.hold.queue.length
    ∃ u, exec .flushHeld s = .next u ∧
      Answered s u r .done (be16 x.hold.queue.length) ∧ OnlyLinkAnswered s u ∧ OnlyRecord s.sector u.sector t ∧
      u.sector.term t = { x with hold := { release := .idle, yieldCount := 0, queue := [] }
                                 ctr := { x.ctr with discardFlush := x.ctr.discardFlush + n } } ∧
      u.sector.cars = s.sector.cars ∧ u.sector.events = s.sector.events ∧ u.sector.mlOut = s.sector.mlOut ∧
      u.sector.hfs = { s.sector.hfs with heldFlush := s.sector.hfs.heldFlush + n } ∧
      u.sector.freeDescriptors = s.sector.freeDescriptors + x.hold.queue.length ∧
      u.sector.freeBlocks = s.sector.freeBlocks + (x.hold.queue.map fun h => (h.bytes.length + 255) / 256).sum

/-- A RELEASE, HOLD, FORCE-STATE, PERMIT, FLUSH-HELD or WRITE-TERMINAL of a carrier or of the sector that is not refused as a
whole, taken without a pause (no share is listed, log 22), does to the group, in ascending number, what the request does to
each of its terminals under a TERMINAL selector, and answers by their statuses: DONE with the number of terminals when none
is refused, else PARTIAL, or the first terminal's status when all are, with each refused terminal and its status (R171). So a
HOLD takes each to HELD, a RELEASE clears each forced mark, a FORCE-STATE gives each its target, a FLUSH-HELD empties each
queue, a PERMIT sets the flag of each that is not HELD or owes it an ADMIT, and a WRITE-TERMINAL gives each that passes the
checks the fields of its body. -/
def Obligations.GroupRequestsApplyToEach : Prop :=
  ∀ (i : Instr) (code : Nat) (r : Request) (s : State) (group : List TermNo),
    (i, code) ∈ [(Instr.writeTerminal, 2), (.release, 10), (.hold, 11), (.forceState, 12), (.permit, 13), (.flushHeld, 14)] →
    s.headIs r code → s.shares = [] →
    ((∃ c, r.selectsCarrier c ∧ group = (List.finRange 256).filter fun t =>
        (s.sector.term t).cfg.configured && decide ((s.sector.term t).cfg.carrier = c)) ∨
      (r.selectsSector ∧ group = (List.finRange 256).filter fun t => (s.sector.term t).cfg.configured)) →
    ((code = 2 → ∃ es, fieldSet termWidth r.body = some es ∧ ∀ e ∈ es, 9 ≤ e.code ∧ e.code ≤ 19) ∧
      (code = 12 → ∃ b : Byte, r.body = [b] ∧ b.toNat < 8) ∧ (code ≠ 2 → code ≠ 12 → r.body = [])) →
    let single (x : Sector) (t : TermNo) : State :=
      { s with sector := x
               mgu := { s.mgu with taking := none, buffer := [{ r with kind := 1, value := BitVec.ofNat 16 t.val }] } }
    let made (x : Sector) (t : TermNo) : State :=
      match exec i (single x t) with
      | .next u => u
      | .fault _ => single x t
      | .refused _ => single x t
    let upTo (n : Nat) : Sector := (group.take n).foldl (fun x t => (made x t).sector) s.sector
    ∃ (u : State) (results : List (TermNo × Status)), exec i s = .next u ∧ OnlyLinkAnswered s u ∧ u.sector = upTo group.length ∧
      results.map Prod.fst = group ∧
      (∀ n t, group[n]? = some t →
        (results[n]?).map Prod.snd = ((made (upTo n) t).npMgmt.drop s.npMgmt.length).head?.map MgmtFrame.status) ∧
      (let refused := results.filter fun e => decide (e.2 ≠ .done)
       Answered s u r
         (match refused with
          | [] => .done
          | e :: _ => if refused.length < results.length then .partially else e.2)
         (if refused = [] then be16 results.length
          else be16 refused.length ++ (refused.map fun e => be8 e.1.val ++ be8 e.2.code).flatten)) ∧
      (∀ t, t ∉ group → (u.sector.term t).link = (s.sector.term t).link) ∧
      ∀ t ∈ group,
        let x := s.sector.term t
        let y := u.sector.term t
        (code = 10 → y.link.forced = false ∧ y.link.state ≠ .held) ∧
        (code = 11 → y.link.state = .held ∧ y.link.cause = x.link.cause ∧
          (x.link.state ≠ .held → y.hold.queue = [])) ∧
        (code = 12 → ∀ b : Byte, r.body = [b] →
          y.link.forced = true ∧ y.link.cause = .forced ∧
          y.link.state = if b = 0 then .held else if b = 5 then .serving else if b = 7 then .guard else .dark) ∧
        (code = 13 → x.link.state = .held → y = x ∧ (t, Status.wrongState) ∈ results) ∧
        (code = 13 → x.link.state ≠ .held →
          let lent := ∃ slot ∈ x.cfg.homeSlots, ∃ m, (s.sector.car x.cfg.carrier).slotUse slot = .lent t m
          let ready := x.link.state = .admitting ∧ x.owed.admission = false ∧ x.adm.sent = none ∧ ¬ lent ∧
            x.adm.reclaimPending = false
          (t, Status.done) ∈ results ∧
          (¬ ready → y = { x with link := { x.link with permit := true } }) ∧
          (ready → y = { x with link := { x.link with permit := x.cfg.autoAdmit },
                                 owed := { x.owed with admission := true } })) ∧
        (code = 14 → y = { x with hold := { release := .idle, yieldCount := 0, queue := [] },
                                   ctr := { x.ctr with discardFlush :=
                                     x.ctr.discardFlush + BitVec.ofNat 32 x.hold.queue.length } }) ∧
        (code = 2 → ∀ es, fieldSet termWidth r.body = some es →
          ((s.sector.writeCheck t es).1 = .done → y.cfg = x.cfg.withFields es) ∧
          ((s.sector.writeCheck t es).1 ≠ .done → y = x ∧ (t, (s.sector.writeCheck t es).1) ∈ results))

/-- Other blocks' events are taken among the applications of a group request (R171); where they fall is the outside's choice, which
the model lists as shares (log 22). The row begins the group, or goes on with what remains of it, by the next share: a share
smaller than what remains is applied and leaves the request being taken at the head of the buffer, with no response yet; with
a share at least as large, or none listed, all that remain are applied and the row hands the one response by all the results,
then the notices that waited (R169, R175). Each application does what the request does to its terminal under a TERMINAL
selector. In between, every command that is no request does to the blocks what it does when no request is being taken, and
leaves the request's progress as it was. -/
def Obligations.GroupRequestIsTakenInShares : Prop :=
  (∀ (i : Instr) (code : Nat) (r : Request) (s : State) (g : GroupTaking),
    (i, code) ∈ [(Instr.writeTerminal, 2), (.release, 10), (.hold, 11), (.forceState, 12), (.permit, 13), (.flushHeld, 14)] →
    ((code = 2 → ∃ es, fieldSet termWidth r.body = some es ∧ ∀ e ∈ es, 9 ≤ e.code ∧ e.code ≤ 19) ∧
      (code = 12 → ∃ b : Byte, r.body = [b] ∧ b.toNat < 8) ∧ (code ≠ 2 → code ≠ 12 → r.body = [])) →
    ((s.headIs r code ∧ g.results = [] ∧ g.notices = [] ∧
        ((∃ c, r.selectsCarrier c ∧ g.remaining = (List.finRange 256).filter fun t =>
            (s.sector.term t).cfg.configured && decide ((s.sector.term t).cfg.carrier = c)) ∨
          (r.selectsSector ∧ g.remaining = (List.finRange 256).filter fun t => (s.sector.term t).cfg.configured))) ∨
      (s.mgu.buffer.head? = some r ∧ r.code.toNat = code ∧ s.mgu.taking = some g ∧
        ((∃ c, r.selectsCarrier c) ∨ r.selectsSector))) →
    let single (x : Sector) (t : TermNo) : State :=
      { s with sector := x
               mgu := { s.mgu with taking := none, buffer := [{ r with kind := 1, value := BitVec.ofNat 16 t.val }] } }
    let made (x : Sector) (t : TermNo) : State :=
      match exec i (single x t) with
      | .next u => u
      | .fault _ => single x t
      | .refused _ => single x t
    let now : List TermNo := match s.shares with
      | [] => g.remaining
      | n :: _ => g.remaining.take n
    let upTo (n : Nat) : Sector := (now.take n).foldl (fun x t => (made x t).sector) s.sector
    ∃ (u : State) (results : List (TermNo × Status)) (waiting : List MgmtFrame), exec i s = .next u ∧
      u.sector = upTo now.length ∧ results.map Prod.fst = now ∧
      (∀ n t, now[n]? = some t →
        (results[n]?).map Prod.snd = ((made (upTo n) t).npMgmt.drop s.npMgmt.length).head?.map MgmtFrame.status) ∧
      u.shares = s.shares.tail ∧ u.pending = s.pending ∧ u.straps = s.straps ∧ u.tagMap = s.tagMap ∧ u.fcl = s.fcl ∧
      u.npTraffic = s.npTraffic ∧
      (now.length < g.remaining.length →
        u.mgu.taking = some { remaining := g.remaining.drop now.length, results := g.results ++ results
                              notices := g.notices ++ waiting } ∧
        u.npMgmt = s.npMgmt ∧ u.mgu.buffer = s.mgu.buffer ∧ u.mgu.ctr = s.mgu.ctr) ∧
      (now.length = g.remaining.length →
        let all := g.results ++ results
        let refused := all.filter fun e => decide (e.2 ≠ .done)
        u.mgu.taking = none ∧
        u.npMgmt = s.npMgmt ++
          [{ dest := r.source, source := s.mgu.station, code := r.code, kind := r.kind, number := r.number, value := r.value,
             status := match refused with
               | [] => .done
               | e :: _ => if refused.length < all.length then .partially else e.2,
             body := if refused = [] then be16 all.length
               else be16 refused.length ++ (refused.map fun e => be8 e.1.val ++ be8 e.2.code).flatten }] ++
          g.notices ++ waiting ∧
        u.mgu.buffer = s.mgu.buffer.drop 1 ∧ u.mgu.ctr.responses = s.mgu.ctr.responses + 1 ∧
        u.mgu.ctr.notices = s.mgu.ctr.notices + BitVec.ofNat 32 (g.notices.length + waiting.length))) ∧
  ∀ (i : Instr) (s u : State), requestCode i = none → (∀ x, i ≠ .powerOnReset x) → i ≠ .unknownRequest →
    exec i s = .next u →
    u.mgu.taking.map GroupTaking.progress = s.mgu.taking.map GroupTaking.progress ∧
    ∃ v, exec i { s with mgu := { s.mgu with taking := none } } = .next v ∧ v.sector = u.sector ∧ v.fcl = u.fcl ∧
      v.npTraffic = u.npTraffic ∧ v.mgu.buffer = u.mgu.buffer

/-! ### Resets (R178, R179) and malformed records (R180) -/

/-- SECTOR-RESET (R178): every configured terminal is HELD with its dynamic fields at their power-on values, its active copies
equal to its settings and its home slots TRAFFIC for it; every carrier is DOWN when enabled and DISABLED otherwise, with
empty calendar, queues and windows and its pointers at 255; the pools are free, the event sets empty, and configuration,
settings, the Profile Table, the Tag Map, frame numbers and the classification counters stay. -/
def Obligations.SectorResetRestoresDynamicState : Prop :=
  ∀ (r : Request) (s : State), s.headIs r 20 → r.selectsSector → r.body = [] →
    ∃ u, exec .sectorReset s = .next u ∧ Answered s u r .done [] ∧ OnlyLinkAnswered s u ∧
      u.mgu.outstanding = false ∧ u.npMgmt.length = s.npMgmt.length + 1 ∧
      (∀ t, (u.sector.term t).cfg = (s.sector.term t).cfg ∧
        (u.sector.term t).link = LinkFields.fresh (s.sector.term t).cfg ∧ (u.sector.term t).range = {} ∧
        (u.sector.term t).adm = {} ∧ (u.sector.term t).ladder = {} ∧ (u.sector.term t).hold = {} ∧
        (u.sector.term t).owed = {}) ∧
      (∀ c, let k := u.sector.car c
        k.cfg = (s.sector.car c).cfg ∧ k.lastFrame = (s.sector.car c).lastFrame ∧ k.csp = (s.sector.car c).csp ∧
        k.state = (if k.cfg.enabled then .down else .disabled) ∧ k.recovery = 0 ∧
        (∀ row ∈ k.calendar, row.filled = false ∧ row.cells = []) ∧ k.res.queue = [] ∧ k.res.ranging = [] ∧
        k.res.window = [] ∧ k.res.exponent = 0 ∧ k.res.rotation = 255 ∧ k.releasePtr = 255 ∧
        k.dcp = { halt := 255, admission := 255, stepDown := 255, grant := 255, stepUp := 255 } ∧
        ∀ x, (∃ t, s.sector.bound c t = true ∧ x ∈ (s.sector.term t).cfg.homeSlots ∧ k.slotUse x = .traffic t) ∨
          ((∀ t, s.sector.bound c t = true → x ∉ (s.sector.term t).cfg.homeSlots) ∧ k.slotUse x = k.cfg.baseKind x)) ∧
      u.sector.freeDescriptors = 4096 ∧ u.sector.freeBlocks = 8192 ∧ u.sector.profiles = s.sector.profiles ∧
      u.sector.storeLowMark = s.sector.storeLowMark ∧ u.sector.mlOut = s.sector.mlOut ∧
      u.sector.events = { stateChange := [], carrier := [], rangeFail := [], storm := [], listFull := [], storeLow := false
                          storeExhausted := false }

/-- CARRIER-RESTART (R74, R64, R179): refused in DISABLED; else the calendar is cleared, the recovery count is 0, the carrier is
DOWN, and each configured terminal of the carrier that is not HELD is DARK with its forced mark clear and last cause
RESTART, while HELD terminals keep their link fields and no other terminal or carrier changes. -/
def Obligations.CarrierRestartTakesTerminalsDark : Prop :=
  ∀ (r : Request) (c : CarrierNo) (s : State), s.headIs r 21 → r.selectsCarrier c → r.body = [] →
    ((s.sector.car c).state = .disabled →
      ∃ u, exec .carrierRestart s = .next u ∧ Answered s u r .wrongState [] ∧ OnlyAnswered s u) ∧
    ((s.sector.car c).state ≠ .disabled →
      ∃ u, exec .carrierRestart s = .next u ∧ Answered s u r .done [] ∧ OnlyLinkAnswered s u ∧
        (u.sector.car c).state = .down ∧ (u.sector.car c).recovery = 0 ∧ (u.sector.car c).cfg = (s.sector.car c).cfg ∧
        (∀ row ∈ (u.sector.car c).calendar, row.filled = false ∧ row.cells = []) ∧
        (u.sector.car c).res.window = (s.sector.car c).res.window ∧
        (u.sector.car c).res.exponent = (s.sector.car c).res.exponent ∧ OnlyCarrier s.sector u.sector c ∧
        ((s.sector.car c).state ≠ .down → c ∈ u.sector.events.carrier) ∧
        (∀ t, s.sector.bound c t = false → u.sector.term t = s.sector.term t) ∧
        ∀ t, s.sector.bound c t = true →
          (u.sector.term t).cfg = (s.sector.term t).cfg ∧ (u.sector.term t).hold.queue = (s.sector.term t).hold.queue ∧
          ((s.sector.term t).link.state = .held → (u.sector.term t).link = (s.sector.term t).link) ∧
          ((s.sector.term t).link.state ≠ .held →
            (u.sector.term t).link.state = .dark ∧ (u.sector.term t).link.forced = false ∧
            (u.sector.term t).link.cause = .restart) ∧
          ((s.sector.term t).link.state ≠ .held → (s.sector.term t).link.state ≠ .dark →
            t ∈ u.sector.events.stateChange))

/-- A malformed record is discarded and nothing changes; a record is refused by the parser exactly when it is malformed; bytes
after the last field of a valid record are not read (R180); and a slot outcome whose fields lie out of their ranges changes
nothing, its payload count and lengths among them, which the model infers (log 29). -/
def Obligations.MalformedRecordDiscarded : Prop :=
  (∀ bytes : List Byte, (MlRecord.parse bytes = none ↔ malformed bytes) ∧
    (¬ malformed bytes → ∀ extra, MlRecord.parse (bytes ++ extra) = MlRecord.parse bytes) ∧
    ∀ s : State, malformed bytes → exec (.discardedRecord bytes) s = .next s) ∧
  ∀ (c : CarrierNo) (u : FrameNo) (slot : SlotNo) (o : SlotResult) (s : State), o.inRange = false →
    exec (.slotOutcome c u slot o) s = .next s

/-! ### Frame starts (R77, R44, R57, R60, R62) -/

/-- A frame start, whatever order its blocks take it in, counts itself and its slip, makes `f` the current frame and the rows
those of `f` to `f` + 15, and keeps configuration, settings, the Profile Table and every other carrier's frame (R77). -/
def Obligations.FrameStartMovesWindow : Prop :=
  ∀ (c : CarrierNo) (f : FrameNo) (order : List Block) (s : State), ∃ u, exec (.frameStart c f order) s = .next u ∧
    OnlyLinkSide s u ∧
    (let k := s.sector.car c
     let j := u.sector.car c
     j.lastFrame = f ∧ j.csp.frameStarts = k.csp.frameStarts + 1 ∧
     j.csp.frameSlips = (if f = k.lastFrame + 1 then k.csp.frameSlips else k.csp.frameSlips + 1) ∧
     j.calendar.map Row.frame = (List.range 16).map (fun i => f + BitVec.ofNat 16 i)) ∧
    (∀ d, d ≠ c → (u.sector.car d).lastFrame = (s.sector.car d).lastFrame ∧
      (u.sector.car d).csp.frameStarts = (s.sector.car d).csp.frameStarts ∧
      (u.sector.car d).calendar.map Row.frame = (s.sector.car d).calendar.map Row.frame) ∧
    (∀ d, (u.sector.car d).cfg = (s.sector.car d).cfg) ∧ (∀ t, (u.sector.term t).cfg = (s.sector.term t).cfg) ∧
    u.sector.profiles = s.sector.profiles ∧ u.sector.storeLowMark = s.sector.storeLowMark ∧
    ∃ l, u.sector.mlOut = s.sector.mlOut ++ l

/-- What a frame start of its carrier counts for a terminal, whatever order the blocks take it in (R44, R57, R60, R62): a running
outage counter, saturating at 16777215, in DARK, CALLED, TRIMMING and GUARD; the guard timer in GUARD; the fade timer in
FADING; the admit wait in ADMITTING while no ADMIT is sent. A guard timer or fade timer that so reaches its active copy ends
in DARK when the forced mark is clear; the link fields of a HELD or SERVING terminal whose outage counter is stopped are
left. The re-entry queues and ranging sets are as R90 to R92 say, which every step keeps. -/
def Obligations.SupervisorCountsFrames : Prop :=
  ∀ (c : CarrierNo) (f : FrameNo) (order : List Block) (t : TermNo) (s : State), s.sector.allScheduled →
    s.sector.bound c t = true →
    let x := s.sector.term t
    ∃ u, exec (.frameStart c f order) s = .next u ∧
      (let y := u.sector.term t
       (x.link.state = .dark ∨ x.link.state = .called ∨ x.link.state = .trimming ∨ x.link.state = .guard →
         x.link.outageOn = true → y.link.outage = min 16777215 (x.link.outage + 1) ∧ y.link.outageOn = true) ∧
       (x.link.state = .dark → y.link.state = .dark) ∧
       (x.link.outageOn = false → x.link.state = .held ∨ x.link.state = .serving →
         y.link = x.link ∧ y.adm.wait = x.adm.wait ∧ y.adm.sent = x.adm.sent) ∧
       (x.link.state = .guard → x.link.guardOn = true → x.link.guardCount + 1 < x.link.guardActive →
         y.link.state = .guard ∧ y.link.guardCount = x.link.guardCount + 1) ∧
       (x.link.state = .guard → x.link.guardOn = true → x.link.forced = false →
         x.link.guardActive ≤ x.link.guardCount + 1 →
         y.link.state = .dark ∧ y.link.cause = x.link.cause ∧ y.link.guardOn = false) ∧
       (x.link.state = .fading → x.link.fadeOn = true → x.link.fadeCount + 1 < x.link.fadeActive →
         y.link.state = .fading ∧ y.link.fadeCount = x.link.fadeCount + 1) ∧
       (x.link.state = .fading → x.link.fadeOn = true → x.link.forced = false →
         x.link.fadeActive ≤ x.link.fadeCount + 1 → y.link.state = .dark ∧ y.link.cause = .fade) ∧
       (x.link.state = .admitting → x.adm.sent = none →
         x.adm.wait + 1 < (s.sector.car x.cfg.carrier).cfg.admitWaitLimit →
         y.link.state = .admitting ∧ y.adm.wait = x.adm.wait + 1))

/-- At a frame start, in whatever order the blocks take it, a cell comes to stand only in the row at grant lead ahead, only where
none stood and only on a slot that is REENTRY or a home slot, never on one that is OPEN; the new grants are at most the pace
and the new offers at most the offers of the state the carrier is then in; and no cell stays outside the window (R76 to
R78). -/
def Obligations.FillKeepsWithinItsLimits : Prop :=
  ∀ (c : CarrierNo) (f : FrameNo) (order : List Block) (s : State),
    let k := s.sector.car c
    let r := f + BitVec.ofNat 16 k.cfg.grantLead
    ∃ u, exec (.frameStart c f order) s = .next u ∧
      (let j := u.sector.car c
       (∀ w z, j.cell w z ≠ .empty → j.cell w z ≠ k.cell w z →
         w = r ∧ k.cell w z = .empty ∧ k.slotUse z ≠ .opened) ∧
       ((List.finRange 32).countP (fun z => decide (j.cell r z = .offered) && decide (k.cell r z = .empty)) ≤
         if j.state = .recovering then k.cfg.recoveryOffer else k.cfg.offerLimit) ∧
       ((List.finRange 32).countP (fun z => (j.cell r z).isGrant && decide (k.cell r z = .empty)) ≤
         if j.state = .recovering then k.cfg.recoveryPace else k.cfg.paceLimit) ∧
       ∀ w z, 15 < (w - f).toNat → j.cell w z = .empty)

/-- The cells that leave the calendar at a frame start (R77): each is counted as expired; an offer enters the backoff window as
EMPTY and is a quiet offer (R88); a grant is one outcome of the RNG, counted on some carrier (the grantee's own unless stale,
log 34), and a TRIMMING terminal still waiting for it, its GRANT sent, takes a miss, which ends its exchange at the attempt
limit (R111, R115); this last without the forced mark, which no rule leaves set in TRIMMING (log 17), and where queue and
set are as R90 to R92 say. The backoff exponent of a carrier UP or
RECOVERING then rises, falls or stays by the GARBLED entries among the newest of the window (its place in the CSP's event,
before recovery and fill, is the model's inference, log 21), and a rise from 6 to 7 is a storm and joins STORM; in DOWN and
DISABLED it stays (R89). -/
def Obligations.ExpiredCellsAndBackoff : Prop :=
  ∀ (c : CarrierNo) (f : FrameNo) (order : List Block) (s : State), s.canonical → (s.sector.car c).windowed →
    (s.sector.car c).res.window.length ≤ 64 →
    let k := s.sector.car c
    let gone := k.calendar.filter fun row => decide (15 < (row.frame - f).toNat)
    let cells := (gone.map fun row => (List.finRange 32).map row.cell).flatten
    let offers := cells.countP fun z => decide (z = .offered)
    let grants := cells.countP Cell.isGrant
    let window := (k.res.window ++ List.replicate offers OfferOutcome.empty).drop (k.res.window.length + offers - 64)
    let garbled := (window.drop (window.length - k.cfg.backoffWindow)).countP fun z => decide (z = .garbled)
    let e := k.res.exponent
    let next := if k.cfg.backoffHigh ≤ garbled then min 7 (e + 1) else if garbled ≤ k.cfg.backoffLow then e - 1 else e
    let taken (z : Sector) : Counter := ((List.finRange 4).map fun d =>
      (z.car d).rng.outcomes + (z.car d).rng.staleOutcomes + (z.car d).rng.unsentOutcomes).sum
    ∃ u, exec (.frameStart c f order) s = .next u ∧
      (let j := u.sector.car c
       j.csp.expiredCells = k.csp.expiredCells + BitVec.ofNat 32 (offers + grants) ∧
       j.resCtr.quietOffers = k.resCtr.quietOffers + BitVec.ofNat 32 offers ∧ j.res.window = window ∧
       taken u.sector = taken s.sector + BitVec.ofNat 32 grants ∧
       (k.state = .up ∨ k.state = .recovering →
         j.res.exponent = next ∧
         (e = 6 → next = 7 → j.resCtr.storms = k.resCtr.storms + 1 ∧
           u.sector.events.storm = insertNo c s.sector.events.storm) ∧
         (¬ (e = 6 ∧ next = 7) → j.resCtr.storms = k.resCtr.storms ∧ u.sector.events.storm = s.sector.events.storm)) ∧
       (k.state = .down ∨ k.state = .disabled →
         j.res.exponent = e ∧ j.resCtr.storms = k.resCtr.storms ∧ u.sector.events.storm = s.sector.events.storm)) ∧
      ∀ t g row n, row ∈ gone → row.frame = g.frame → row.cell g.slot = .granted t n →
        let x := s.sector.term t
        let y := u.sector.term t
        s.sector.allScheduled → x.link.state = .trimming → x.link.forced = false → x.range.grant = some g →
        (x.owed.grant = none → y.ctr.rangingAttempts = x.ctr.rangingAttempts + 1) ∧
        (x.owed.grant = none → x.range.attempts < (s.sector.car x.cfg.carrier).cfg.trimLimit → y.link.state = .trimming) ∧
        (x.owed.grant = none → (s.sector.car x.cfg.carrier).cfg.trimLimit ≤ x.range.attempts →
          y.link.state ≠ .trimming ∧ y.link.cause = .rangeFail ∧ y.range.stored = none ∧
          t ∈ u.sector.events.rangeFail) ∧
        (x.owed.grant ≠ none → y.ctr.rangingAttempts = x.ctr.rangingAttempts ∧ y.link.state = .trimming)

/-- The grant arbiter at the fill of a row (R78, R94 to R97, R99, R106), on what the CSP finds when it takes the frame start (what
the blocks before it in the order have left, log 3), where the queue and the set are as R90 to R92 say and no grant expires.
Eligible members of the ranging set are granted first, in ascending number from the first above the rotation pointer; then
queue heads are taken into TRIMMING while the set has room, each with the warm or cold choice, its exchange afresh and its
first grant; together at most the pace, each in the first available slot, REENTRY before LENT. The offers take the slots
that follow, the row is marked filled, and everything else of the row stays. A row already filled, and a carrier in DOWN or
DISABLED, get no grant. -/
def Obligations.GrantArbiterServesItsClaimants : Prop :=
  ∀ (c : CarrierNo) (f : FrameNo) (order : List Block) (s : State),
    let found := ((blockOrder order).takeWhile fun b => decide (b ≠ .csp)).foldl (State.frameBlock c f) s
    let k := found.sector.car c
    let x (t : TermNo) : Terminal := found.sector.term t
    let r := f + BitVec.ofNat 16 k.cfg.grantLead
    let up := k.state = .up ∨ (k.state = .recovering ∧ k.cfg.recoveryPeriod ≤ k.recovery + 1)
    let pace := if up then k.cfg.paceLimit else k.cfg.recoveryPace
    let offers := if up then k.cfg.offerLimit else k.cfg.recoveryOffer
    let slots := ((List.finRange 32).filter fun z => decide (k.slotUse z = .reentry) && decide (k.cell r z = .empty)) ++
      (List.finRange 32).filter fun z => decide (∃ t, k.slotUse z = .lent t false) && decide (k.cell r z = .empty)
    let ready := ((k.res.ranging.filter fun t => decide (k.res.rotation < t)) ++
      k.res.ranging.filter fun t => decide (t ≤ k.res.rotation)).filter fun t =>
        decide ((x t).range.grant = none) && decide ((x t).range.settle = 0)
    let n₁ := min pace (min ready.length slots.length)
    let n₂ := min (min (pace - n₁) (slots.length - n₁)) (min k.res.queue.length (k.cfg.rangingSize - k.res.ranging.length))
    let members := ready.take n₁
    let heads := (k.res.queue.take n₂).map QueueEntry.terminal
    let warm (t : TermNo) : Bool := (x t).link.keptLock && !(x t).link.warmClosed && (x t).range.stored.isSome
    found.sector.allScheduled → k.windowed → k.cfg.grantLead ≤ 15 →
    (∀ row ∈ k.calendar, 15 < (row.frame - f).toNat → ∀ z, (row.cell z).isGrant = false) →
    ∃ u, exec (.frameStart c f order) s = .next u ∧
      (let j := u.sector.car c
       ((k.state = .up ∨ k.state = .recovering) → (∀ row, k.row? r = some row → row.filled = false) →
         (∀ (i : Nat) (t : TermNo) (z : SlotNo), (members ++ heads)[i]? = some t → slots[i]? = some z →
           let y := u.sector.term t
           j.cell r z = .granted t (if t ∈ members then (x t).range.attempts + 1 else 1) ∧
           y.owed.grant = some { frame := r, slot := z } ∧ y.link.state = .trimming ∧
           (t ∈ members → y.range =
             { (x t).range with attempts := (x t).range.attempts + 1, grant := some { frame := r, slot := z } }) ∧
           (t ∈ heads → y.range =
             { stored := (x t).range.stored, attempts := 1, measured := 0, warm := warm t, last := none, settle := 0
               grant := some { frame := r, slot := z }
               correction := if warm t then (x t).range.stored.getD 0 else 0, power := 0 } ∧
             y.ladder.stepUp = 0 ∧ t ∈ u.sector.events.stateChange)) ∧
         (∀ (i : Nat) (z : SlotNo), n₁ + n₂ ≤ i → i < n₁ + n₂ + offers → slots[i]? = some z → j.cell r z = .offered) ∧
         (∀ z, z ∉ slots.take (n₁ + n₂ + offers) → j.cell r z = k.cell r z) ∧
         (∃ row, j.row? r = some row ∧ row.filled = true) ∧
         (∀ t ∈ k.res.ranging, t ∉ members → (u.sector.term t).range.grant = (x t).range.grant) ∧
         j.res.queue = k.res.queue.drop n₂ ∧ (∀ t, t ∈ j.res.ranging ↔ t ∈ k.res.ranging ∨ t ∈ heads) ∧
         j.res.rotation = members.getLast?.getD k.res.rotation ∧
         j.resCtr.grantsPlaced = k.resCtr.grantsPlaced + BitVec.ofNat 32 (n₁ + n₂) ∧
         j.resCtr.terminalsTaken = k.resCtr.terminalsTaken + BitVec.ofNat 32 n₂ ∧
         j.rng.warmExchanges = k.rng.warmExchanges + BitVec.ofNat 32 (heads.countP warm) ∧
         j.rng.coldExchanges = k.rng.coldExchanges + BitVec.ofNat 32 (heads.countP fun t => !warm t)) ∧
       ((k.state = .down ∨ k.state = .disabled) ∨ (∃ row, k.row? r = some row ∧ row.filled = true) →
         (∀ z, j.cell r z = k.cell r z) ∧ j.resCtr.grantsPlaced = k.resCtr.grantsPlaced ∧
         j.res.queue = k.res.queue ∧ j.res.ranging = k.res.ranging ∧ j.res.rotation = k.res.rotation))

/-! ### The ends of counts (R45, R57, R60 to R62, R72, R81, R134) -/

/-- Each of these events acts when its condition stands, and otherwise changes nothing (the model's choice, log 4). The lend
compare and the warm compare (R45): when the running outage counter equals the active copy and the flag is not yet taken,
the flag becomes yes; at the lend compare the home slots that are TRAFFIC for a DARK, CALLED, TRIMMING or GUARD terminal
become LENT for it. The fade timer's expiry (R57): a FADING terminal whose running timer has reached its active copy enters
DARK with last cause FADE and a fresh outage. The guard timer's expiry (R62): a GUARD terminal enters DARK, keeping its last
cause and its outage. Under the forced mark either expiry is counted, the timer stops and the terminal stays (R52; that it
does so in FADING, where no rule leaves the mark set, is the model's inference, log 17). -/
def Obligations.OutageAndTimersEnd : Prop :=
  (∀ (t : TermNo) (s : State),
    let x := s.sector.term t
    let c := x.cfg.carrier
    let lends := x.link.state = .dark ∨ x.link.state = .called ∨ x.link.state = .trimming ∨ x.link.state = .guard
    (∃ u, exec (.lendCompare t) s = .next u ∧ OnlyLinkSide s u ∧ OnlyRecord s.sector u.sector t ∧
      OnlySlots s.sector u.sector c ∧ OnlyRecords s.sector u.sector ∧ u.sector.events = s.sector.events ∧
      (x.link.outageOn = true → x.link.outage = x.link.lendActive → x.link.lendTaken = false →
        u.sector.term t = { x with link := { x.link with lendTaken := true } } ∧
        (lends → ∀ slot, (u.sector.car c).slotUse slot =
          if slot ∈ x.cfg.homeSlots ∧ (s.sector.car c).slotUse slot = .traffic t then .lent t false
          else (s.sector.car c).slotUse slot) ∧
        (¬ lends → u.sector.cars = s.sector.cars)) ∧
      (¬ (x.link.outageOn = true ∧ x.link.outage = x.link.lendActive ∧ x.link.lendTaken = false) → u = s)) ∧
    ∃ u, exec (.warmCompare t) s = .next u ∧ OnlyLinkSide s u ∧ OnlyRecord s.sector u.sector t ∧
      u.sector.cars = s.sector.cars ∧ OnlyRecords s.sector u.sector ∧ u.sector.events = s.sector.events ∧
      (x.link.outageOn = true → x.link.outage = x.link.warmActive → x.link.warmClosed = false →
        u.sector.term t = { x with link := { x.link with warmClosed := true } }) ∧
      (¬ (x.link.outageOn = true ∧ x.link.outage = x.link.warmActive ∧ x.link.warmClosed = false) → u = s)) ∧
  (∀ (t : TermNo) (s : State),
     let x := s.sector.term t
     let c := x.cfg.carrier
     let due := x.link.state = .fading ∧ x.link.fadeOn = true ∧ x.link.fadeActive ≤ x.link.fadeCount
     ∃ u, exec (.fadeTimerExpiry t) s = .next u ∧ OnlyLinkSide s u ∧ OnlyRecord s.sector u.sector t ∧
       OnlySlots s.sector u.sector c ∧ OnlyRecords s.sector u.sector ∧
       (due → x.link.forced = false →
         u.sector.term t = Terminal.toDark .fading { x with link := { x.link with cause := .fade, fadeOn := false } } ∧
         u.sector.events = { s.sector.events with stateChange := insertNo t s.sector.events.stateChange } ∧
         ∀ slot, (u.sector.car c).slotUse slot =
           if x.cfg.lendDelay = 0 ∧ slot ∈ x.cfg.homeSlots ∧ (s.sector.car c).slotUse slot = .traffic t
           then .lent t false else (s.sector.car c).slotUse slot) ∧
       (due → x.link.forced = true →
         u.sector.term t = { x with link := { x.link with fadeOn := false }
                                    ctr := { x.ctr with suppressed := x.ctr.suppressed + 1 } } ∧
         u.sector.cars = s.sector.cars ∧ u.sector.events = s.sector.events) ∧
       (¬ due → u = s)) ∧
  ∀ (t : TermNo) (s : State),
    let x := s.sector.term t
    let c := x.cfg.carrier
    let due := x.link.state = .guard ∧ x.link.guardOn = true ∧ x.link.guardActive ≤ x.link.guardCount
    ∃ u, exec (.guardExpiry t) s = .next u ∧ OnlyLinkSide s u ∧ OnlyRecord s.sector u.sector t ∧
      OnlySlots s.sector u.sector c ∧ OnlyRecords s.sector u.sector ∧
      (due → x.link.forced = false →
        u.sector.term t = Terminal.toDark .guard { x with link := { x.link with guardOn := false } } ∧
        u.sector.events = { s.sector.events with stateChange := insertNo t s.sector.events.stateChange } ∧
        ∀ slot, (u.sector.car c).slotUse slot =
          if x.link.lendTaken = true ∧ slot ∈ x.cfg.homeSlots ∧ (s.sector.car c).slotUse slot = .traffic t
          then .lent t false else (s.sector.car c).slotUse slot) ∧
      (due → x.link.forced = true →
        u.sector.term t = { x with link := { x.link with guardOn := false }
                                   ctr := { x.ctr with suppressed := x.ctr.suppressed + 1 } } ∧
        u.sector.cars = s.sector.cars ∧ u.sector.events = s.sector.events) ∧
      (¬ due → u = s)

/-- The admit wait's expiry (R60, R36, R42): an ADMITTING terminal without an ADMIT sent whose count is at the carrier's limit
enters GUARD with last cause NO-PERMIT, an owed ADMIT cleared and a HALT owed; its reclaim ends with the slots LENT. The
effective frame (R61): when the carrier's current frame equals the effective frame of its sent ADMIT, or is later, the
terminal enters SERVING. Otherwise nothing changes. When the two events act is the model's choice (log 4), and what the
forced mark makes of them in ADMITTING, where no rule leaves it set, its inference (log 17). -/
def Obligations.AdmissionEndsInGuardOrServing : Prop :=
  (∀ (t : TermNo) (s : State),
     let x := s.sector.term t
     let c := x.cfg.carrier
     let due := x.link.state = .admitting ∧ x.adm.sent = none ∧ (s.sector.car c).cfg.admitWaitLimit ≤ x.adm.wait
     ∃ u, exec (.admitWaitExpiry t) s = .next u ∧ OnlyLinkSide s u ∧ OnlyRecord s.sector u.sector t ∧
       OnlySlots s.sector u.sector c ∧ OnlyRecords s.sector u.sector ∧
       (due → x.link.forced = false →
         u.sector.term t =
           { x with
             link := { x.link with state := .guard, cause := .noPermit, permit := false, guardOn := true, guardCount := 0
                                   guardActive := x.cfg.guardPeriod }
             adm := { x.adm with reclaimPending := false, sent := none }
             ladder := { x.ladder with pending := none, assembly := [], stepUp := 0 }
             hold := { x.hold with release := .idle, yieldCount := 0 }
             owed := { x.owed with halt := true, profile := false, admission := false } } ∧
         u.sector.events = { s.sector.events with stateChange := insertNo t s.sector.events.stateChange } ∧
         ∀ slot ∈ x.cfg.homeSlots, ∀ m, (s.sector.car c).slotUse slot = .lent t m →
           (u.sector.car c).slotUse slot = .lent t false) ∧
       (due → x.link.forced = true →
         u.sector.term t = { x with ctr := { x.ctr with suppressed := x.ctr.suppressed + 1 } } ∧
         u.sector.cars = s.sector.cars ∧ u.sector.events = s.sector.events) ∧
       (¬ due → u = s)) ∧
  ∀ (t : TermNo) (s : State),
    let x := s.sector.term t
    let c := x.cfg.carrier
    let d (e : FrameNo) : Nat := ((s.sector.car c).lastFrame - e).toNat
    let due := x.link.state = .admitting ∧ ∃ e, x.adm.sent = some e ∧ d e ≤ 32767
    ∃ u, exec (.effectiveFrameReached t) s = .next u ∧ OnlyLinkSide s u ∧ OnlyRecord s.sector u.sector t ∧
      OnlySlots s.sector u.sector c ∧ OnlyRecords s.sector u.sector ∧
      (due → x.link.forced = false →
        u.sector.term t = Terminal.toServing
          { x with adm := { x.adm with reclaimPending := false, sent := none }
                   owed := { x.owed with admission := false } } ∧
        u.sector.events = { s.sector.events with stateChange := insertNo t s.sector.events.stateChange }) ∧
      (due → x.link.forced = true →
        u.sector.term t = { x with ctr := { x.ctr with suppressed := x.ctr.suppressed + 1 } } ∧
        u.sector.cars = s.sector.cars ∧ u.sector.events = s.sector.events) ∧
      (¬ due → u = s)

/-- Each of these events acts when its condition stands, and otherwise changes nothing (the model's choice, log 4). The apply frame
(R134): when the current frame equals the apply frame of a pending profile or is later than it, the profile is applied: current
profile, margins carried over and clamped, assembly and step-up count cleared, the step counted. Reclaim (R81): a slot LENT
with the mark whose column holds no cell becomes TRAFFIC for its terminal, whose reclaim pending field then says whether
another home slot still has the mark; a slot without the mark, or with a cell, is left. -/
def Obligations.ApplyFrameAndReclaim : Prop :=
  (∀ (t : TermNo) (s : State),
    let x := s.sector.term t
    let f := (s.sector.car x.cfg.carrier).lastFrame
    (∀ (p : PendingProfile) (a : FrameNo), x.ladder.pending = some p → p.apply = some a → (f - a).toNat ≤ 32767 →
      let carry (m : Int) : Int :=
        max (-128) (min 127 (m + ((s.sector.profile x.ladder.current).requiredSnr : Int) -
          ((s.sector.profile p.target).requiredSnr : Int)))
      ∃ u, exec (.applyFrameReached t) s = .next u ∧ OnlyLinkSide s u ∧ OnlyRecord s.sector u.sector t ∧
        u.sector.cars = s.sector.cars ∧ u.sector.events = s.sector.events ∧ u.sector.profiles = s.sector.profiles ∧
        u.sector.term t =
          { x with
            ladder := { current := p.target, pending := none, assembly := [], stepUp := 0
                        report := x.ladder.report.map fun z => { z with margin := carry z.margin }
                        upMargin := x.ladder.upMargin.map carry }
            ctr := if p.direction = .stepDown then { x.ctr with stepsDown := x.ctr.stepsDown + 1 }
              else { x.ctr with stepsUp := x.ctr.stepsUp + 1 } } ∧
        u.sector.pld = (if p.direction = .stepDown then { s.sector.pld with appliedDown := s.sector.pld.appliedDown + 1 }
          else { s.sector.pld with appliedUp := s.sector.pld.appliedUp + 1 })) ∧
    ((∀ (p : PendingProfile) (a : FrameNo), x.ladder.pending = some p → p.apply = some a → 32767 < (f - a).toNat) →
      exec (.applyFrameReached t) s = .next s)) ∧
  ∀ (c : CarrierNo) (slot : SlotNo) (s : State),
    let k := s.sector.car c
    let clear := ∀ row ∈ k.calendar, row.cell slot = .empty
    (∀ t, k.slotUse slot = .lent t true → clear →
      ∃ u, exec (.reclaim c slot) s = .next u ∧ OnlyLinkSide s u ∧ OnlyRecord s.sector u.sector t ∧
        OnlySlots s.sector u.sector c ∧ OnlyRecords s.sector u.sector ∧ u.sector.events = s.sector.events ∧
        (u.sector.car c).slotUse slot = .traffic t ∧
        (∀ x, x ≠ slot → (u.sector.car c).slotUse x = k.slotUse x) ∧
        (u.sector.term t).link.state = (s.sector.term t).link.state ∧
        ((s.sector.term t).cfg.carrier = c → (u.sector.term t).adm.reclaimPending =
          (s.sector.term t).cfg.homeSlots.any fun x => decide (x ≠ slot) && decide (k.slotUse x = .lent t true)) ∧
        ((s.sector.term t).owed.admission = true → (u.sector.term t).owed.admission = true) ∧
        ((s.sector.term t).link.state = .admitting → (s.sector.term t).adm.sent = none →
          (s.sector.term t).cfg.carrier = c →
          (∀ x ∈ (s.sector.term t).cfg.homeSlots, x ≠ slot → ∀ m, k.slotUse x ≠ .lent t m) →
          (s.sector.term t).link.permit = true ∨ (s.sector.term t).cfg.autoAdmit = true →
          (u.sector.term t).owed.admission = true)) ∧
    ((∀ t, k.slotUse slot ≠ .lent t true) ∨ ¬ clear → exec (.reclaim c slot) s = .next s)

/-! ### Carrier indications (R71, R73, R63) -/

/-- A carrier-found indication is counted; a DOWN carrier enters RECOVERING with recovery count 0 and joins CARRIER, and any other
keeps its state and count (R71). A RECOVERING carrier whose recovery count is at or above its recovery period enters UP and
joins CARRIER, its count kept; any other carrier is left (R72; when that event acts is the model's choice, log 4). A
carrier-lost indication is counted; an UP or RECOVERING carrier enters DOWN with an empty calendar and recovery count 0,
joins CARRIER, and each of its configured terminals in CALLED to FADING enters DARK with last cause CARRIER, or is counted
as suppressed under the forced mark; a DOWN or DISABLED carrier, and its terminals, are left (R73, R63, R52; that the mark
acts in CALLED, TRIMMING, ADMITTING and FADING, where no rule leaves it set, is the model's inference, log 17). -/
def Obligations.CarrierFoundRecoveredAndLost : Prop :=
  (∀ (c : CarrierNo) (s : State),
     let k := s.sector.car c
     let counted : Carrier := { k with csp := { k.csp with carrierFound := k.csp.carrierFound + 1 } }
     ∃ u, exec (.carrierFound c) s = .next u ∧ OnlyLinkSide s u ∧ OnlyCarrier s.sector u.sector c ∧
       u.sector.terms = s.sector.terms ∧ OnlyRecords s.sector u.sector ∧
       (k.state = .down →
         u.sector.car c = { counted with state := .recovering, recovery := 0 } ∧
         u.sector.events = { s.sector.events with carrier := insertNo c s.sector.events.carrier }) ∧
       (k.state ≠ .down → u.sector.car c = counted ∧ u.sector.events = s.sector.events)) ∧
  (∀ (c : CarrierNo) (s : State),
    let k := s.sector.car c
    (k.state = .recovering → k.cfg.recoveryPeriod ≤ k.recovery →
      ∃ u, exec (.recoveryPeriodReached c) s = .next u ∧ OnlyLinkSide s u ∧
        u.sector.car c = { k with state := .up } ∧ OnlyCarrier s.sector u.sector c ∧ u.sector.terms = s.sector.terms ∧
        OnlyRecords s.sector u.sector ∧
        u.sector.events = { s.sector.events with carrier := insertNo c s.sector.events.carrier }) ∧
    (¬ (k.state = .recovering ∧ k.cfg.recoveryPeriod ≤ k.recovery) → exec (.recoveryPeriodReached c) s = .next s)) ∧
  ∀ (c : CarrierNo) (s : State),
    let k := s.sector.car c
    let lost (l : LinkState) : Prop := l = .called ∨ l = .trimming ∨ l = .admitting ∨ l = .serving ∨ l = .fading
    ∃ u, exec (.carrierLost c) s = .next u ∧ OnlyLinkSide s u ∧ OnlyCarrier s.sector u.sector c ∧
      (u.sector.car c).csp = { k.csp with carrierLost := k.csp.carrierLost + 1 } ∧ (u.sector.car c).cfg = k.cfg ∧
      (∀ t, s.sector.bound c t = false → u.sector.term t = s.sector.term t) ∧
      (k.state = .down ∨ k.state = .disabled →
        u.sector.car c = { k with csp := { k.csp with carrierLost := k.csp.carrierLost + 1 } } ∧
        u.sector.terms = s.sector.terms ∧ u.sector.events = s.sector.events) ∧
      (k.state = .up ∨ k.state = .recovering →
        (u.sector.car c).state = .down ∧ (u.sector.car c).recovery = 0 ∧
        (∀ row ∈ (u.sector.car c).calendar, row.filled = false ∧ row.cells = []) ∧
        (u.sector.car c).res.window = k.res.window ∧ (u.sector.car c).res.exponent = k.res.exponent ∧
        c ∈ u.sector.events.carrier ∧
        ∀ t, s.sector.bound c t = true →
          let x := s.sector.term t
          let y := u.sector.term t
          y.cfg = x.cfg ∧ y.hold.queue = x.hold.queue ∧ y.owed.halt = x.owed.halt ∧
          (¬ lost x.link.state → y.link = x.link ∧ y.ctr = x.ctr) ∧
          (lost x.link.state → x.link.forced = true →
            y.link = x.link ∧ y.ctr = { x.ctr with suppressed := x.ctr.suppressed + 1 }) ∧
          (lost x.link.state → x.link.forced = false →
            y.link.state = .dark ∧ y.link.cause = .carrier ∧ y.link.permit = x.link.permit ∧ y.ctr = x.ctr ∧
            t ∈ u.sector.events.stateChange))

/-! ### Slot outcomes (R83 to R88, R53 to R56, R107 to R117, R13, R14) -/

/-- A call burst from an offered call slot of the current frame consumes its cell and enters CALL in the backoff window. For a
terminal bound to the carrier without the forced mark, by its link state: DARK enters CALLED with an entry in the
re-entry queue; CALLED takes the new lock and last profile as a repeat; GUARD is a guard hit, which restarts the timer only under
guard restart; HELD, TRIMMING and ADMITTING ignore it; SERVING and FADING come to CALLED by a recall. A call for a
terminal not bound to the carrier is stray (R53, R54, R62, R87). -/
def Obligations.CallOutcomeByLinkState : Prop :=
  ∀ (c : CarrierNo) (u : FrameNo) (slot : SlotNo) (b : Burst) (lock : Bool) (p : ProfileNo) (s : State),
    (SlotResult.burst b).inRange = true → b.kind = .call lock p → u = (s.sector.car c).lastFrame →
    (s.sector.car c).cell u slot = .offered →
    let t := b.claimed
    let x := s.sector.term t
    let k := s.sector.car c
    ∃ v, exec (.slotOutcome c u slot (.burst b)) s = .next v ∧ OnlyLinkSide s v ∧ OnlyRecord s.sector v.sector t ∧
      OnlyCarrier s.sector v.sector c ∧
      (let y := v.sector.term t
       let j := v.sector.car c
       j.cell u slot = .empty ∧ (∀ w z, w ≠ u ∨ z ≠ slot → j.cell w z = k.cell w z) ∧
       j.res.window = (k.res.window ++ [OfferOutcome.call]).drop (k.res.window.length + 1 - 64) ∧
       (s.sector.bound c t = false →
         y = x ∧ j.resCtr = { k.resCtr with strayCalls := k.resCtr.strayCalls + 1 } ∧ j.res.queue = k.res.queue ∧
         v.sector.events = s.sector.events) ∧
       (s.sector.bound c t = true →
         j.resCtr = { k.resCtr with callsAccepted := k.resCtr.callsAccepted + 1 } ∧
         y.ctr.callsAccepted = x.ctr.callsAccepted + 1 ∧
         (x.link.forced = false → x.link.state = .dark →
           y.link = { x.link with state := .called, keptLock := lock, repeatCalls := 0 } ∧
           y.ladder.current = x.cfg.reentry ∧ y.owed.halt = false ∧
           (∃ e ∈ j.res.queue, e.terminal = t ∧ e.cls = x.cfg.cls ∧ e.lastProfile = p) ∧
           v.sector.events = { s.sector.events with stateChange := insertNo t s.sector.events.stateChange }) ∧
         (x.link.forced = false → x.link.state = .called →
           y.link = { x.link with keptLock := lock, repeatCalls := min 255 (x.link.repeatCalls + 1) } ∧
           y.ctr.repeatCalls = x.ctr.repeatCalls + 1 ∧
           j.res.queue = k.res.queue.map (fun e => if e.terminal = t then { e with lastProfile := p } else e)) ∧
         (x.link.forced = false → x.link.state = .guard →
           y.ctr.guardHits = x.ctr.guardHits + 1 ∧
           y.link = if k.cfg.guardRestart then
             { x.link with guardOn := true, guardCount := 0, guardActive := x.cfg.guardPeriod } else x.link) ∧
         (x.link.forced = false → x.link.state = .held ∨ x.link.state = .trimming ∨ x.link.state = .admitting →
           y.link = x.link ∧ y.ctr.ignoredCalls = x.ctr.ignoredCalls + 1) ∧
         (x.link.forced = false → x.link.state = .serving ∨ x.link.state = .fading →
           y.link.state = .called ∧ y.link.cause = .recall ∧ y.link.outage = 0 ∧ y.link.outageOn = true ∧
           y.link.keptLock = lock) ∧
         (x.link.forced = true →
           y.link = x.link ∧ y.ctr.ignoredCalls = x.ctr.ignoredCalls + 1 ∧ j.res.queue = k.res.queue ∧
           y.ctr.suppressed =
             if x.link.state = .dark ∨ x.link.state = .serving then x.ctr.suppressed + 1 else x.ctr.suppressed)))

/-- An EMPTY or GARBLED outcome, or a burst of another kind than a call, in an offered call slot of the current frame consumes the
cell and enters the window as EMPTY or GARBLED; no terminal changes (R84, R88). An outcome that finds no cell, in a slot of
which nothing is expected, is stray, and is counted out of frame when its frame is not the current one (R83, R85). -/
def Obligations.QuietCollidingAndStrayOutcomes : Prop :=
  (∀ (c : CarrierNo) (u : FrameNo) (slot : SlotNo) (o : SlotResult) (s : State),
     o.inRange = true → (∀ b lock p, o = .burst b → b.kind ≠ .call lock p) → u = (s.sector.car c).lastFrame →
     (s.sector.car c).cell u slot = .offered →
     let k := s.sector.car c
     ∃ v, exec (.slotOutcome c u slot o) s = .next v ∧ OnlyLinkSide s v ∧ OnlyCarrier s.sector v.sector c ∧
       v.sector.terms = s.sector.terms ∧ v.sector.events = s.sector.events ∧ (v.sector.car c).cell u slot = .empty ∧
       (v.sector.car c).res.window =
         (k.res.window ++ [if o = .empty then OfferOutcome.empty else OfferOutcome.garbled]).drop (k.res.window.length + 1 - 64) ∧
       (v.sector.car c).resCtr =
         if o = .empty then { k.resCtr with quietOffers := k.resCtr.quietOffers + 1 }
         else { k.resCtr with collisions := k.resCtr.collisions + 1 }) ∧
  ∀ (c : CarrierNo) (u : FrameNo) (slot : SlotNo) (o : SlotResult) (s : State),
    let k := s.sector.car c
    o.inRange = true → (u ≠ k.lastFrame ∨ k.cell u slot = .empty) →
    (∀ t, k.slotUse slot = .traffic t → (s.sector.term t).link.state ≠ .serving ∧ (s.sector.term t).link.state ≠ .fading) →
    ∃ v, exec (.slotOutcome c u slot o) s = .next v ∧ OnlyLinkSide s v ∧ OnlyCarrier s.sector v.sector c ∧
      v.sector.terms = s.sector.terms ∧ v.sector.events = s.sector.events ∧
      v.sector.car c = { k with csp :=
        { k.csp with
          outOfFrame := if u = k.lastFrame then k.csp.outOfFrame else k.csp.outOfFrame + 1
          strayOutcomes := k.csp.strayOutcomes + 1
          strayBursts := if isBurst o then k.csp.strayBursts + 1 else k.csp.strayBursts } }

/-- A miss in a TRAFFIC slot of a terminal in service (R56, R52, R85): EMPTY, GARBLED, or a burst that is not its own traffic
burst. The miss is counted and a partial report is broken (R127); SERVING enters FADING; FADING counts to its limit and then
enters DARK with last cause FADE; the forced mark turns it into a suppressed event, in FADING also below the limit, which
no rule reaches and the model infers (log 17). -/
def Obligations.MissOutcomeInService : Prop :=
  ∀ (c : CarrierNo) (u : FrameNo) (slot : SlotNo) (o : SlotResult) (t : TermNo) (s : State),
    let k := s.sector.car c
    let x := s.sector.term t
    o.inRange = true → (u ≠ k.lastFrame ∨ k.cell u slot = .empty) → k.slotUse slot = .traffic t →
    (x.link.state = .serving ∨ x.link.state = .fading) → goodFor t o = none →
    ∃ v, exec (.slotOutcome c u slot o) s = .next v ∧ OnlyLinkSide s v ∧ OnlyRecord s.sector v.sector t ∧
      (let y := v.sector.term t
       y.cfg = x.cfg ∧ y.ctr.misses = x.ctr.misses + 1 ∧ y.ladder.assembly = [] ∧ y.hold.queue = x.hold.queue ∧
       y.ctr.brokenReports = (if x.ladder.assembly = [] then x.ctr.brokenReports else x.ctr.brokenReports + 1) ∧
       v.sector.pld.brokenReports =
         (if x.ladder.assembly = [] then s.sector.pld.brokenReports else s.sector.pld.brokenReports + 1) ∧
       y.ctr.foreignBursts =
         (if foreignTo t o then x.ctr.foreignBursts + 1 else x.ctr.foreignBursts) ∧
       (x.link.forced = true → y.link = x.link ∧ y.ctr.suppressed = x.ctr.suppressed + 1 ∧
         v.sector.events = s.sector.events) ∧
       (x.link.forced = false → x.link.state = .serving →
         y.link = { x.link with state := .fading, fadeMisses := 1, fadeOn := true, fadeCount := 0
                                fadeActive := x.cfg.fadeTimeout } ∧
         y.ctr.fades = x.ctr.fades + 1 ∧ t ∈ v.sector.events.stateChange) ∧
       (x.link.forced = false → x.link.state = .fading → min 15 (x.link.fadeMisses + 1) < x.cfg.fadeMissLimit →
         y.link = { x.link with fadeMisses := min 15 (x.link.fadeMisses + 1) } ∧ v.sector.events = s.sector.events) ∧
       (x.link.forced = false → x.link.state = .fading → x.cfg.fadeMissLimit ≤ min 15 (x.link.fadeMisses + 1) →
         y.link.state = .dark ∧ y.link.cause = .fade ∧ y.link.outage = 0 ∧ y.link.outageOn = true ∧
         t ∈ v.sector.events.stateChange))

/-- A good traffic burst of a terminal in service (R55, R13, R14, R151): FADING without the forced mark returns to SERVING (the
mark in FADING: log 17); then the pause flag acts by Table 8.3 on the release state so left; each payload frame that carries
no tag and is 60 to 2044 bytes long leaves on the Network Port under the home tag and with its check sequence computed anew,
in record order, and the rest are counted. The bit between priority and tag value is 0, the model's choice (log 31), and that
the check sequence has four bytes is presumed (log 33). -/
def Obligations.GoodTrafficBurst : Prop :=
  ∀ (c : CarrierNo) (u : FrameNo) (slot : SlotNo) (b : Burst) (x : Fragment) (pause : Bool) (payload : List (List Byte))
      (s : State),
    let k := s.sector.car c
    let t := b.claimed
    let r := s.sector.term t
    (SlotResult.burst b).inRange = true → b.kind = .traffic x pause payload →
    (u ≠ k.lastFrame ∨ k.cell u slot = .empty) → k.slotUse slot = .traffic t →
    (r.link.state = .serving ∨ r.link.state = .fading) →
    let fits (q : List Byte) : Bool :=
      !(decide (16 ≤ q.length) && decide (bytesAt q 12 2 = [0x81, 0x00])) && decide (60 ≤ q.length) && decide (q.length ≤ 2044)
    let returns := r.link.state = .fading ∧ r.link.forced = false
    let before : ReleaseState :=
      if returns then (if r.hold.queue = [] then .idle else .releasing) else r.hold.release
    let after : ReleaseState :=
      if before = .idle then .idle
      else if pause then (if r.cfg.backPressure = .wait then .paused else .yielding)
      else if before = .yielding ∧ r.cfg.backPressure = .yielding then .yielding else .releasing
    ∃ v, exec (.slotOutcome c u slot (.burst b)) s = .next v ∧
      v.pending = s.pending ∧ v.shares = s.shares ∧ v.straps = s.straps ∧ v.tagMap = s.tagMap ∧
      v.mgu.buffer = s.mgu.buffer ∧ OnlyRecord s.sector v.sector t ∧ v.sector.mlOut = s.sector.mlOut ∧
      (v.sector.term t).link.state = (if r.link.forced = true then r.link.state else .serving) ∧
      (v.sector.term t).hold.queue = r.hold.queue ∧
      (before ≠ .suspended →
        (v.sector.term t).hold.release = after ∧
        (after = .yielding → (v.sector.term t).hold.yieldCount =
          if pause then (s.sector.car r.cfg.carrier).cfg.yieldPeriod else r.hold.yieldCount)) ∧
      (r.cfg.homeTag = none →
        v.npTraffic = s.npTraffic ∧
        v.fcl = { s.fcl with upstreamNoTag := s.fcl.upstreamNoTag + BitVec.ofNat 32 payload.length }) ∧
      (∀ tag, r.cfg.homeTag = some tag →
        v.npTraffic = s.npTraffic ++ (payload.filter fits).map (fun q =>
          let w := q.take 12 ++ [0x81, 0x00] ++ be16 tag ++ (q.take (q.length - 4)).drop 12
          w ++ beBytes 4 (Config.checkSequence w).toNat) ∧
        v.fcl = { s.fcl with
          upstreamSent := s.fcl.upstreamSent + BitVec.ofNat 32 (payload.countP fits)
          upstreamFormat := s.fcl.upstreamFormat + BitVec.ofNat 32 (payload.countP fun q => !fits q) })

/-- The outcome of a GRANTED cell for a grantee that is not TRIMMING with that grant is stale: no record but its late-trim count
changes (R107, R116). One that finds the grantee TRIMMING with that grant and its GRANT still owed is unsent: the attempt is
given back, grant and mark are cleared, the settle count is left, and nothing is judged (R117). An unsent outcome is counted on
the grantee's own carrier, the model's choice where the cell stands on another (log 34). -/
def Obligations.StaleAndUnsentOutcomes : Prop :=
  (∀ (c : CarrierNo) (u : FrameNo) (slot : SlotNo) (t : TermNo) (n : Nat) (o : SlotResult) (s : State),
    let k := s.sector.car c
    let x := s.sector.term t
    o.inRange = true → u = k.lastFrame → k.cell u slot = .granted t n →
    ¬ (x.link.state = .trimming ∧ x.range.grant = some { frame := u, slot := slot }) →
    let late := ∃ b f, o = .burst b ∧ b.kind = .trim f ∧ b.claimed = t
    ∃ v, exec (.slotOutcome c u slot o) s = .next v ∧ OnlyLinkSide s v ∧ OnlyRecord s.sector v.sector t ∧
      OnlyCarrier s.sector v.sector c ∧ v.sector.events = s.sector.events ∧ (v.sector.car c).cell u slot = .empty ∧
      (late → (v.sector.car c).rng = { k.rng with lateTrims := k.rng.lateTrims + 1 } ∧
        v.sector.term t =
          if x.cfg.configured then { x with ctr := { x.ctr with lateTrims := x.ctr.lateTrims + 1 } } else x) ∧
      (¬ late → (v.sector.car c).rng = { k.rng with staleOutcomes := k.rng.staleOutcomes + 1 } ∧
        v.sector.term t = x)) ∧
  ∀ (c : CarrierNo) (u : FrameNo) (slot : SlotNo) (t : TermNo) (n : Nat) (o : SlotResult) (s : State),
    let k := s.sector.car c
    let x := s.sector.term t
    o.inRange = true → u = k.lastFrame → k.cell u slot = .granted t n →
    x.link.state = .trimming → x.range.grant = some { frame := u, slot := slot } → x.owed.grant ≠ none →
    let own := x.cfg.carrier
    let h := s.sector.car own
    ∃ v, exec (.slotOutcome c u slot o) s = .next v ∧ OnlyLinkSide s v ∧ OnlyRecord s.sector v.sector t ∧
      (∀ d, d ≠ c → d ≠ own → v.sector.car d = s.sector.car d) ∧ OnlyRecords s.sector v.sector ∧
      v.sector.events = s.sector.events ∧ (v.sector.car c).cell u slot = .empty ∧
      v.sector.term t =
        { x with range := { x.range with attempts := x.range.attempts - 1, grant := none }
                 owed := { x.owed with grant := none } } ∧
      (v.sector.car own).rng = { h.rng with unsentOutcomes := h.rng.unsentOutcomes + 1 } ∧
      (c ≠ own → (v.sector.car c).rng = k.rng) ∧ (v.sector.car c).res = k.res ∧ (v.sector.car c).resCtr = k.resCtr ∧
      (v.sector.car own).res = h.res ∧ (v.sector.car own).resCtr = h.resCtr

/-- The current outcome of a TRIMMING terminal's grant (R108 to R115): a trim burst of its own within the search window is a
measurement, whose correction is lowered by the offset and clamped; a warm or second measurement within both windows
converges to ADMITTING with the correction stored; an attempt that ends unconverged at the attempt limit fails to GUARD
with last cause RANGE-FAIL, a HALT owed and the stored correction absent; below the limit it settles. A warm exchange whose
measurement does not converge goes on cold and is counted as a fall-back, while a miss leaves it warm (R111). A miss breaks a
partial report (R127). Windows, limit, settle setting and counters are those of the grantee's own carrier, the model's choice
where the cell stands on another (log 34). The terminal is not under the forced mark, which no rule leaves set in TRIMMING
(log 17). -/
def Obligations.RangingOutcomeJudgesAttempt : Prop :=
  ∀ (c : CarrierNo) (u : FrameNo) (slot : SlotNo) (t : TermNo) (n : Nat) (o : SlotResult) (s : State),
    let k := s.sector.car c
    let x := s.sector.term t
    o.inRange = true → u = k.lastFrame → k.cell u slot = .granted t n →
    x.link.state = .trimming → x.link.forced = false → x.range.grant = some { frame := u, slot := slot } →
    x.owed.grant = none →
    let own := x.cfg.carrier
    let h := s.sector.car own
    let correction (offset : Int) : Int := max (-4096) (min 4095 (x.range.correction - offset))
    let fails (y : Terminal) (v : State) : Prop :=
      y.link.state = .guard ∧ y.link.cause = .rangeFail ∧ y.range.stored = none ∧ y.owed.halt = true ∧
      y.ladder.assembly = [] ∧ t ∈ v.sector.events.rangeFail ∧ t ∈ v.sector.events.stateChange
    let settles (y : Terminal) : Prop := y.link = x.link ∧ y.range.settle = h.cfg.settle ∧ y.range.stored = x.range.stored
    let breaks (y : Terminal) (v : State) : Prop :=
      y.ladder.assembly = [] ∧
      y.ctr.brokenReports = (if x.ladder.assembly = [] then x.ctr.brokenReports else x.ctr.brokenReports + 1) ∧
      v.sector.pld.brokenReports =
        (if x.ladder.assembly = [] then s.sector.pld.brokenReports else s.sector.pld.brokenReports + 1)
    let missed (y : Terminal) (v : State) : Prop :=
      y.range.measured = x.range.measured ∧ y.range.last = x.range.last ∧ y.range.power = x.range.power ∧
      y.range.warm = x.range.warm ∧ (v.sector.car own).rng.misses = h.rng.misses + 1 ∧
      (v.sector.car own).rng.warmFallbacks = h.rng.warmFallbacks
    ∃ v, exec (.slotOutcome c u slot o) s = .next v ∧ OnlyLinkSide s v ∧ OnlyRecord s.sector v.sector t ∧
      (∀ d, d ≠ c → d ≠ own → v.sector.car d = s.sector.car d) ∧ (c ≠ own → (v.sector.car c).rng = k.rng) ∧
      (let y := v.sector.term t
       y.cfg = x.cfg ∧ y.range.grant = none ∧ y.ctr.rangingAttempts = x.ctr.rangingAttempts + 1 ∧
       (v.sector.car own).rng.outcomes = h.rng.outcomes + 1 ∧
       ((∀ b f, o = .burst b → b.kind = .trim f → b.claimed ≠ t) →
         (if h.cfg.trimLimit ≤ x.range.attempts then fails y v else settles y) ∧
         breaks y v ∧ y.range.correction = x.range.correction ∧ missed y v) ∧
       (∀ b f, o = .burst b → b.kind = .trim f → b.claimed = t → h.cfg.searchWindow < b.offset.natAbs →
         (if h.cfg.trimLimit ≤ x.range.attempts then fails y v else settles y) ∧
         breaks y v ∧ y.range.correction = x.range.correction ∧ missed y v ∧
         y.ctr.rangingOverflows = x.ctr.rangingOverflows + 1) ∧
       (∀ b f, o = .burst b → b.kind = .trim f → b.claimed = t → b.offset.natAbs ≤ h.cfg.searchWindow →
         let within := b.offset.natAbs ≤ h.cfg.fineWindow ∧
           ((b.snr : Int) - (h.cfg.targetSnr : Int)).natAbs ≤ h.cfg.powerWindow
         let second := x.range.warm = true ∨ 1 ≤ x.range.measured
         y.range.correction = correction b.offset ∧ y.range.measured = x.range.measured + 1 ∧
         y.range.power = max (-12) (min 12 ((h.cfg.targetSnr : Int) - (b.snr : Int))) ∧
         y.range.last = some { offset := b.offset, snr := b.snr } ∧
         (v.sector.car own).rng.misses = h.rng.misses ∧
         (x.range.warm = true → ¬ within →
           y.range.warm = false ∧ (v.sector.car own).rng.warmFallbacks = h.rng.warmFallbacks + 1) ∧
         (x.range.warm = false ∨ within →
           y.range.warm = x.range.warm ∧ (v.sector.car own).rng.warmFallbacks = h.rng.warmFallbacks) ∧
         (within → second → y.link.state = .admitting ∧ y.range.stored = some (correction b.offset) ∧
           t ∈ v.sector.events.stateChange) ∧
         (¬ (within ∧ second) → if h.cfg.trimLimit ≤ x.range.attempts then fails y v else settles y)))

/-! ### Reports and the ladder (R125 to R132) -/

/-- The fragment of a good traffic burst, and that of a trim burst taken as a measurement, enter the terminal's assembly by the start
mark and the count held (R125): a start mark breaks a partial assembly and begins anew; without one an empty assembly orphans
the fragment, one or two fragments take it after them, and three complete the report, whose margin, trend and headroom become
present (R126, Section 12.3). A traffic burst sets the upstream margin, a trim burst does not, nor does it decide (R128). The
search window is that of the terminal's own carrier, the model's choice where the cell stands on another (log 34). -/
def Obligations.ReportsAreAssembled : Prop :=
  ∀ (c : CarrierNo) (u : FrameNo) (slot : SlotNo) (b : Burst) (f : Fragment) (s : State),
    let k := s.sector.car c
    let t := b.claimed
    let x := s.sector.term t
    let held := x.ladder.assembly
    (SlotResult.burst b).inRange = true →
    (((∃ pause payload, b.kind = .traffic f pause payload) ∧ (u ≠ k.lastFrame ∨ k.cell u slot = .empty) ∧
        k.slotUse slot = .traffic t ∧ (x.link.state = .serving ∨ x.link.state = .fading)) ∨
      (b.kind = .trim f ∧ u = k.lastFrame ∧ (∃ n, k.cell u slot = .granted t n) ∧
        x.link.state = .trimming ∧ x.range.grant = some { frame := u, slot := slot } ∧ x.owed.grant = none ∧
        b.offset.natAbs ≤ (s.sector.car x.cfg.carrier).cfg.searchWindow)) →
    ∃ v, exec (.slotOutcome c u slot (.burst b)) s = .next v ∧
      (let y := v.sector.term t
       let p := s.sector.pld
       let q := v.sector.pld
       (f.start = true →
         (y.link.state ≠ .guard → y.ladder.assembly = [f.bits]) ∧
         q.brokenReports = (if held = [] then p.brokenReports else p.brokenReports + 1) ∧
         y.ctr.brokenReports = (if held = [] then x.ctr.brokenReports else x.ctr.brokenReports + 1)) ∧
       (f.start = false → q.brokenReports = p.brokenReports ∧ y.ctr.brokenReports = x.ctr.brokenReports) ∧
       (f.start = false → held = [] → y.ladder.assembly = []) ∧
       q.orphanFragments = (if f.start = false ∧ held = [] then p.orphanFragments + 1 else p.orphanFragments) ∧
       (f.start = false → held.length = 1 ∨ held.length = 2 → y.link.state ≠ .guard →
         y.ladder.assembly = held ++ [f.bits]) ∧
       (∀ x₁ x₂ x₃, f.start = false → held = [x₁, x₂, x₃] →
         y.ladder.assembly = [] ∧ q.reportsCompleted = p.reportsCompleted + 1 ∧
         y.ladder.report = some
           { margin := (x₁ ++ x₂ : BitVec 8).toInt
             trend := [Trend.falling, .steady, .rising, .unknown].getD (x₃.toNat / 4) .unknown
             headroom := 16 * (x₃.toNat % 4) + f.bits.toNat }) ∧
       (f.start = true ∨ held.length < 3 →
         q.reportsCompleted = p.reportsCompleted ∧ y.ladder.report = x.ladder.report) ∧
       (∀ pause payload, b.kind = .traffic f pause payload →
         y.ladder.upMargin = some ((b.snr : Int) - ((s.sector.profile x.ladder.current).requiredSnr : Int))) ∧
       (b.kind = .trim f →
         y.ladder.upMargin = x.ladder.upMargin ∧ q.stepDownDecisions = p.stepDownDecisions ∧
         q.stepUpDecisions = p.stepUpDecisions))

/-- A report that a good traffic burst completes drives one ladder decision of its terminal, which the burst finds in SERVING or
returns to it (R126, R129). The ladder margin is the lesser of the report's and the burst's own. Below the down margin of the
current profile a step-down is judged (R130): to the highest enabled lower profile whose down margin the margin over it
reaches, else the floor; a pending step-down to it stays, and on the floor a pending step-up is cleared. Else a pending
profile stops the decision (R129). Else a step-up is judged on the lowest enabled faster profile up to the ceiling (R131): a
qualifying report is counted, and at the hold that profile becomes pending (R132); any other sets the count to 0. -/
def Obligations.LadderDecidesOnReports : Prop :=
  ∀ (c : CarrierNo) (u : FrameNo) (slot : SlotNo) (b : Burst) (f : Fragment) (pause : Bool) (payload : List (List Byte))
      (x₁ x₂ x₃ : BitVec 4) (s : State),
    let k := s.sector.car c
    let t := b.claimed
    let x := s.sector.term t
    let prof := s.sector.profile
    (SlotResult.burst b).inRange = true → b.kind = .traffic f pause payload →
    (u ≠ k.lastFrame ∨ k.cell u slot = .empty) → k.slotUse slot = .traffic t →
    (x.link.state = .serving ∨ (x.link.state = .fading ∧ x.link.forced = false)) →
    x.ladder.assembly = [x₁, x₂, x₃] → f.start = false →
    let now := x.ladder.current
    let margin : Int := (x₁ ++ x₂ : BitVec 8).toInt
    let falling := x₃.toNat / 4 = 0
    let headroom := 16 * (x₃.toNat % 4) + f.bits.toNat
    let m : Int := min margin ((b.snr : Int) - ((prof now).requiredSnr : Int))
    let onto (p : ProfileNo) : Int := m + ((prof now).requiredSnr : Int) - ((prof p).requiredSnr : Int)
    let counted := if x.link.state = .serving then x.ladder.stepUp else 0
    let lower (p : ProfileNo) : Prop :=
      (prof p).enabled = true ∧ x.cfg.floor ≤ p ∧ p < now ∧ (prof p).downMargin ≤ onto p
    let higher (p : ProfileNo) : Prop := (prof p).enabled = true ∧ now < p ∧ p ≤ x.cfg.ceiling
    let down := m < (prof now).downMargin
    ∃ v, exec (.slotOutcome c u slot (.burst b)) s = .next v ∧
      (let y := v.sector.term t
       let pld := s.sector.pld
       let stays (n : Nat) : Prop :=
         y.ladder.pending = x.ladder.pending ∧ y.owed.profile = x.owed.profile ∧ y.ladder.stepUp = n ∧
         v.sector.pld = { pld with reportsCompleted := pld.reportsCompleted + 1 }
       let replaced := if x.ladder.pending = none then pld.pendingReplaced else pld.pendingReplaced + 1
       y.ladder.current = now ∧
       (down → now = x.cfg.floor →
         ((∃ d, x.ladder.pending = some d ∧ d.direction = .stepUp) →
           y.ladder.pending = none ∧ y.owed.profile = false ∧ y.ladder.stepUp = 0 ∧
           v.sector.pld = { pld with reportsCompleted := pld.reportsCompleted + 1 }) ∧
         (¬ (∃ d, x.ladder.pending = some d ∧ d.direction = .stepUp) → stays 0)) ∧
       (∀ p, down → x.cfg.floor < now →
         (lower p ∧ (∀ q, lower q → q ≤ p)) ∨ ((∀ q, ¬ lower q) ∧ p = x.cfg.floor) →
         ((∃ d, x.ladder.pending = some d ∧ d.direction = .stepDown ∧ d.target = p) → stays 0) ∧
         (¬ (∃ d, x.ladder.pending = some d ∧ d.direction = .stepDown ∧ d.target = p) →
           y.ladder.pending = some { target := p, direction := .stepDown, apply := none } ∧ y.owed.profile = true ∧
           y.ladder.stepUp = 0 ∧
           v.sector.pld =
             { pld with reportsCompleted := pld.reportsCompleted + 1
                        stepDownDecisions := pld.stepDownDecisions + 1, pendingReplaced := replaced })) ∧
       (¬ down → x.ladder.pending ≠ none → stays counted) ∧
       (¬ down → x.ladder.pending = none → (∀ p, ¬ higher p) → stays 0) ∧
       ∀ p, ¬ down → x.ladder.pending = none → higher p → (∀ q, higher q → p ≤ q) →
         let qualifies := (prof p).upMargin ≤ onto p ∧ ¬ falling ∧ (prof p).neededHeadroom ≤ headroom
         let n := min 63 (counted + 1)
         (¬ qualifies → stays 0) ∧
         (qualifies → n < (prof p).stepUpHold → stays n) ∧
         (qualifies → (prof p).stepUpHold ≤ n →
           y.ladder.pending = some { target := p, direction := .stepUp, apply := none } ∧ y.owed.profile = true ∧
           y.ladder.stepUp = 0 ∧
           v.sector.pld =
             { pld with reportsCompleted := pld.reportsCompleted + 1
                        stepUpDecisions := pld.stepUpDecisions + 1 }))

/-! ### Directive lists (R158 to R165) -/

/-- Every list-close is answered with exactly one list: for a carrier in UP or RECOVERING a list of at most twelve directives, at
most one to each terminal, each to a terminal bound to the carrier, and no more TRIMs than the pace in force; for a
carrier in DOWN or DISABLED a header alone, with every record as it was (R158, R160). The header names the slots offered in
the row at grant lead ahead, when the calendar has it and it is filled, and else none (R159). -/
def Obligations.ListCloseHandsOneList : Prop :=
  ∀ (c : CarrierNo) (g : FrameNo) (s : State),
    let k := s.sector.car c
    ∃ v l, exec (.listClose c g) s = .next v ∧ OnlyLinkSide s v ∧ OnlyCarrier s.sector v.sector c ∧
      v.sector.mlOut = s.sector.mlOut ++ [.list l] ∧
      l.carrier = c ∧ l.frame = g ∧ l.exponent = k.res.exponent ∧
      (v.sector.car c).dcpCtr.listCloses = k.dcpCtr.listCloses + 1 ∧
      (∀ t, (v.sector.term t).cfg = (s.sector.term t).cfg ∧ (v.sector.term t).hold = (s.sector.term t).hold ∧
        (v.sector.term t).link = (s.sector.term t).link) ∧
      (k.state = .up ∨ k.state = .recovering →
        (∀ row, k.row? (g + BitVec.ofNat 16 k.cfg.grantLead) = some row → row.filled = true →
          l.offered = (List.finRange 32).filter fun z => decide (row.cell z = .offered)) ∧
        ((∀ row, k.row? (g + BitVec.ofNat 16 k.cfg.grantLead) = some row → row.filled = false) → l.offered = []) ∧
        l.body.length ≤ 12 ∧ (l.body.map Directive.terminal).Nodup ∧ (∀ d ∈ l.body, s.sector.bound c d.terminal = true) ∧
        l.body.countP Directive.isTrim ≤ (if k.state = .recovering then k.cfg.recoveryPace else k.cfg.paceLimit) ∧
        (∀ t, s.sector.bound c t = true → (v.sector.term t).owed.grant = none)) ∧
      (k.state = .down ∨ k.state = .disabled →
        l.offered = [] ∧ l.body = [] ∧ v.sector.terms = s.sector.terms ∧ v.sector.events = s.sector.events ∧
        v.sector.car c = { k with dcpCtr :=
          { k.dcpCtr with listCloses := k.dcpCtr.listCloses + 1, headerOnly := k.dcpCtr.headerOnly + 1 } })

/-- What the body of a list carries, and what it makes of the marks (R160 to R165). The marks are taken rank by rank, each rank in
ascending number from the first terminal above its pointer: a terminal that holds a directive is passed over, a GRANT that is
late or beyond the pace is not placed, and twelve places are filled. The mark of each directive placed is cleared; a sent
ADMIT gives an ADMITTING terminal its effective frame, a sent PROFILE the pending profile its apply frame; the pointer of a
rank takes the last terminal placed in it. Every GRANT not placed is withdrawn: attempt given back, cell cleared. The list is
full when a mark it reached found no place. A late GRANT behind a full body counts as late (log 12, the model's inference). -/
def Obligations.ListCarriesOwedMarksByRank : Prop :=
  ∀ (c : CarrierNo) (g : FrameNo) (s : State),
    let k := s.sector.car c
    let x := s.sector.term
    (k.state = .up ∨ k.state = .recovering) →
    let lead := g + BitVec.ofNat 16 k.cfg.applyLead
    let pending (d : Direction) (t : TermNo) : Bool :=
      (x t).owed.profile && (x t).ladder.pending.any fun p => decide (p.direction = d)
    let owes (r : Rank) (t : TermNo) : Bool :=
      match r with
      | .halt => (x t).owed.halt
      | .admission => (x t).owed.admission
      | .stepDown => pending .stepDown t
      | .grant => (x t).owed.grant.isSome
      | .stepUp => pending .stepUp t
    let turned (p : TermNo) : List TermNo :=
      (List.finRange 256).filter (fun t => decide (p < t)) ++ (List.finRange 256).filter fun t => decide (t ≤ p)
    let marks : List (Rank × TermNo) :=
      ([Rank.halt, .admission, .stepDown, .grant, .stepUp].map fun r =>
        ((turned (k.dcp.get r)).filter fun t => s.sector.bound c t && owes r t).map fun t => (r, t)).flatten
    let late (t : TermNo) : Bool :=
      (x t).owed.grant.any fun w => decide (w.frame = g) || decide (32767 < (w.frame - g).toNat)
    let pace := if k.state = .recovering then k.cfg.recoveryPace else k.cfg.paceLimit
    let placed := carried late pace [] marks
    let sent (r : Rank) (t : TermNo) : Bool := decide ((r, t) ∈ placed)
    let steps (t : TermNo) : Bool := sent .stepDown t || sent .stepUp t
    let back (t : TermNo) : Bool := s.sector.bound c t && (x t).owed.grant.isSome && !sent .grant t
    let number (r : Rank) : Counter := BitVec.ofNat 32 (placed.countP fun m => decide (m.1 = r))
    ∃ v l, exec (.listClose c g) s = .next v ∧ v.sector.mlOut = s.sector.mlOut ++ [.list l] ∧
      l.body.length = placed.length ∧
      (∀ (i : Nat) (t : TermNo),
        (placed[i]? = some (.halt, t) → l.body[i]? = some (.halt t)) ∧
        (placed[i]? = some (.admission, t) → l.body[i]? = some (.admission t lead (x t).cfg.homeSlots)) ∧
        (∀ w, placed[i]? = some (.grant, t) → (x t).owed.grant = some w →
          l.body[i]? = some (.trim t w (x t).range.correction (x t).range.power)) ∧
        ∀ p, placed[i]? = some (.stepDown, t) ∨ placed[i]? = some (.stepUp, t) → (x t).ladder.pending = some p →
          l.body[i]? = some (.profile t p.target (s.sector.profile p.target).modulation
            (s.sector.profile p.target).codeRate lead)) ∧
      (∀ t, v.sector.term t =
        { x t with
          owed := { halt := (x t).owed.halt && !sent .halt t, admission := (x t).owed.admission && !sent .admission t
                    profile := (x t).owed.profile && !steps t
                    grant := if s.sector.bound c t then none else (x t).owed.grant }
          adm := if sent .admission t && decide ((x t).link.state = .admitting)
            then { (x t).adm with sent := some lead } else (x t).adm
          ladder := if steps t
            then { (x t).ladder with pending := (x t).ladder.pending.map fun p => { p with apply := some lead } }
            else (x t).ladder
          range := if back t then { (x t).range with attempts := (x t).range.attempts - 1, grant := none }
            else (x t).range }) ∧
      (let j := v.sector.car c
       (∀ t w n, back t = true → (x t).owed.grant = some w → k.cell w.frame w.slot = .granted t n →
         j.cell w.frame w.slot = .empty) ∧
       (∀ w z, (∀ t n, k.cell w z = .granted t n → back t = true →
         (x t).owed.grant ≠ some { frame := w, slot := z }) → j.cell w z = k.cell w z) ∧
       (∀ r, j.dcp.get r =
         (((placed.filter fun m => decide (m.1 = r)).getLast?).map Prod.snd).getD (k.dcp.get r)) ∧
       j.resCtr = { k.resCtr with
         grantsWithdrawn := k.resCtr.grantsWithdrawn + BitVec.ofNat 32 ((List.finRange 256).countP back) } ∧
       { j.dcpCtr with fullLists := 0 } =
         { listCloses := k.dcpCtr.listCloses + 1, headerOnly := k.dcpCtr.headerOnly
           haltsSent := k.dcpCtr.haltsSent + number .halt, admitsSent := k.dcpCtr.admitsSent + number .admission
           downsSent := k.dcpCtr.downsSent + number .stepDown, upsSent := k.dcpCtr.upsSent + number .stepUp
           trimsSent := k.dcpCtr.trimsSent + number .grant
           lateGrants := k.dcpCtr.lateGrants + BitVec.ofNat 32 ((List.finRange 256).countP fun t =>
             s.sector.bound c t && late t && !sent .halt t && !sent .admission t && !sent .stepDown t)
           fullLists := 0 } ∧
       { j with calendar := k.calendar, dcp := k.dcp, resCtr := k.resCtr, dcpCtr := k.dcpCtr } = k ∧
       (wantsPlace late pace [] marks → j.dcpCtr.fullLists = k.dcpCtr.fullLists + 1 ∧
         v.sector.events = { s.sector.events with listFull := insertNo c s.sector.events.listFull }) ∧
       (¬ wantsPlace late pace [] marks → j.dcpCtr.fullLists = k.dcpCtr.fullLists ∧
         v.sector.events = s.sector.events))

/-! ### What every step keeps -/

/-- Every step keeps these (R5, R168, R173): frames received equal the sum of the seven outcomes; the request buffer holds at most
four requests, as many as were admitted less the responses sent, and the frames diverted are those the MGU counted. -/
def Obligations.FrameAndRequestCountsAreKept : Prop :=
  (∀ s u, s.fcl.balanced → step s = .next u → u.fcl.balanced) ∧
  ∀ s u, s.mguBalanced → step s = .next u → u.mguBalanced

/-- Every step keeps these: Tag Map entries 0 and 4095 are NONE (R1); every carrier's calendar has one row for each of the sixteen
frames from its current frame (R76). -/
def Obligations.FixedTagsAndWindowAreKept : Prop :=
  (∀ s u, s.tagsFixed → step s = .next u → u.tagsFixed) ∧
  ∀ s u, (∀ c, (s.sector.car c).windowed) → step s = .next u → ∀ c, (u.sector.car c).windowed

/-- Every sparse table of the state keeps its canonical form (the model's own form). -/
def Obligations.CanonicalFormIsKept : Prop := ∀ s u, s.canonical → step s = .next u → u.canonical

/-- Free descriptors plus held frames stay 4096, and free blocks plus held blocks 8192 (R140). -/
def Obligations.PoolsStayWhole : Prop := ∀ s u, s.sector.poolsWhole → step s = .next u → u.sector.poolsWhole

/-- The event sets stay in ascending order and without duplicates (R174). -/
def Obligations.EventSetsStayAscending : Prop :=
  ∀ s u, s.sector.events.ascending → step s = .next u → u.sector.events.ascending

/-- The re-entry queues stay in class order and acceptance order with exactly the CALLED terminals of their carriers, the ranging
sets hold exactly the TRIMMING ones, at most eight, and an unconfigured record stays HELD (R17, R90 to R92). -/
def Obligations.SchedulesStayOrdered : Prop := ∀ s u, s.sector.allScheduled → step s = .next u → u.sector.allScheduled

/-- A terminal's configuration changes only by a WRITE-TERMINAL, which gives it the fields of its body, and by power-on (R18). -/
def Obligations.ConfigurationChangesByWriteOnly : Prop :=
  ∀ (i : Instr) (s u : State) (t : TermNo), exec i s = .next u →
    (u.sector.term t).cfg = (s.sector.term t).cfg ∨
    (∃ straps, i = .powerOnReset straps) ∨
    (i = .writeTerminal ∧ ∃ r rest es, s.mgu.buffer = r :: rest ∧ fieldSet termWidth r.body = some es ∧
      (u.sector.term t).cfg = (s.sector.term t).cfg.withFields es)

/-- The state after reset satisfies every invariant above. -/
def Obligations.InvariantsHoldAtReset : Prop :=
  State.reset.fcl.balanced ∧ State.reset.mguBalanced ∧ State.reset.tagsFixed ∧
  (∀ c, (State.reset.sector.car c).windowed) ∧ State.reset.canonical ∧ State.reset.sector.poolsWhole ∧
  State.reset.sector.events.ascending ∧ State.reset.sector.allScheduled
end

