-- ==== Sys2Proof/Laws/Tables.lean ====
section
/-! SUPPORT. The laws of sparse tables and of ascending lists without repeats: what each operation reads as, and that it
keeps the canonical form. -/

namespace Sys2Proof.Machine

variable {n : Nat} {α : Type}

/-! ### Reading after a change -/

theorem Table.read_nil (d : α) (k : Fin n) : Table.read d ([] : Table n α) k = d := rfl

theorem Table.read_put (d : α) (l : Table n α) (k j : Fin n) (x : α) :
    (Table.put l k x).read d j = if j = k then x else l.read d j := by
  induction l with
  | nil => simp only [Table.put, Table.read, eq_comm]
  | cons e l ih =>
    obtain ⟨i, y⟩ := e
    unfold Table.put
    by_cases h₁ : k < i
    · simp only [h₁, if_true, Table.read, eq_comm]
    · by_cases h₂ : k = i
      · subst h₂
        simp only [lt_irrefl, if_false, if_true, Table.read]
        by_cases hj : j = k
        · simp [hj]
        · have hk : ¬ k = j := fun h => hj h.symm
          simp [hj, hk]
      · simp only [h₁, h₂, if_false, Table.read, ih]
        by_cases hi : i = j
        · subst hi; simp [Ne.symm h₂]
        · simp [hi]

theorem Table.read_drop (d : α) (l : Table n α) (k j : Fin n) :
    (Table.drop l k).read d j = if j = k then d else l.read d j := by
  induction l with
  | nil => simp [Table.drop, Table.read]
  | cons e l ih =>
    obtain ⟨i, y⟩ := e
    unfold Table.drop at ih ⊢
    by_cases h : i = k
    · subst h
      simp only [List.filter_cons, ne_eq, not_true, decide_false, Bool.false_eq_true, if_false, ih, Table.read]
      by_cases hj : j = i
      · simp [hj]
      · simp [hj, Ne.symm hj]
    · simp only [List.filter_cons, ne_eq, h, not_false_iff, decide_true, if_true, Table.read, ih]
      by_cases hi : i = j
      · subst hi; simp [h]
      · simp [hi]

/-- A table reads what was last written under a key, and every other key as before. -/
theorem Table.read_write [DecidableEq α] (d : α) (l : Table n α) (k j : Fin n) (x : α) :
    (Table.write d l k x).read d j = if j = k then x else l.read d j := by
  unfold Table.write
  split
  · next h => subst h; exact Table.read_drop _ l k j
  · exact Table.read_put d l k j x

theorem Table.read_write_same [DecidableEq α] (d : α) (l : Table n α) (k : Fin n) (x : α) :
    (Table.write d l k x).read d k = x := by
  rw [Table.read_write, if_pos rfl]

theorem Table.read_write_other [DecidableEq α] (d : α) (l : Table n α) {k j : Fin n} (x : α) (h : j ≠ k) :
    (Table.write d l k x).read d j = l.read d j := by
  rw [Table.read_write, if_neg h]

/-! ### The canonical form -/

theorem Table.wf_iff [DecidableEq α] (d : α) (l : Table n α) :
    Table.wf d l = true ↔ (l.map (·.1)).Pairwise (· < ·) ∧ ∀ e ∈ l, e.2 ≠ d := by
  simp only [Table.wf, Bool.and_eq_true, decide_eq_true_eq, List.all_eq_true]

theorem Table.wf_nil [DecidableEq α] (d : α) : Table.wf d ([] : Table n α) = true := by
  simp [Table.wf]

theorem Table.mem_put {l : Table n α} {k : Fin n} {x : α} {e : Fin n × α} (h : e ∈ Table.put l k x) :
    e = (k, x) ∨ e ∈ l := by
  induction l with
  | nil => simp only [Table.put, List.mem_singleton] at h; exact Or.inl h
  | cons b l ih =>
    obtain ⟨i, y⟩ := b
    unfold Table.put at h
    split at h
    · simp only [List.mem_cons] at h ⊢; tauto
    · split at h
      · simp only [List.mem_cons] at h ⊢; tauto
      · rcases List.mem_cons.1 h with h | h
        · exact Or.inr (h ▸ List.mem_cons_self)
        · rcases ih h with h | h
          · exact Or.inl h
          · exact Or.inr (List.mem_cons_of_mem _ h)

theorem Table.pairwise_put {l : Table n α} (k : Fin n) (x : α) (h : (l.map (·.1)).Pairwise (· < ·)) :
    ((Table.put l k x).map (·.1)).Pairwise (· < ·) := by
  induction l with
  | nil => simp [Table.put]
  | cons b l ih =>
    obtain ⟨i, y⟩ := b
    simp only [List.map_cons, List.pairwise_cons] at h
    unfold Table.put
    split
    · next hk =>
      simp only [List.map_cons, List.pairwise_cons, List.mem_cons]
      exact ⟨fun a ha => ha.elim (fun e => e ▸ hk) (fun ha => lt_trans hk (h.1 a ha)), h⟩
    · next hk =>
      split
      · next hk' => subst hk'; simpa only [List.map_cons, List.pairwise_cons] using h
      · next hk' =>
        simp only [List.map_cons, List.pairwise_cons]
        refine ⟨fun a ha => ?_, ih h.2⟩
        obtain ⟨e, he, rfl⟩ := List.mem_map.1 ha
        rcases Table.mem_put he with rfl | he
        · exact lt_of_le_of_ne (not_lt.1 hk) (Ne.symm hk')
        · exact h.1 _ (List.mem_map.2 ⟨e, he, rfl⟩)

/-- A write keeps the canonical form. -/
theorem Table.wf_write [DecidableEq α] (d : α) {l : Table n α} (k : Fin n) (x : α) (h : Table.wf d l = true) :
    Table.wf d (Table.write d l k x) = true := by
  rw [Table.wf_iff] at h ⊢
  unfold Table.write
  split
  · unfold Table.drop
    refine ⟨?_, fun e he => h.2 e (List.mem_of_mem_filter he)⟩
    exact h.1.sublist (List.filter_sublist.map _)
  · next hx =>
    refine ⟨Table.pairwise_put k x h.1, fun e he => ?_⟩
    rcases Table.mem_put he with rfl | he
    · exact hx
    · exact h.2 e he

/-! ### Ascending lists without repeats -/

theorem mem_insertNo {x y : Fin n} {l : List (Fin n)} : y ∈ insertNo x l ↔ y = x ∨ y ∈ l := by
  induction l with
  | nil => simp [insertNo]
  | cons z l ih =>
    unfold insertNo
    split
    · simp
    · split
      · next h => subst h; simp
      · simp only [List.mem_cons, ih]; tauto

theorem pairwise_insertNo {x : Fin n} {l : List (Fin n)} (h : l.Pairwise (· < ·)) :
    (insertNo x l).Pairwise (· < ·) := by
  induction l with
  | nil => simp [insertNo]
  | cons z l ih =>
    unfold insertNo
    rw [List.pairwise_cons] at h
    split
    · next hx =>
      rw [List.pairwise_cons]
      refine ⟨fun a ha => ?_, List.pairwise_cons.2 h⟩
      rcases List.mem_cons.1 ha with rfl | ha
      · exact hx
      · exact lt_trans hx (h.1 a ha)
    · next hx =>
      split
      · exact List.pairwise_cons.2 h
      · next hne =>
        rw [List.pairwise_cons]
        refine ⟨fun a ha => ?_, ih h.2⟩
        rcases mem_insertNo.1 ha with rfl | ha
        · exact lt_of_le_of_ne (not_lt.1 hx) (Ne.symm hne)
        · exact h.1 a ha

/-- The rotation of an ascending list serves the same terminals (R95, R149, R161). -/
theorem mem_rotated {p t : TermNo} {l : List TermNo} : t ∈ rotated p l ↔ t ∈ l := by
  simp only [rotated, List.mem_append, List.mem_filter, decide_eq_true_eq]
  constructor
  · rintro (h | h) <;> exact h.1
  · intro h
    rcases lt_or_ge p t with hp | hp
    · exact Or.inl ⟨h, hp⟩
    · exact Or.inr ⟨h, hp⟩

theorem mem_allTerminals (t : TermNo) : t ∈ allTerminals := List.mem_finRange t

theorem mem_allSlots (x : SlotNo) : x ∈ allSlots := List.mem_finRange x

theorem mem_allCarriers (c : CarrierNo) : c ∈ allCarriers := List.mem_finRange c

end Sys2Proof.Machine
end

