-- ==== Sys2Proof/Laws/State.lean ====
section
/-! SUPPORT. One lemma per field per update: what each named update of the state leaves and what it sets, so that no proof
unfolds a record update. -/

namespace Sys2Proof.Machine

/-! ### Updates that are record updates of a terminal or a carrier -/

@[simp] theorem Sector.modLink_def (s : Sector) (t : TermNo) (f : LinkFields → LinkFields) :
    s.modLink t f = s.modTerm t fun r => { r with link := f r.link } := rfl

@[simp] theorem Sector.modRange_def (s : Sector) (t : TermNo) (f : RangeFields → RangeFields) :
    s.modRange t f = s.modTerm t fun r => { r with range := f r.range } := rfl

@[simp] theorem Sector.modAdm_def (s : Sector) (t : TermNo) (f : AdmissionFields → AdmissionFields) :
    s.modAdm t f = s.modTerm t fun r => { r with adm := f r.adm } := rfl

@[simp] theorem Sector.modLadder_def (s : Sector) (t : TermNo) (f : LadderFields → LadderFields) :
    s.modLadder t f = s.modTerm t fun r => { r with ladder := f r.ladder } := rfl

@[simp] theorem Sector.modHold_def (s : Sector) (t : TermNo) (f : HoldFields → HoldFields) :
    s.modHold t f = s.modTerm t fun r => { r with hold := f r.hold } := rfl

@[simp] theorem Sector.modOwed_def (s : Sector) (t : TermNo) (f : OwedMarks → OwedMarks) :
    s.modOwed t f = s.modTerm t fun r => { r with owed := f r.owed } := rfl

@[simp] theorem Sector.countTerm_def (s : Sector) (t : TermNo) (f : TermCounters → TermCounters) :
    s.countTerm t f = s.modTerm t fun r => { r with ctr := f r.ctr } := rfl

@[simp] theorem Sector.modRes_def (s : Sector) (c : CarrierNo) (f : Scheduler → Scheduler) :
    s.modRes c f = s.modCar c fun k => { k with res := f k.res } := rfl

@[simp] theorem Sector.countCsp_def (s : Sector) (c : CarrierNo) (f : CspCounters → CspCounters) :
    s.countCsp c f = s.modCar c fun k => { k with csp := f k.csp } := rfl

@[simp] theorem Sector.countRes_def (s : Sector) (c : CarrierNo) (f : ResCounters → ResCounters) :
    s.countRes c f = s.modCar c fun k => { k with resCtr := f k.resCtr } := rfl

@[simp] theorem Sector.countRng_def (s : Sector) (c : CarrierNo) (f : RngCounters → RngCounters) :
    s.countRng c f = s.modCar c fun k => { k with rng := f k.rng } := rfl

@[simp] theorem Sector.countDcp_def (s : Sector) (c : CarrierNo) (f : DcpCounters → DcpCounters) :
    s.countDcp c f = s.modCar c fun k => { k with dcpCtr := f k.dcpCtr } := rfl

/-! ### A terminal record changed -/

@[simp] theorem Sector.modTerm_cars (s : Sector) (t : TermNo) (f : Terminal → Terminal) : (s.modTerm t f).cars = s.cars := rfl

@[simp] theorem Sector.modTerm_profiles (s : Sector) (t : TermNo) (f : Terminal → Terminal) : (s.modTerm t f).profiles = s.profiles := rfl

@[simp] theorem Sector.modTerm_freeDescriptors (s : Sector) (t : TermNo) (f : Terminal → Terminal) : (s.modTerm t f).freeDescriptors = s.freeDescriptors := rfl

@[simp] theorem Sector.modTerm_freeBlocks (s : Sector) (t : TermNo) (f : Terminal → Terminal) : (s.modTerm t f).freeBlocks = s.freeBlocks := rfl

@[simp] theorem Sector.modTerm_storeLowMark (s : Sector) (t : TermNo) (f : Terminal → Terminal) : (s.modTerm t f).storeLowMark = s.storeLowMark := rfl

@[simp] theorem Sector.modTerm_pld (s : Sector) (t : TermNo) (f : Terminal → Terminal) : (s.modTerm t f).pld = s.pld := rfl

@[simp] theorem Sector.modTerm_hfs (s : Sector) (t : TermNo) (f : Terminal → Terminal) : (s.modTerm t f).hfs = s.hfs := rfl

@[simp] theorem Sector.modTerm_events (s : Sector) (t : TermNo) (f : Terminal → Terminal) : (s.modTerm t f).events = s.events := rfl

@[simp] theorem Sector.modTerm_mlOut (s : Sector) (t : TermNo) (f : Terminal → Terminal) : (s.modTerm t f).mlOut = s.mlOut := rfl

/-! ### A carrier record changed -/

@[simp] theorem Sector.modCar_terms (s : Sector) (c : CarrierNo) (f : Carrier → Carrier) : (s.modCar c f).terms = s.terms := rfl

@[simp] theorem Sector.modCar_profiles (s : Sector) (c : CarrierNo) (f : Carrier → Carrier) : (s.modCar c f).profiles = s.profiles := rfl

@[simp] theorem Sector.modCar_freeDescriptors (s : Sector) (c : CarrierNo) (f : Carrier → Carrier) : (s.modCar c f).freeDescriptors = s.freeDescriptors := rfl

@[simp] theorem Sector.modCar_freeBlocks (s : Sector) (c : CarrierNo) (f : Carrier → Carrier) : (s.modCar c f).freeBlocks = s.freeBlocks := rfl

@[simp] theorem Sector.modCar_storeLowMark (s : Sector) (c : CarrierNo) (f : Carrier → Carrier) : (s.modCar c f).storeLowMark = s.storeLowMark := rfl

@[simp] theorem Sector.modCar_pld (s : Sector) (c : CarrierNo) (f : Carrier → Carrier) : (s.modCar c f).pld = s.pld := rfl

@[simp] theorem Sector.modCar_hfs (s : Sector) (c : CarrierNo) (f : Carrier → Carrier) : (s.modCar c f).hfs = s.hfs := rfl

@[simp] theorem Sector.modCar_events (s : Sector) (c : CarrierNo) (f : Carrier → Carrier) : (s.modCar c f).events = s.events := rfl

@[simp] theorem Sector.modCar_mlOut (s : Sector) (c : CarrierNo) (f : Carrier → Carrier) : (s.modCar c f).mlOut = s.mlOut := rfl

/-! ### Event sets changed -/

@[simp] theorem Sector.note_terms (s : Sector) (f : EventSets → EventSets) : (s.note f).terms = s.terms := rfl

@[simp] theorem Sector.note_cars (s : Sector) (f : EventSets → EventSets) : (s.note f).cars = s.cars := rfl

@[simp] theorem Sector.note_profiles (s : Sector) (f : EventSets → EventSets) : (s.note f).profiles = s.profiles := rfl

@[simp] theorem Sector.note_freeDescriptors (s : Sector) (f : EventSets → EventSets) : (s.note f).freeDescriptors = s.freeDescriptors := rfl

@[simp] theorem Sector.note_freeBlocks (s : Sector) (f : EventSets → EventSets) : (s.note f).freeBlocks = s.freeBlocks := rfl

@[simp] theorem Sector.note_storeLowMark (s : Sector) (f : EventSets → EventSets) : (s.note f).storeLowMark = s.storeLowMark := rfl

@[simp] theorem Sector.note_pld (s : Sector) (f : EventSets → EventSets) : (s.note f).pld = s.pld := rfl

@[simp] theorem Sector.note_hfs (s : Sector) (f : EventSets → EventSets) : (s.note f).hfs = s.hfs := rfl

@[simp] theorem Sector.note_mlOut (s : Sector) (f : EventSets → EventSets) : (s.note f).mlOut = s.mlOut := rfl

@[simp] theorem Sector.note_events (s : Sector) (f : EventSets → EventSets) : (s.note f).events = f s.events := rfl

/-! ### HFS counters changed -/

@[simp] theorem Sector.countHfs_terms (s : Sector) (f : HfsCounters → HfsCounters) : (s.countHfs f).terms = s.terms := rfl

@[simp] theorem Sector.countHfs_cars (s : Sector) (f : HfsCounters → HfsCounters) : (s.countHfs f).cars = s.cars := rfl

@[simp] theorem Sector.countHfs_profiles (s : Sector) (f : HfsCounters → HfsCounters) : (s.countHfs f).profiles = s.profiles := rfl

@[simp] theorem Sector.countHfs_freeDescriptors (s : Sector) (f : HfsCounters → HfsCounters) : (s.countHfs f).freeDescriptors = s.freeDescriptors := rfl

@[simp] theorem Sector.countHfs_freeBlocks (s : Sector) (f : HfsCounters → HfsCounters) : (s.countHfs f).freeBlocks = s.freeBlocks := rfl

@[simp] theorem Sector.countHfs_storeLowMark (s : Sector) (f : HfsCounters → HfsCounters) : (s.countHfs f).storeLowMark = s.storeLowMark := rfl

@[simp] theorem Sector.countHfs_pld (s : Sector) (f : HfsCounters → HfsCounters) : (s.countHfs f).pld = s.pld := rfl

@[simp] theorem Sector.countHfs_events (s : Sector) (f : HfsCounters → HfsCounters) : (s.countHfs f).events = s.events := rfl

@[simp] theorem Sector.countHfs_mlOut (s : Sector) (f : HfsCounters → HfsCounters) : (s.countHfs f).mlOut = s.mlOut := rfl

@[simp] theorem Sector.countHfs_hfs (s : Sector) (f : HfsCounters → HfsCounters) : (s.countHfs f).hfs = f s.hfs := rfl

/-! ### PLD counters changed -/

@[simp] theorem Sector.countPld_terms (s : Sector) (f : PldCounters → PldCounters) : (s.countPld f).terms = s.terms := rfl

@[simp] theorem Sector.countPld_cars (s : Sector) (f : PldCounters → PldCounters) : (s.countPld f).cars = s.cars := rfl

@[simp] theorem Sector.countPld_profiles (s : Sector) (f : PldCounters → PldCounters) : (s.countPld f).profiles = s.profiles := rfl

@[simp] theorem Sector.countPld_freeDescriptors (s : Sector) (f : PldCounters → PldCounters) : (s.countPld f).freeDescriptors = s.freeDescriptors := rfl

@[simp] theorem Sector.countPld_freeBlocks (s : Sector) (f : PldCounters → PldCounters) : (s.countPld f).freeBlocks = s.freeBlocks := rfl

@[simp] theorem Sector.countPld_storeLowMark (s : Sector) (f : PldCounters → PldCounters) : (s.countPld f).storeLowMark = s.storeLowMark := rfl

@[simp] theorem Sector.countPld_hfs (s : Sector) (f : PldCounters → PldCounters) : (s.countPld f).hfs = s.hfs := rfl

@[simp] theorem Sector.countPld_events (s : Sector) (f : PldCounters → PldCounters) : (s.countPld f).events = s.events := rfl

@[simp] theorem Sector.countPld_mlOut (s : Sector) (f : PldCounters → PldCounters) : (s.countPld f).mlOut = s.mlOut := rfl

@[simp] theorem Sector.countPld_pld (s : Sector) (f : PldCounters → PldCounters) : (s.countPld f).pld = f s.pld := rfl

/-! ### Records handed to the modem -/

@[simp] theorem Sector.handOut_terms (s : Sector) (l : List MlOut) : (s.handOut l).terms = s.terms := rfl

@[simp] theorem Sector.handOut_cars (s : Sector) (l : List MlOut) : (s.handOut l).cars = s.cars := rfl

@[simp] theorem Sector.handOut_profiles (s : Sector) (l : List MlOut) : (s.handOut l).profiles = s.profiles := rfl

@[simp] theorem Sector.handOut_freeDescriptors (s : Sector) (l : List MlOut) : (s.handOut l).freeDescriptors = s.freeDescriptors := rfl

@[simp] theorem Sector.handOut_freeBlocks (s : Sector) (l : List MlOut) : (s.handOut l).freeBlocks = s.freeBlocks := rfl

@[simp] theorem Sector.handOut_storeLowMark (s : Sector) (l : List MlOut) : (s.handOut l).storeLowMark = s.storeLowMark := rfl

@[simp] theorem Sector.handOut_pld (s : Sector) (l : List MlOut) : (s.handOut l).pld = s.pld := rfl

@[simp] theorem Sector.handOut_hfs (s : Sector) (l : List MlOut) : (s.handOut l).hfs = s.hfs := rfl

@[simp] theorem Sector.handOut_events (s : Sector) (l : List MlOut) : (s.handOut l).events = s.events := rfl

@[simp] theorem Sector.handOut_mlOut (s : Sector) (l : List MlOut) : (s.handOut l).mlOut = s.mlOut ++ l := rfl

/-! ### Frames given back to the pools -/

@[simp] theorem Sector.giveBack_terms (s : Sector) (q : List HeldFrame) : (s.giveBack q).terms = s.terms := rfl

@[simp] theorem Sector.giveBack_cars (s : Sector) (q : List HeldFrame) : (s.giveBack q).cars = s.cars := rfl

@[simp] theorem Sector.giveBack_profiles (s : Sector) (q : List HeldFrame) : (s.giveBack q).profiles = s.profiles := rfl

@[simp] theorem Sector.giveBack_storeLowMark (s : Sector) (q : List HeldFrame) : (s.giveBack q).storeLowMark = s.storeLowMark := rfl

@[simp] theorem Sector.giveBack_pld (s : Sector) (q : List HeldFrame) : (s.giveBack q).pld = s.pld := rfl

@[simp] theorem Sector.giveBack_hfs (s : Sector) (q : List HeldFrame) : (s.giveBack q).hfs = s.hfs := rfl

@[simp] theorem Sector.giveBack_events (s : Sector) (q : List HeldFrame) : (s.giveBack q).events = s.events := rfl

@[simp] theorem Sector.giveBack_mlOut (s : Sector) (q : List HeldFrame) : (s.giveBack q).mlOut = s.mlOut := rfl

@[simp] theorem Sector.giveBack_freeDescriptors (s : Sector) (q : List HeldFrame) :
    (s.giveBack q).freeDescriptors = s.freeDescriptors + q.length := rfl

@[simp] theorem Sector.giveBack_freeBlocks (s : Sector) (q : List HeldFrame) :
    (s.giveBack q).freeBlocks = s.freeBlocks + blocksOf q := rfl

/-! ### The link side changed -/

@[simp] theorem State.onSector_pending (s : State) (f : Sector → Sector) : (s.onSector f).pending = s.pending := rfl

@[simp] theorem State.onSector_shares (s : State) (f : Sector → Sector) : (s.onSector f).shares = s.shares := rfl

@[simp] theorem State.onSector_straps (s : State) (f : Sector → Sector) : (s.onSector f).straps = s.straps := rfl

@[simp] theorem State.onSector_tagMap (s : State) (f : Sector → Sector) : (s.onSector f).tagMap = s.tagMap := rfl

@[simp] theorem State.onSector_fcl (s : State) (f : Sector → Sector) : (s.onSector f).fcl = s.fcl := rfl

@[simp] theorem State.onSector_mgu (s : State) (f : Sector → Sector) : (s.onSector f).mgu = s.mgu := rfl

@[simp] theorem State.onSector_npTraffic (s : State) (f : Sector → Sector) : (s.onSector f).npTraffic = s.npTraffic := rfl

@[simp] theorem State.onSector_npMgmt (s : State) (f : Sector → Sector) : (s.onSector f).npMgmt = s.npMgmt := rfl

@[simp] theorem State.onSector_sector (s : State) (f : Sector → Sector) : (s.onSector f).sector = f s.sector := rfl

/-! ### FCL counters changed -/

@[simp] theorem State.countFcl_pending (s : State) (f : FclCounters → FclCounters) : (s.countFcl f).pending = s.pending := rfl

@[simp] theorem State.countFcl_shares (s : State) (f : FclCounters → FclCounters) : (s.countFcl f).shares = s.shares := rfl

@[simp] theorem State.countFcl_straps (s : State) (f : FclCounters → FclCounters) : (s.countFcl f).straps = s.straps := rfl

@[simp] theorem State.countFcl_tagMap (s : State) (f : FclCounters → FclCounters) : (s.countFcl f).tagMap = s.tagMap := rfl

@[simp] theorem State.countFcl_sector (s : State) (f : FclCounters → FclCounters) : (s.countFcl f).sector = s.sector := rfl

@[simp] theorem State.countFcl_mgu (s : State) (f : FclCounters → FclCounters) : (s.countFcl f).mgu = s.mgu := rfl

@[simp] theorem State.countFcl_npTraffic (s : State) (f : FclCounters → FclCounters) : (s.countFcl f).npTraffic = s.npTraffic := rfl

@[simp] theorem State.countFcl_npMgmt (s : State) (f : FclCounters → FclCounters) : (s.countFcl f).npMgmt = s.npMgmt := rfl

@[simp] theorem State.countFcl_fcl (s : State) (f : FclCounters → FclCounters) : (s.countFcl f).fcl = f s.fcl := rfl

/-! ### MGU counters changed -/

@[simp] theorem State.countMgu_pending (s : State) (f : MguCounters → MguCounters) : (s.countMgu f).pending = s.pending := rfl

@[simp] theorem State.countMgu_shares (s : State) (f : MguCounters → MguCounters) : (s.countMgu f).shares = s.shares := rfl

@[simp] theorem State.countMgu_straps (s : State) (f : MguCounters → MguCounters) : (s.countMgu f).straps = s.straps := rfl

@[simp] theorem State.countMgu_tagMap (s : State) (f : MguCounters → MguCounters) : (s.countMgu f).tagMap = s.tagMap := rfl

@[simp] theorem State.countMgu_fcl (s : State) (f : MguCounters → MguCounters) : (s.countMgu f).fcl = s.fcl := rfl

@[simp] theorem State.countMgu_sector (s : State) (f : MguCounters → MguCounters) : (s.countMgu f).sector = s.sector := rfl

@[simp] theorem State.countMgu_npTraffic (s : State) (f : MguCounters → MguCounters) : (s.countMgu f).npTraffic = s.npTraffic := rfl

@[simp] theorem State.countMgu_npMgmt (s : State) (f : MguCounters → MguCounters) : (s.countMgu f).npMgmt = s.npMgmt := rfl

/-! ### A Tag Map entry set -/

@[simp] theorem State.setTag_pending (s : State) (tag : Tag) (e : Option TermNo) : (s.setTag tag e).pending = s.pending := rfl

@[simp] theorem State.setTag_shares (s : State) (tag : Tag) (e : Option TermNo) : (s.setTag tag e).shares = s.shares := rfl

@[simp] theorem State.setTag_straps (s : State) (tag : Tag) (e : Option TermNo) : (s.setTag tag e).straps = s.straps := rfl

@[simp] theorem State.setTag_fcl (s : State) (tag : Tag) (e : Option TermNo) : (s.setTag tag e).fcl = s.fcl := rfl

@[simp] theorem State.setTag_sector (s : State) (tag : Tag) (e : Option TermNo) : (s.setTag tag e).sector = s.sector := rfl

@[simp] theorem State.setTag_mgu (s : State) (tag : Tag) (e : Option TermNo) : (s.setTag tag e).mgu = s.mgu := rfl

@[simp] theorem State.setTag_npTraffic (s : State) (tag : Tag) (e : Option TermNo) : (s.setTag tag e).npTraffic = s.npTraffic := rfl

@[simp] theorem State.setTag_npMgmt (s : State) (tag : Tag) (e : Option TermNo) : (s.setTag tag e).npMgmt = s.npMgmt := rfl

@[simp] theorem State.setTag_tagEntry (s : State) (tag j : Tag) (e : Option TermNo) :
    (s.setTag tag e).tagEntry j = if j = tag then e else s.tagEntry j := Table.read_write none s.tagMap tag j e

/-! ### A notice sent or kept waiting (R175) -/

@[simp] theorem State.sendNotice_pending (s : State) : s.sendNotice.pending = s.pending := by
  unfold State.sendNotice; split <;> rfl

@[simp] theorem State.flagNotice_pending (s : State) : s.flagNotice.pending = s.pending := rfl

@[simp] theorem State.sendNotice_shares (s : State) : s.sendNotice.shares = s.shares := by
  unfold State.sendNotice; split <;> rfl

@[simp] theorem State.flagNotice_shares (s : State) : s.flagNotice.shares = s.shares := rfl

@[simp] theorem State.sendNotice_straps (s : State) : s.sendNotice.straps = s.straps := by
  unfold State.sendNotice; split <;> rfl

@[simp] theorem State.flagNotice_straps (s : State) : s.flagNotice.straps = s.straps := rfl

@[simp] theorem State.sendNotice_tagMap (s : State) : s.sendNotice.tagMap = s.tagMap := by
  unfold State.sendNotice; split <;> rfl

@[simp] theorem State.flagNotice_tagMap (s : State) : s.flagNotice.tagMap = s.tagMap := rfl

@[simp] theorem State.sendNotice_fcl (s : State) : s.sendNotice.fcl = s.fcl := by
  unfold State.sendNotice; split <;> rfl

@[simp] theorem State.flagNotice_fcl (s : State) : s.flagNotice.fcl = s.fcl := rfl

@[simp] theorem State.sendNotice_sector (s : State) : s.sendNotice.sector = s.sector := by
  unfold State.sendNotice; split <;> rfl

@[simp] theorem State.flagNotice_sector (s : State) : s.flagNotice.sector = s.sector := rfl

@[simp] theorem State.sendNotice_npTraffic (s : State) : s.sendNotice.npTraffic = s.npTraffic := by
  unfold State.sendNotice; split <;> rfl

@[simp] theorem State.flagNotice_npTraffic (s : State) : s.flagNotice.npTraffic = s.npTraffic := rfl

@[simp] theorem State.sendNotice_buffer (s : State) : s.sendNotice.mgu.buffer = s.mgu.buffer := by
  unfold State.sendNotice; split <;> rfl

@[simp] theorem State.sendNotice_station (s : State) : s.sendNotice.mgu.station = s.mgu.station := by
  unfold State.sendNotice; split <;> rfl

@[simp] theorem State.sendNotice_enables (s : State) : s.sendNotice.mgu.enables = s.mgu.enables := by
  unfold State.sendNotice; split <;> rfl

@[simp] theorem State.sendNotice_noticeDest (s : State) : s.sendNotice.mgu.noticeDest = s.mgu.noticeDest := by
  unfold State.sendNotice; split <;> rfl

@[simp] theorem State.sendNotice_outstanding (s : State) : s.sendNotice.mgu.outstanding = s.mgu.outstanding := by
  unfold State.sendNotice; split <;> rfl

@[simp] theorem State.flagNotice_buffer (s : State) : s.flagNotice.mgu.buffer = s.mgu.buffer := rfl

@[simp] theorem State.flagNotice_taking (s : State) : s.flagNotice.mgu.taking = s.mgu.taking := rfl

@[simp] theorem State.flagNotice_station (s : State) : s.flagNotice.mgu.station = s.mgu.station := rfl

@[simp] theorem State.flagNotice_enables (s : State) : s.flagNotice.mgu.enables = s.mgu.enables := rfl

@[simp] theorem State.flagNotice_noticeDest (s : State) : s.flagNotice.mgu.noticeDest = s.mgu.noticeDest := rfl

@[simp] theorem State.flagNotice_ctr (s : State) : s.flagNotice.mgu.ctr = s.mgu.ctr := rfl

@[simp] theorem State.flagNotice_npMgmt (s : State) : s.flagNotice.npMgmt = s.npMgmt := rfl

/-! ### Records read after a change -/

@[simp] theorem Sector.term_modTerm (s : Sector) (t u : TermNo) (f : Terminal → Terminal) :
    (s.modTerm t f).term u = if u = t then f (s.term t) else s.term u :=
  Table.read_write Terminal.powerOn s.terms t u (f (s.term t))

@[simp] theorem Sector.car_modTerm (s : Sector) (t : TermNo) (c : CarrierNo) (f : Terminal → Terminal) :
    (s.modTerm t f).car c = s.car c := rfl

@[simp] theorem Sector.term_modCar (s : Sector) (c : CarrierNo) (t : TermNo) (f : Carrier → Carrier) :
    (s.modCar c f).term t = s.term t := rfl

@[simp] theorem Sector.car_modCar (s : Sector) (c d : CarrierNo) (f : Carrier → Carrier) :
    (s.modCar c f).car d = if d = c then f (s.car c) else s.car d := by
  unfold Sector.car Sector.modCar
  by_cases h : d = c
  · subst h; simp
  · have hne : ¬ c.val = d.val := fun e => h (Fin.ext e.symm)
    simp [h, hne]

@[simp] theorem Sector.profile_setProfile (s : Sector) (p q : ProfileNo) (x : Profile) :
    (s.setProfile p x).profile q = if q = p then x else s.profile q := by
  unfold Sector.profile Sector.setProfile
  by_cases h : q = p
  · subst h; simp
  · have hne : ¬ p.val = q.val := fun e => h (Fin.ext e.symm)
    simp [h, hne]

@[simp] theorem Sector.term_handOut (s : Sector) (t : TermNo) (l : List MlOut) : (s.handOut l).term t = s.term t := rfl

@[simp] theorem Sector.car_handOut (s : Sector) (c : CarrierNo) (l : List MlOut) : (s.handOut l).car c = s.car c := rfl

@[simp] theorem Sector.term_note (s : Sector) (t : TermNo) (f : EventSets → EventSets) : (s.note f).term t = s.term t := rfl

@[simp] theorem Sector.car_note (s : Sector) (c : CarrierNo) (f : EventSets → EventSets) : (s.note f).car c = s.car c := rfl

@[simp] theorem Sector.term_countHfs (s : Sector) (t : TermNo) (f : HfsCounters → HfsCounters) : (s.countHfs f).term t = s.term t := rfl

@[simp] theorem Sector.car_countHfs (s : Sector) (c : CarrierNo) (f : HfsCounters → HfsCounters) : (s.countHfs f).car c = s.car c := rfl

@[simp] theorem Sector.term_countPld (s : Sector) (t : TermNo) (f : PldCounters → PldCounters) : (s.countPld f).term t = s.term t := rfl

@[simp] theorem Sector.car_countPld (s : Sector) (c : CarrierNo) (f : PldCounters → PldCounters) : (s.countPld f).car c = s.car c := rfl

@[simp] theorem Sector.term_giveBack (s : Sector) (t : TermNo) (q : List HeldFrame) : (s.giveBack q).term t = s.term t := rfl

@[simp] theorem Sector.car_giveBack (s : Sector) (c : CarrierNo) (q : List HeldFrame) : (s.giveBack q).car c = s.car c := rfl

/-! ### Slots and cells -/

@[simp] theorem Carrier.slotUse_setSlot (k : Carrier) (x y : SlotNo) (u : SlotUse) :
    (k.setSlot x u).slotUse y = if y = x then u else k.slotUse y := Table.read_write _ k.slots x y u

@[simp] theorem Row.cell_setCell (r : Row) (x y : SlotNo) (z : Cell) :
    (r.setCell x z).cell y = if y = x then z else r.cell y := Table.read_write _ r.cells x y z

@[simp] theorem Row.setCell_frame (r : Row) (x : SlotNo) (z : Cell) : (r.setCell x z).frame = r.frame := rfl

@[simp] theorem Row.setCell_filled (r : Row) (x : SlotNo) (z : Cell) : (r.setCell x z).filled = r.filled := rfl

end Sys2Proof.Machine
end

