-- ==== Sys2Proof/Laws/Keeps.lean ====
section
/-! SUPPORT. What the operations of the link side keep: one lemma for each, so that a proof about an event composes them. -/

namespace Sys2Proof.Machine

/-! ### Sums over the terminals -/

theorem sum_map_eq_of_other {f g : TermNo → Nat} {t : TermNo} {l : List TermNo} (hn : l.Nodup)
    (h : ∀ u, u ≠ t → f u = g u) (hm : t ∈ l) : (l.map f).sum + g t = (l.map g).sum + f t := by
  induction l with
  | nil => cases hm
  | cons a l ih =>
    rw [List.nodup_cons] at hn
    simp only [List.map_cons, List.sum_cons]
    by_cases ha : a = t
    · subst ha
      have : l.map f = l.map g := List.map_congr_left fun u hu => h u fun e => hn.1 (e ▸ hu)
      rw [this]; omega
    · have hm' : t ∈ l := (List.mem_cons.1 hm).resolve_left fun e => ha e.symm
      have := ih hn.2 hm'
      have hfa := h a ha
      omega

theorem Sector.heldFrames_modTerm (s : Sector) (t : TermNo) (f : Terminal → Terminal) :
    (s.modTerm t f).heldFrames + (s.term t).hold.frames = s.heldFrames + (f (s.term t)).hold.frames := by
  have h := sum_map_eq_of_other (f := fun u => ((s.modTerm t f).term u).hold.frames)
    (g := fun u => (s.term u).hold.frames) (t := t) (List.nodup_finRange 256)
    (fun u hu => by simp [hu]) (List.mem_finRange t)
  simpa [Sector.heldFrames, allTerminals] using h

theorem Sector.heldBlocks_modTerm (s : Sector) (t : TermNo) (f : Terminal → Terminal) :
    (s.modTerm t f).heldBlocks + (s.term t).hold.blocks = s.heldBlocks + (f (s.term t)).hold.blocks := by
  have h := sum_map_eq_of_other (f := fun u => ((s.modTerm t f).term u).hold.blocks)
    (g := fun u => (s.term u).hold.blocks) (t := t) (List.nodup_finRange 256)
    (fun u hu => by simp [hu]) (List.mem_finRange t)
  simpa [Sector.heldBlocks, allTerminals] using h

/-! ### The relation -/

theorem Sector.Keeps.rfl' (s : Sector) : s.Keeps s :=
  ⟨fun _ => rfl, fun _ => rfl, fun _ => rfl, fun _ => rfl, rfl, rfl, id, rfl, rfl, [], (List.append_nil _).symm⟩

theorem Sector.Keeps.trans {a b c : Sector} (h : a.Keeps b) (g : b.Keeps c) : a.Keeps c where
  cfg t := (g.cfg t).trans (h.cfg t)
  settings x := (g.settings x).trans (h.settings x)
  frames x := (g.frames x).trans (h.frames x)
  rows x := (g.rows x).trans (h.rows x)
  profiles := g.profiles.trans h.profiles
  storeLowMark := g.storeLowMark.trans h.storeLowMark
  canonical x := g.canonical (h.canonical x)
  descriptors := g.descriptors.trans h.descriptors
  blocks := g.blocks.trans h.blocks
  handed := by
    obtain ⟨l, hl⟩ := h.handed
    obtain ⟨m, hm⟩ := g.handed
    exact ⟨l ++ m, by rw [hm, hl, List.append_assoc]⟩

theorem Sector.canonical_modTerm {s : Sector} (t : TermNo) (f : Terminal → Terminal) (h : s.canonical) :
    (s.modTerm t f).canonical := ⟨Table.wf_write _ _ _ h.1, h.2⟩

/-- A record changed in fields other than its configuration and held queue. -/
theorem Sector.Keeps.modTerm (s : Sector) (t : TermNo) (f : Terminal → Terminal)
    (hc : (f (s.term t)).cfg = (s.term t).cfg) (hq : (f (s.term t)).hold.queue = (s.term t).hold.queue) :
    s.Keeps (s.modTerm t f) where
  cfg u := by
    rw [Sector.term_modTerm]
    split
    · next h => rw [hc, h]
    · rfl
  settings _ := rfl
  frames _ := rfl
  rows _ := rfl
  profiles := rfl
  storeLowMark := rfl
  canonical := Sector.canonical_modTerm t f
  descriptors := by
    have h := s.heldFrames_modTerm t f
    simp only [HoldFields.frames, hq] at h
    simp only [Sector.modTerm_freeDescriptors]
    omega
  blocks := by
    have h := s.heldBlocks_modTerm t f
    simp only [HoldFields.blocks, hq] at h
    simp only [Sector.modTerm_freeBlocks]
    omega
  handed := ⟨[], (List.append_nil _).symm⟩

/-- A carrier record changed in fields other than its settings, its frame number and its rows' frames. -/
theorem Sector.Keeps.modCar (s : Sector) (c : CarrierNo) (f : Carrier → Carrier)
    (hs : (f (s.car c)).cfg = (s.car c).cfg) (hl : (f (s.car c)).frames = (s.car c).frames)
    (hr : (f (s.car c)).calendar.map Row.frame = (s.car c).calendar.map Row.frame)
    (hk : (s.car c).canonical → (f (s.car c)).canonical) : s.Keeps (s.modCar c f) where
  cfg _ := rfl
  settings d := by
    rw [Sector.car_modCar]; split
    · next h => rw [hs, h]
    · rfl
  frames d := by
    rw [Sector.car_modCar]; split
    · next h => rw [hl, h]
    · rfl
  rows d := by
    rw [Sector.car_modCar]; split
    · next h => rw [hr, h]
    · rfl
  profiles := rfl
  storeLowMark := rfl
  canonical h := ⟨h.1, fun d => by
    rw [Sector.car_modCar]; split
    · exact hk (h.2 c)
    · exact h.2 d⟩
  descriptors := rfl
  blocks := rfl
  handed := ⟨[], (List.append_nil _).symm⟩

/-- A change of a carrier that leaves its settings, frame number, calendar and slots. -/
theorem Sector.Keeps.modCarPlain (s : Sector) (c : CarrierNo) (f : Carrier → Carrier)
    (hs : (f (s.car c)).cfg = (s.car c).cfg) (hl : (f (s.car c)).frames = (s.car c).frames)
    (hr : (f (s.car c)).calendar = (s.car c).calendar) (hk : (f (s.car c)).slots = (s.car c).slots) :
    s.Keeps (s.modCar c f) :=
  Sector.Keeps.modCar s c f hs hl (by rw [hr]) fun h => ⟨by rw [hk]; exact h.1, by rw [hr]; exact h.2⟩

theorem Sector.Keeps.note (s : Sector) (f : EventSets → EventSets) : s.Keeps (s.note f) :=
  ⟨fun _ => rfl, fun _ => rfl, fun _ => rfl, fun _ => rfl, rfl, rfl, id, rfl, rfl, [], (List.append_nil _).symm⟩

theorem Sector.Keeps.countHfs (s : Sector) (f : HfsCounters → HfsCounters) : s.Keeps (s.countHfs f) :=
  ⟨fun _ => rfl, fun _ => rfl, fun _ => rfl, fun _ => rfl, rfl, rfl, id, rfl, rfl, [], (List.append_nil _).symm⟩

theorem Sector.Keeps.countPld (s : Sector) (f : PldCounters → PldCounters) : s.Keeps (s.countPld f) :=
  ⟨fun _ => rfl, fun _ => rfl, fun _ => rfl, fun _ => rfl, rfl, rfl, id, rfl, rfl, [], (List.append_nil _).symm⟩

/-- What a list of steps keeps. -/
theorem Sector.Keeps.foldl {α : Type} (f : Sector → α → Sector) (h : ∀ (s : Sector) (a : α), s.Keeps (f s a)) (l : List α) (s : Sector) :
    s.Keeps (l.foldl f s) := by
  induction l generalizing s with
  | nil => exact .rfl' s
  | cons a l ih => exact (h s a).trans (ih _)

theorem Sector.Keeps.ite {s a b : Sector} {p : Prop} [Decidable p] (ha : s.Keeps a) (hb : s.Keeps b) :
    s.Keeps (if p then a else b) := by
  split
  · exact ha
  · exact hb

/-! ### One more change -/

section
variable {s a : Sector} (h : s.Keeps a)
include h

theorem Sector.Keeps.andTerm {t : TermNo} {f : Terminal → Terminal} (hc : (f (a.term t)).cfg = (a.term t).cfg)
    (hq : (f (a.term t)).hold.queue = (a.term t).hold.queue) : s.Keeps (a.modTerm t f) := h.trans (.modTerm a t f hc hq)

theorem Sector.Keeps.andPlain {c : CarrierNo} {f : Carrier → Carrier} (hs : (f (a.car c)).cfg = (a.car c).cfg)
    (hl : (f (a.car c)).frames = (a.car c).frames) (hr : (f (a.car c)).calendar = (a.car c).calendar)
    (hk : (f (a.car c)).slots = (a.car c).slots) : s.Keeps (a.modCar c f) := h.trans (.modCarPlain a c f hs hl hr hk)

theorem Sector.Keeps.andNote (f : EventSets → EventSets) : s.Keeps (a.note f) := h.trans (.note a f)

theorem Sector.Keeps.andHfs (f : HfsCounters → HfsCounters) : s.Keeps (a.countHfs f) := h.trans (.countHfs a f)

theorem Sector.Keeps.andPld (f : PldCounters → PldCounters) : s.Keeps (a.countPld f) := h.trans (.countPld a f)

theorem Sector.Keeps.andFoldl {α : Type} (f : Sector → α → Sector) (hf : ∀ (s : Sector) (x : α), s.Keeps (f s x))
    (l : List α) : s.Keeps (l.foldl f a) := h.trans (.foldl f hf l a)

theorem Sector.Keeps.andState {before : Sector} {t : TermNo} : s.Keeps (Sector.noteStateChange before a t) := by
  unfold Sector.noteStateChange
  exact .ite h (h.andNote _)

end

/-! ### Slots, rows and cells -/

theorem Carrier.setSlot_canonical {k : Carrier} (x : SlotNo) (u : SlotUse) (h : k.canonical) :
    (k.setSlot x u).canonical := ⟨Table.wf_write _ _ _ h.1, h.2⟩

theorem Carrier.foldl_setSlot (f : Carrier → SlotNo → SlotUse) (l : List SlotNo) (k : Carrier) :
    (l.foldl (fun x y => x.setSlot y (f x y)) k).cfg = k.cfg ∧
    (l.foldl (fun x y => x.setSlot y (f x y)) k).frames = k.frames ∧
    (l.foldl (fun x y => x.setSlot y (f x y)) k).calendar = k.calendar ∧
    (k.canonical → (l.foldl (fun x y => x.setSlot y (f x y)) k).canonical) := by
  induction l generalizing k with
  | nil => exact ⟨rfl, rfl, rfl, id⟩
  | cons y l ih =>
    obtain ⟨h₁, h₂, h₃, h₄⟩ := ih (k.setSlot y (f k y))
    exact ⟨h₁, h₂, h₃, fun h => h₄ (Carrier.setSlot_canonical _ _ h)⟩

/-- A change of slots by a fold keeps. -/
theorem Sector.Keeps.andSlots {s a : Sector} (h : s.Keeps a) {c : CarrierNo} (f : Carrier → SlotNo → SlotUse)
    (l : List SlotNo) : s.Keeps (a.modCar c fun k => l.foldl (fun x y => x.setSlot y (f x y)) k) := by
  obtain ⟨h₁, h₂, h₃, h₄⟩ := Carrier.foldl_setSlot f l (a.car c)
  exact h.trans (.modCar a c _ h₁ h₂ (by rw [h₃]) h₄)

theorem Carrier.rows_map {k : Carrier} (f : Row → Row) (hf : ∀ r, (f r).frame = r.frame) :
    (k.calendar.map f).map Row.frame = k.calendar.map Row.frame := by
  rw [List.map_map]; exact List.map_congr_left fun r _ => hf r

/-- A change of rows, each keeping its frame and canonical form, keeps. -/
theorem Sector.Keeps.andRows {s a : Sector} (h : s.Keeps a) {c : CarrierNo} {f : Carrier → Carrier} (g : Row → Row)
    (hg : ∀ r, (g r).frame = r.frame) (hw : ∀ r, Table.wf .empty r.cells = true → Table.wf .empty (g r).cells = true)
    (hs : (f (a.car c)).cfg = (a.car c).cfg) (hl : (f (a.car c)).frames = (a.car c).frames)
    (hk : (a.car c).canonical → Table.wf .opened (f (a.car c)).slots = true)
    (hr : (f (a.car c)).calendar = (a.car c).calendar.map g) : s.Keeps (a.modCar c f) := by
  refine h.trans (.modCar a c f hs hl (by rw [hr]; exact Carrier.rows_map g hg) fun hc => ⟨hk hc, fun r hm => ?_⟩)
  rw [hr] at hm
  obtain ⟨r', hm', rfl⟩ := List.mem_map.1 hm
  exact hw r' (hc.2 r' hm')

theorem Row.setCell_wf {r : Row} (x : SlotNo) (z : Cell) (h : Table.wf .empty r.cells = true) :
    Table.wf .empty (r.setCell x z).cells = true := Table.wf_write _ _ _ h

theorem Sector.Keeps.andCell {s a : Sector} (h : s.Keeps a) (c : CarrierNo) (u : FrameNo) (x : SlotNo) (z : Cell) :
    s.Keeps (a.modCar c fun k => k.setCell u x z) := by
  refine h.andRows (fun r => if r.frame = u then r.setCell x z else r) (fun r => ?_) (fun r hr => ?_) rfl rfl
    (fun hc => hc.1) rfl
  · split <;> rfl
  · split
    · exact Row.setCell_wf x z hr
    · exact hr

theorem Sector.Keeps.andClear {s a : Sector} (h : s.Keeps a) (c : CarrierNo) :
    s.Keeps (a.modCar c Carrier.clearCalendar) :=
  h.andRows (fun r => { r with filled := false, cells := [] }) (fun _ => rfl) (fun _ _ => Table.wf_nil _) rfl rfl
    (fun hc => hc.1) rfl

end Sys2Proof.Machine
end

