-- ==== Sys2Proof/Laws/LinkSide.lean ====
section
/-! SUPPORT. What each operation of the link side keeps (`Sector.Keeps`), block by block. -/

namespace Sys2Proof.Machine

theorem Sector.handOut_keeps (s : Sector) (l : List MlOut) : s.Keeps (s.handOut l) :=
  ⟨fun _ => rfl, fun _ => rfl, fun _ => rfl, fun _ => rfl, rfl, rfl, id, rfl, rfl, l, rfl⟩

/-! ### The Held-Frame Store -/

theorem blocksOf_append (p q : List HeldFrame) : blocksOf (p ++ q) = blocksOf p + blocksOf q := by
  simp [blocksOf]

/-- Frames `out` leave the queue of `t` for the free pools. -/
theorem Sector.Keeps.giveBack (s : Sector) (t : TermNo) (out : List HeldFrame) (f : Terminal → Terminal)
    (hc : (f (s.term t)).cfg = (s.term t).cfg)
    (hf : (s.term t).hold.frames = out.length + (f (s.term t)).hold.frames)
    (hb : (s.term t).hold.blocks = blocksOf out + (f (s.term t)).hold.blocks) :
    s.Keeps ((s.giveBack out).modTerm t f) where
  cfg u := by
    rw [Sector.term_modTerm]
    split
    · next h => rw [h]; exact hc
    · rfl
  settings _ := rfl
  frames _ := rfl
  rows _ := rfl
  profiles := rfl
  storeLowMark := rfl
  canonical h := Sector.canonical_modTerm (s := s.giveBack out) t f h
  descriptors := by
    have h := (s.giveBack out).heldFrames_modTerm t f
    have e : (s.giveBack out).heldFrames = s.heldFrames := rfl
    simp only [Sector.term_giveBack] at h
    simp only [Sector.modTerm_freeDescriptors, Sector.giveBack_freeDescriptors]
    omega
  blocks := by
    have h := (s.giveBack out).heldBlocks_modTerm t f
    have e : (s.giveBack out).heldBlocks = s.heldBlocks := rfl
    simp only [Sector.term_giveBack] at h
    simp only [Sector.modTerm_freeBlocks, Sector.giveBack_freeBlocks]
    omega
  handed := ⟨[], (List.append_nil _).symm⟩

theorem HoldFields.idleIfEmpty_queue (h : HoldFields) : h.idleIfEmpty.queue = h.queue := by
  unfold HoldFields.idleIfEmpty HoldFields.toIdle; split <;> rfl

theorem Sector.noteStoreLow_keeps (s : Sector) (n : Nat) : s.Keeps (s.noteStoreLow n) := by
  unfold Sector.noteStoreLow
  exact .ite (.andNote (.ite (.countHfs _ _) (.rfl' _)) _) (.rfl' _)

theorem Sector.appendFrame_keeps (s : Sector) (t : TermNo) (bytes : List Byte) (a : FrameNo)
    (hf : s.fits t (frameLength bytes) = true) : s.Keeps (s.appendFrame t bytes a) := by
  simp only [Sector.fits, Bool.and_eq_true, decide_eq_true_eq] at hf
  unfold Sector.appendFrame
  refine .trans ?_ (Sector.noteStoreLow_keeps _ _)
  refine .andHfs (.andTerm ?_ rfl rfl) _
  set taken : Sector := { s with freeDescriptors := s.freeDescriptors - 1
                                 freeBlocks := s.freeBlocks - blocksFor (frameLength bytes) } with htaken
  have ht : ∀ u, taken.term u = s.term u := fun _ => rfl
  refine ⟨fun u => ?_, fun _ => rfl, fun _ => rfl, fun _ => rfl, rfl, rfl, fun h => ?_, ?_, ?_,
    [], (List.append_nil _).symm⟩
  · rw [Sector.modHold_def, Sector.term_modTerm]; split
    · next h => rw [h]; rfl
    · rfl
  · exact Sector.canonical_modTerm (s := taken) t _ h
  · have h := taken.heldFrames_modTerm t fun r =>
      { r with hold := { r.hold with queue := r.hold.queue ++ [{ bytes := bytes, arrival := a, age := 0 }] } }
    simp only [HoldFields.frames, List.length_append, List.length_singleton] at h
    have e : taken.heldFrames = s.heldFrames := rfl
    simp only [Sector.modHold_def, Sector.modTerm_freeDescriptors]
    have e₂ : taken.freeDescriptors = s.freeDescriptors - 1 := rfl
    omega
  · have h := taken.heldBlocks_modTerm t fun r =>
      { r with hold := { r.hold with queue := r.hold.queue ++ [{ bytes := bytes, arrival := a, age := 0 }] } }
    simp only [HoldFields.blocks, blocksOf_append] at h
    have e : taken.heldBlocks = s.heldBlocks := rfl
    simp only [Sector.modHold_def, Sector.modTerm_freeBlocks]
    have e₂ : taken.freeBlocks = s.freeBlocks - blocksFor (frameLength bytes) := rfl
    have e₃ : blocksOf [({ bytes := bytes, arrival := a, age := 0 } : HeldFrame)] = blocksFor (frameLength bytes) := by
      simp [blocksOf, HeldFrame.blocks]
    omega

theorem Sector.arrivalQuota_keeps (s : Sector) (t : TermNo) : s.Keeps (s.arrivalQuota t) :=
  .andHfs (.modTerm s t _ rfl rfl) _

theorem Sector.arrivalPool_keeps (s : Sector) (t : TermNo) : s.Keeps (s.arrivalPool t) :=
  .andNote (.andHfs (.modTerm s t _ rfl rfl) _) _

theorem Sector.dropOldestHead_keeps (s : Sector) (t : TermNo) : s.Keeps (s.dropOldestHead t) := by
  unfold Sector.dropOldestHead
  have h : s.Keeps ((s.giveBack ((s.term t).hold.queue.take 1)).modHold t fun h => { h with queue := h.queue.drop 1 }) := by
    refine .giveBack s t _ _ rfl ?_ ?_
    · simp only [HoldFields.frames, List.length_take, List.length_drop]; omega
    · simp only [HoldFields.blocks]
      rw [← blocksOf_append, List.take_append_drop]
  exact .ite (.andHfs (.andTerm h rfl rfl) _) (.andHfs (.andTerm h rfl rfl) _)

theorem Sector.idleIfEmpty_keeps (s : Sector) (t : TermNo) : s.Keeps (s.modHold t HoldFields.idleIfEmpty) :=
  .modTerm s t _ rfl (HoldFields.idleIfEmpty_queue _)

theorem Sector.makeRoom_keeps (t : TermNo) (bytes : List Byte) (a : FrameNo) (n : Nat) (s : Sector) :
    s.Keeps (s.makeRoom t bytes a n) := by
  induction n generalizing s with
  | zero =>
    unfold Sector.makeRoom
    split
    · next h => exact Sector.appendFrame_keeps s t bytes a h
    · exact (Sector.arrivalPool_keeps s t).trans (Sector.idleIfEmpty_keeps _ t)
  | succ n ih =>
    unfold Sector.makeRoom
    split
    · next h => exact Sector.appendFrame_keeps s t bytes a h
    · exact (Sector.dropOldestHead_keeps s t).trans (ih _)

theorem Sector.offerFrame_keeps (s : Sector) (t : TermNo) (bytes : List Byte) (a : FrameNo) :
    s.Keeps (s.offerFrame t bytes a) := by
  unfold Sector.offerFrame
  dsimp only
  split
  · exact Sector.arrivalQuota_keeps s t
  · split
    · next h => exact Sector.appendFrame_keeps s t bytes a h
    · split
      · exact .ite (Sector.arrivalQuota_keeps s t) (Sector.arrivalPool_keeps s t)
      · exact Sector.makeRoom_keeps t bytes a _ s

theorem Sector.emptyQueue_keeps (s : Sector) (t : TermNo) : s.Keeps (s.emptyQueue t) := by
  unfold Sector.emptyQueue
  refine .giveBack s t _ _ rfl ?_ ?_
  · simp [HoldFields.frames]
  · simp [HoldFields.blocks, blocksOf]

theorem Sector.flush_keeps (s : Sector) (t : TermNo) : s.Keeps (s.flush t) := by
  unfold Sector.flush
  exact .andHfs (.andTerm (Sector.emptyQueue_keeps s t) rfl rfl) _

theorem Sector.discardHeldQueue_keeps (s : Sector) (t : TermNo) : s.Keeps (s.discardHeldQueue t) := by
  unfold Sector.discardHeldQueue
  exact .andHfs (.andTerm (Sector.emptyQueue_keeps s t) rfl rfl) _

theorem Sector.ageDiscard_keeps (s : Sector) (t : TermNo) : s.Keeps (s.ageDiscard t) := by
  unfold Sector.ageDiscard
  dsimp only
  refine .ite (.rfl' s) (.andHfs (.andTerm ?_ rfl rfl) _)
  set p := HeldFrame.tooOld (s.term t).cfg.holdAge
  have e := List.takeWhile_append_dropWhile (p := p) (l := (s.term t).hold.queue)
  refine .giveBack s t _ _ rfl ?_ ?_
  · simp only [HoldFields.frames, HoldFields.idleIfEmpty_queue]
    rw [← List.length_append, e]
  · simp only [HoldFields.blocks, HoldFields.idleIfEmpty_queue]
    rw [← blocksOf_append, e]

theorem Sector.older_keeps (s : Sector) (t : TermNo) :
    s.Keeps (s.modHold t fun h => { h with queue := h.queue.map fun e => { e with age := e.age + 1 } }) := by
  have h := Sector.Keeps.giveBack s t [] (fun r =>
    { r with hold := { r.hold with queue := r.hold.queue.map fun e => { e with age := e.age + 1 } } }) rfl
    (by simp [HoldFields.frames])
    (by simp only [HoldFields.blocks, blocksOf, List.map_map, List.map_nil, List.sum_nil, Nat.zero_add]; rfl)
  have e : s.giveBack [] = s := rfl
  rwa [e] at h

theorem Sector.ageQueue_keeps (s : Sector) (t : TermNo) : s.Keeps (s.ageQueue t) :=
  (Sector.older_keeps s t).trans (Sector.ageDiscard_keeps _ t)

theorem HoldFields.yieldEnd_queue (h : HoldFields) : h.yieldEnd.queue = h.queue := by
  unfold HoldFields.yieldEnd; split <;> rfl

theorem HoldFields.yieldTick_queue (h : HoldFields) : h.yieldTick.queue = h.queue := by
  unfold HoldFields.yieldTick
  split
  · split
    · exact HoldFields.yieldEnd_queue h
    · rfl
  · rfl

theorem HoldFields.pauseFlag_queue (m : BackPressure) (p : Nat) (f : Bool) (h : HoldFields) :
    (h.pauseFlag m p f).queue = h.queue := by
  unfold HoldFields.pauseFlag
  cases h.release <;> cases m <;> cases f <;> rfl

theorem Sector.takePauseFlag_keeps (s : Sector) (t : TermNo) (f : Bool) : s.Keeps (s.takePauseFlag t f) := by
  unfold Sector.takePauseFlag
  exact .modTerm s t _ rfl (HoldFields.pauseFlag_queue _ _ _ _)

theorem Sector.releaseFrames_keeps (s : Sector) (c : CarrierNo) (t : TermNo) (n : Nat) :
    s.Keeps (s.releaseFrames c t n) := by
  unfold Sector.releaseFrames
  refine Sector.Keeps.trans (.andHfs (.andTerm (.giveBack s t _ _ rfl ?_ ?_) rfl rfl) _) (Sector.handOut_keeps _ _)
  · simp only [HoldFields.frames, HoldFields.idleIfEmpty_queue, List.length_take, List.length_drop]; omega
  · simp only [HoldFields.blocks, HoldFields.idleIfEmpty_queue]
    rw [← blocksOf_append, List.take_append_drop]

theorem releaseVisit_keeps (c : CarrierNo) (a : Sector × Nat) (t : TermNo) : a.1.Keeps (releaseVisit c a t).1 := by
  unfold releaseVisit
  dsimp only
  split
  · split
    · exact .rfl' _
    · dsimp only
      exact .andPlain (Sector.releaseFrames_keeps a.1 c t _) rfl rfl rfl rfl
  · exact .rfl' _

theorem foldl_pair_keeps {β : Type} (f : Sector × Nat → β → Sector × Nat)
    (h : ∀ (a : Sector × Nat) (x : β), a.1.Keeps (f a x).1) (l : List β) (a : Sector × Nat) :
    a.1.Keeps (l.foldl f a).1 := by
  induction l generalizing a with
  | nil => exact .rfl' _
  | cons x l ih => exact (h a x).trans (ih _)

theorem Sector.releaseArbiter_keeps (s : Sector) (c : CarrierNo) : s.Keeps (s.releaseArbiter c) :=
  foldl_pair_keeps (releaseVisit c) (releaseVisit_keeps c) _ (s, _)

theorem Sector.hfsFrame_keeps (s : Sector) (c : CarrierNo) : s.Keeps (s.hfsFrame c) := by
  unfold Sector.hfsFrame
  refine .trans (.andFoldl (.foldl _ Sector.ageQueue_keeps _ _) _ (fun x t => ?_) _) (Sector.releaseArbiter_keeps _ c)
  exact .modTerm x t _ rfl (HoldFields.yieldTick_queue _)

/-! ### The Profile Ladder -/

theorem Sector.makePending_keeps (s : Sector) (t : TermNo) (p : ProfileNo) (d : Direction) :
    s.Keeps (s.makePending t p d) := by
  unfold Sector.makePending
  exact .andTerm (.ite (.countPld _ _) (.rfl' _)) rfl rfl

theorem Sector.applyPending_keeps (s : Sector) (t : TermNo) (p : PendingProfile) : s.Keeps (s.applyPending t p) := by
  unfold Sector.applyPending
  dsimp only
  split <;> exact .andPld (.andTerm (.modTerm s t _ rfl rfl) rfl rfl) _

theorem Sector.applyReached_keeps (f : FrameNo) (s : Sector) (t : TermNo) : s.Keeps (s.applyReached f t) := by
  unfold Sector.applyReached
  split
  · split
    · exact .ite (Sector.applyPending_keeps s t _) (.rfl' s)
    · exact .rfl' s
  · exact .rfl' s

theorem Sector.pldFrame_keeps (s : Sector) (c : CarrierNo) (f : FrameNo) : s.Keeps (s.pldFrame c f) :=
  .foldl _ (Sector.applyReached_keeps f) _ s

theorem Sector.setStepUp_keeps (s : Sector) (t : TermNo) (n : Nat) : s.Keeps (s.setStepUp t n) := by
  unfold Sector.setStepUp
  exact .modTerm s t _ rfl rfl

theorem Sector.judgeStepDown_keeps (s : Sector) (t : TermNo) (m : Int) : s.Keeps (s.judgeStepDown t m) := by
  unfold Sector.judgeStepDown
  dsimp only
  have h := Sector.setStepUp_keeps s t 0
  repeat' split
  all_goals first
    | exact h
    | exact h.andTerm rfl rfl
    | exact .andPld (h.trans (Sector.makePending_keeps _ _ _ _)) _

theorem Sector.judgeStepUp_keeps (s : Sector) (t : TermNo) (m : Int) (x : Report) : s.Keeps (s.judgeStepUp t m x) := by
  unfold Sector.judgeStepUp
  dsimp only
  repeat' split
  all_goals first
    | exact Sector.setStepUp_keeps s t _
    | exact .andPld ((Sector.setStepUp_keeps s t 0).trans (Sector.makePending_keeps _ _ _ _)) _

theorem Sector.ladderDecision_keeps (s : Sector) (t : TermNo) (x : Report) : s.Keeps (s.ladderDecision t x) :=
  .ite (Sector.judgeStepDown_keeps s t _) (.ite (.rfl' s) (Sector.judgeStepUp_keeps s t _ x))

theorem Sector.completeReport_keeps (s : Sector) (t : TermNo) (x : Report) : s.Keeps (s.completeReport t x) := by
  have h : s.Keeps ((s.modLadder t fun l => { l with assembly := [], report := some x }).countPld
    fun k => { k with reportsCompleted := k.reportsCompleted + 1 }) := .andPld (.modTerm s t _ rfl rfl) _
  exact .ite (h.trans (Sector.ladderDecision_keeps _ t x)) h

theorem Sector.breakAssembly_keeps (s : Sector) (t : TermNo) : s.Keeps (s.breakAssembly t) :=
  .ite (.rfl' s) (.andPld (.andTerm (.modTerm s t _ rfl rfl) rfl rfl) _)

theorem Sector.takeFragment_keeps (s : Sector) (t : TermNo) (x : Fragment) : s.Keeps (s.takeFragment t x) := by
  unfold Sector.takeFragment
  split
  · exact .andTerm (Sector.breakAssembly_keeps s t) rfl rfl
  · split
    · exact .countPld s _
    · exact Sector.completeReport_keeps s t _
    · exact .modTerm s t _ rfl rfl

theorem Sector.takeSnr_keeps (s : Sector) (t : TermNo) (n : Nat) : s.Keeps (s.takeSnr t n) := by
  unfold Sector.takeSnr
  exact .modTerm s t _ rfl rfl

theorem Sector.fadeStepDown_keeps (s : Sector) (t : TermNo) : s.Keeps (s.fadeStepDown t) := by
  unfold Sector.fadeStepDown
  dsimp only
  repeat' split
  all_goals first
    | exact .rfl' s
    | exact .andPld (Sector.makePending_keeps s t _ _) _

/-! ### Slots, grants, the queue and the ranging set -/

theorem Sector.mapSlots_keeps (s : Sector) (c : CarrierNo) (f : SlotUse → SlotUse) (l : List SlotNo) :
    s.Keeps (s.modCar c fun k => k.mapSlots f l) := .andSlots (.rfl' s) (fun x y => f (x.slotUse y)) l

theorem Sector.lend_keeps (s : Sector) (t : TermNo) : s.Keeps (s.lend t) := Sector.mapSlots_keeps s _ _ _

theorem Sector.lendingCheck_keeps (s : Sector) (t : TermNo) : s.Keeps (s.lendingCheck t) :=
  .ite (Sector.lend_keeps s t) (.rfl' s)

theorem Sector.startReclaim_keeps (s : Sector) (t : TermNo) : s.Keeps (s.startReclaim t) := by
  unfold Sector.startReclaim
  exact .andTerm (Sector.mapSlots_keeps s _ _ _) rfl rfl

theorem Sector.stopReclaim_keeps (s : Sector) (t : TermNo) : s.Keeps (s.stopReclaim t) := by
  unfold Sector.stopReclaim
  exact .andTerm (Sector.mapSlots_keeps s _ _ _) rfl rfl

theorem Carrier.clearGrant_eq (k : Carrier) (t : TermNo) (g : GrantRef) :
    k.clearGrant t g = k ∨ k.clearGrant t g = k.setCell g.frame g.slot .empty := by
  unfold Carrier.clearGrant
  split
  · split
    · exact Or.inr rfl
    · exact Or.inl rfl
  · exact Or.inl rfl

theorem Sector.modCar_congr (s : Sector) (c : CarrierNo) {f g : Carrier → Carrier} (h : f (s.car c) = g (s.car c)) :
    s.modCar c f = s.modCar c g := by
  have h' : f s.cars[c] = g s.cars[c] := h
  simp only [Sector.modCar, h']

theorem Sector.clearGrant_keeps (s : Sector) (c : CarrierNo) (t : TermNo) (g : GrantRef) :
    s.Keeps (s.modCar c fun k => k.clearGrant t g) := by
  rcases Carrier.clearGrant_eq (s.car c) t g with h | h
  · exact .modCarPlain s c _ (by rw [h]) (by rw [h]) (by rw [h]) (by rw [h])
  · rw [Sector.modCar_congr s c (f := fun k => k.clearGrant t g) (g := fun k => k.setCell g.frame g.slot .empty) h]
    exact .andCell (.rfl' s) _ _ _ _

theorem Sector.withdraw_keeps (s : Sector) (t : TermNo) : s.Keeps (s.withdraw t) := by
  unfold Sector.withdraw
  split
  · exact .rfl' s
  · exact .andPlain (.andTerm (Sector.clearGrant_keeps s _ _ _) rfl rfl) rfl rfl rfl rfl

theorem Sector.refund_keeps (c : CarrierNo) (x : SlotNo) (s : Sector) (g : FrameNo × TermNo) :
    s.Keeps (s.refund c x g) := by
  unfold Sector.refund
  dsimp only
  have h := Sector.Keeps.andPlain (.rfl' s) (c := c) (f := fun k =>
    { k with resCtr := { k.resCtr with grantsRefunded := k.resCtr.grantsRefunded + 1 } }) rfl rfl rfl rfl
  exact .ite (h.andTerm rfl rfl) h

theorem Sector.takeSlot_keeps (c : CarrierNo) (t : TermNo) (s : Sector) (x : SlotNo) : s.Keeps (s.takeSlot c t x) := by
  unfold Sector.takeSlot
  refine .andFoldl ?_ _ (Sector.refund_keeps c x) _
  refine .andRows (.rfl' s) (fun r => r.setCell x .empty) (fun _ => rfl) (fun r hr => Row.setCell_wf x _ hr) rfl rfl ?_ rfl
  exact fun h => Carrier.setSlot_canonical (k := (s.car c).clearColumn x) x (.traffic t) ⟨h.1, fun r hr => by
    obtain ⟨r', hr', rfl⟩ := List.mem_map.1 hr
    exact Row.setCell_wf x _ (h.2 r' hr')⟩ |>.1

theorem Sector.forcedTake_keeps (s : Sector) (t : TermNo) : s.Keeps (s.forcedTake t) := by
  unfold Sector.forcedTake
  exact .andTerm (.foldl _ (Sector.takeSlot_keeps _ t) _ s) rfl rfl

theorem Sector.clearCalendar_keeps (s : Sector) (c : CarrierNo) : s.Keeps (s.clearCalendar c) := by
  refine .andFoldl (.andClear (.rfl' s) c) _ (fun x t => ?_) _
  exact .ite (.modTerm x t _ rfl rfl) (.rfl' x)

theorem Sector.joinQueue_keeps (s : Sector) (t : TermNo) (p : ProfileNo) : s.Keeps (s.joinQueue t p) := by
  unfold Sector.joinQueue
  exact .modCarPlain s _ _ rfl rfl rfl rfl

theorem Sector.leaveQueue_keeps (s : Sector) (t : TermNo) : s.Keeps (s.leaveQueue t) := by
  unfold Sector.leaveQueue
  exact .modCarPlain s _ _ rfl rfl rfl rfl

theorem Sector.modRes_keeps (s : Sector) (c : CarrierNo) (f : Scheduler → Scheduler) : s.Keeps (s.modRes c f) :=
  .modCarPlain s _ _ rfl rfl rfl rfl

theorem Sector.joinRanging_keeps (s : Sector) (t : TermNo) : s.Keeps (s.joinRanging t) := Sector.modRes_keeps s _ _

theorem Sector.leaveRanging_keeps (s : Sector) (t : TermNo) : s.Keeps (s.leaveRanging t) := Sector.modRes_keeps s _ _

end Sys2Proof.Machine
end

