-- ==== Sys2Proof/Laws/Supervision.lean ====
section
/-! SUPPORT. What the Link Supervisor, the Ranging Unit, the Re-entry Scheduler, the Carrier Controller and the Directive
Composer keep (`Sector.Keeps`). -/

namespace Sys2Proof.Machine

/-! ### Leaving and entering link states -/

theorem Sector.leaveTrimming_keeps (s : Sector) (t : TermNo) (how : Departure) : s.Keeps (s.leaveTrimming t how) := by
  unfold Sector.leaveTrimming
  have h := Sector.leaveRanging_keeps s t
  refine .andTerm ?_ rfl rfl
  split
  · exact h
  · exact .andPlain (h.trans (Sector.withdraw_keeps _ t)) rfl rfl rfl rfl
  · exact .andPlain (.andTerm h rfl rfl) rfl rfl rfl rfl

theorem Sector.leave_keeps (s : Sector) (t : TermNo) (how : Departure) : s.Keeps (s.leave t how) := by
  unfold Sector.leave
  split
  · exact .rfl' s
  · exact .rfl' s
  · exact .rfl' s
  · exact Sector.leaveQueue_keeps s t
  · exact Sector.leaveTrimming_keeps s t how
  · exact .andTerm (Sector.stopReclaim_keeps s t) rfl rfl
  · exact .modTerm s t _ rfl rfl
  · exact .modTerm s t _ rfl rfl

theorem HoldFields.startRelease_queue (h : HoldFields) : h.startRelease.queue = h.queue := by
  unfold HoldFields.startRelease; split <;> rfl

theorem HoldFields.suspend_queue (h : HoldFields) : h.suspend.queue = h.queue := by
  unfold HoldFields.suspend; split <;> rfl

theorem Sector.enterDark_keeps (s : Sector) (t : TermNo) (old : LinkState) : s.Keeps (s.enterDark t old) := by
  unfold Sector.enterDark
  exact .trans (.modTerm s t _ rfl rfl) (Sector.lendingCheck_keeps _ t)

theorem Sector.enterCalled_keeps (s : Sector) (t : TermNo) (k : Bool) (p : ProfileNo) : s.Keeps (s.enterCalled t k p) := by
  unfold Sector.enterCalled
  exact .andTerm (Sector.joinQueue_keeps s t p) rfl rfl

theorem Sector.enterServing_keeps (s : Sector) (t : TermNo) : s.Keeps (s.enterServing t) := by
  unfold Sector.enterServing
  exact .modTerm s t _ rfl (HoldFields.startRelease_queue _)

theorem Sector.enterFading_keeps (s : Sector) (t : TermNo) : s.Keeps (s.enterFading t) := by
  have h : s.Keeps (s.modTerm t Terminal.toFading) := .modTerm s t _ rfl (HoldFields.suspend_queue _)
  exact .ite (h.trans (Sector.fadeStepDown_keeps _ t)) h

theorem Sector.enterGuard_keeps (s : Sector) (t : TermNo) : s.Keeps (s.enterGuard t) := by
  unfold Sector.enterGuard
  exact .trans (.modTerm s t _ rfl rfl) (Sector.lendingCheck_keeps _ t)

theorem Sector.enterHeld_keeps (s : Sector) (t : TermNo) : s.Keeps (s.enterHeld t) := by
  unfold Sector.enterHeld
  exact (Sector.Keeps.modTerm s t _ rfl rfl).trans ((Sector.discardHeldQueue_keeps _ t).trans (Sector.forcedTake_keeps _ t))

theorem Sector.setCause_keeps (s : Sector) (t : TermNo) (x : Cause) : s.Keeps (s.setCause t x) := by
  unfold Sector.setCause
  exact .modTerm s t _ rfl rfl

theorem Sector.oweHalt_keeps (s : Sector) (t : TermNo) : s.Keeps (s.oweHalt t) := by
  unfold Sector.oweHalt
  exact .modTerm s t _ rfl rfl

theorem Sector.oweHaltFrom_keeps (s : Sector) (t : TermNo) (old : LinkState) : s.Keeps (s.oweHaltFrom t old) := by
  unfold Sector.oweHaltFrom
  exact .ite (Sector.oweHalt_keeps s t) (.rfl' s)

theorem Sector.suppress_keeps (s : Sector) (t : TermNo) : s.Keeps (s.suppress t) := by
  unfold Sector.suppress
  exact .modTerm s t _ rfl rfl

theorem Sector.examineAdmission_keeps (s : Sector) (t : TermNo) : s.Keeps (s.examineAdmission t) := by
  unfold Sector.examineAdmission
  exact .ite (.modTerm s t _ rfl rfl) (.rfl' s)

theorem Sector.enterAdmitting_keeps (s : Sector) (t : TermNo) : s.Keeps (s.enterAdmitting t) := by
  unfold Sector.enterAdmitting
  exact (Sector.Keeps.modTerm s t _ rfl rfl).trans
    ((Sector.startReclaim_keeps _ t).trans (Sector.examineAdmission_keeps _ t))

/-! ### Requests on the link state -/

theorem Sector.hold_keeps (s : Sector) (t : TermNo) : s.Keeps (s.hold t) := by
  unfold Sector.hold
  exact .ite (.rfl' s) (.andState
    ((Sector.leave_keeps s t _).trans ((Sector.enterHeld_keeps _ t).trans (Sector.oweHaltFrom_keeps _ t _))))

theorem Sector.releaseTerm_keeps (s : Sector) (t : TermNo) : s.Keeps (s.releaseTerm t) := by
  unfold Sector.releaseTerm
  have h : s.Keeps (s.modLink t fun l => { l with forced := false }) := .modTerm s t _ rfl rfl
  exact .ite (.andState (h.trans ((Sector.leave_keeps _ t _).trans (Sector.enterDark_keeps _ t _)))) h

theorem Sector.fixProfiles_keeps (s : Sector) (t : TermNo) : s.Keeps (s.fixProfiles t) := by
  unfold Sector.fixProfiles
  dsimp only
  split <;> exact .ite (.modTerm s t _ rfl rfl) (.andTerm (.modTerm s t _ rfl rfl) rfl rfl)

theorem Sector.forceTo_keeps (s : Sector) (t : TermNo) (old target : LinkState) : s.Keeps (s.forceTo t old target) := by
  unfold Sector.forceTo
  have h := Sector.leave_keeps s t .request
  dsimp only
  split
  · exact h.trans ((Sector.enterHeld_keeps _ t).trans (Sector.oweHaltFrom_keeps _ t _))
  · exact .trans (.ite (h.trans (Sector.enterDark_keeps _ t _)) h)
      ((Sector.enterGuard_keeps _ t).trans (Sector.oweHaltFrom_keeps _ t _))
  · refine .trans ?_ (Sector.enterServing_keeps _ t)
    unfold Sector.modOwed
    exact .andTerm (h.trans ((Sector.forcedTake_keeps _ t).trans (Sector.fixProfiles_keeps _ t))) rfl rfl
  · exact h.trans ((Sector.enterDark_keeps _ t _).trans (Sector.oweHaltFrom_keeps _ t _))
  all_goals exact .rfl' s

theorem Sector.force_keeps (s : Sector) (t : TermNo) (x : LinkState) : s.Keeps (s.force t x) := by
  unfold Sector.force
  exact .andTerm (.ite (.rfl' s) (.andState (Sector.forceTo_keeps s t _ _))) rfl rfl

theorem Sector.permitTerm_keeps (s : Sector) (t : TermNo) : s.Keeps (s.permitTerm t) := by
  unfold Sector.permitTerm
  exact .trans (.modTerm s t _ rfl rfl) (Sector.examineAdmission_keeps _ t)

/-! ### Calls, bursts, misses -/

theorem Sector.recall_keeps (s : Sector) (t : TermNo) (k : Bool) (p : ProfileNo) : s.Keeps (s.recall t k p) := by
  unfold Sector.recall
  exact .andState ((Sector.setCause_keeps s t _).trans ((Sector.leave_keeps _ t _).trans
    ((Sector.enterDark_keeps _ t _).trans (Sector.enterCalled_keeps _ t k p))))

theorem Sector.callAccepted_keeps (s : Sector) (c : CarrierNo) (t : TermNo) (k : Bool) (p : ProfileNo) :
    s.Keeps (s.callAccepted c t k p) := by
  unfold Sector.callAccepted
  dsimp only
  have h : s.Keeps (s.countTerm t fun x => { x with ignoredCalls := x.ignoredCalls + 1 }) := .modTerm s t _ rfl rfl
  split
  · exact .ite (h.trans (Sector.suppress_keeps _ t)) h
  · split
    · exact h
    · exact h
    · exact h
    · exact .andState ((Sector.leave_keeps s t _).trans (Sector.enterCalled_keeps _ t k p))
    · exact .trans (.andTerm (.modTerm s t _ rfl rfl) rfl rfl) (Sector.modRes_keeps _ _ _)
    · exact Sector.recall_keeps s t k p
    · exact Sector.recall_keeps s t k p
    · exact .ite (.andTerm (.modTerm s t _ rfl rfl) rfl rfl) (.modTerm s t _ rfl rfl)

theorem Sector.lsvGoodBurst_keeps (s : Sector) (t : TermNo) : s.Keeps (s.lsvGoodBurst t) := by
  unfold Sector.lsvGoodBurst
  exact .ite (.andState ((Sector.leave_keeps s t _).trans (Sector.enterServing_keeps _ t))) (.rfl' s)

theorem Sector.fadeOut_keeps (s : Sector) (t : TermNo) : s.Keeps (s.fadeOut t) := by
  unfold Sector.fadeOut
  exact .andState ((Sector.setCause_keeps s t _).trans ((Sector.leave_keeps _ t _).trans (Sector.enterDark_keeps _ t _)))

theorem Sector.lsvMiss_keeps (s : Sector) (t : TermNo) : s.Keeps (s.lsvMiss t) := by
  unfold Sector.lsvMiss
  dsimp only
  have h : s.Keeps (s.countTerm t fun k => { k with misses := k.misses + 1 }) := .modTerm s t _ rfl rfl
  split
  · exact h.trans (Sector.suppress_keeps _ t)
  · split
    · exact .andState (h.trans (Sector.enterFading_keeps _ t))
    · exact .ite (.trans (.andTerm h rfl rfl) (Sector.fadeOut_keeps _ t)) (.andTerm h rfl rfl)
    all_goals exact .rfl' s

/-! ### Timers and counts -/

theorem Sector.lendCompare_keeps (s : Sector) (t : TermNo) : s.Keeps (s.lendCompare t) := by
  unfold Sector.lendCompare
  dsimp only
  have h : s.Keeps (s.modLink t fun l => { l with lendTaken := true }) := .modTerm s t _ rfl rfl
  repeat' split
  all_goals first
    | exact h.trans (Sector.lend_keeps _ t)
    | exact h
    | exact .rfl' s

theorem Sector.warmCompare_keeps (s : Sector) (t : TermNo) : s.Keeps (s.warmCompare t) := by
  unfold Sector.warmCompare
  exact .ite (.modTerm s t _ rfl rfl) (.rfl' s)

theorem Sector.fadeExpiry_keeps (s : Sector) (t : TermNo) : s.Keeps (s.fadeExpiry t) := by
  unfold Sector.fadeExpiry
  exact .ite (.ite (.andTerm (Sector.suppress_keeps s t) rfl rfl) (Sector.fadeOut_keeps s t)) (.rfl' s)

theorem Sector.guardEnd_keeps (s : Sector) (t : TermNo) : s.Keeps (s.guardEnd t) := by
  unfold Sector.guardEnd
  exact .ite (.ite (.andTerm (Sector.suppress_keeps s t) rfl rfl)
    (.andState ((Sector.leave_keeps s t _).trans (Sector.enterDark_keeps _ t _)))) (.rfl' s)

theorem Sector.admitExpiry_keeps (s : Sector) (t : TermNo) : s.Keeps (s.admitExpiry t) := by
  unfold Sector.admitExpiry
  exact .ite (.ite (Sector.suppress_keeps s t) (.andState ((Sector.setCause_keeps s t _).trans ((Sector.leave_keeps _ t _).trans
    ((Sector.enterGuard_keeps _ t).trans (Sector.oweHalt_keeps _ t)))))) (.rfl' s)

theorem Sector.effectiveReached_keeps (s : Sector) (f : FrameNo) (t : TermNo) : s.Keeps (s.effectiveReached f t) := by
  unfold Sector.effectiveReached
  dsimp only
  split
  · exact .rfl' s
  · exact .ite (.ite (Sector.suppress_keeps s t)
      (.andState ((Sector.leave_keeps s t _).trans (Sector.enterServing_keeps _ t)))) (.rfl' s)

theorem Terminal.admitTick_cfg (r : Terminal) : r.admitTick.cfg = r.cfg := by
  unfold Terminal.admitTick; split <;> rfl

theorem Terminal.admitTick_hold (r : Terminal) : r.admitTick.hold = r.hold := by
  unfold Terminal.admitTick; split <;> rfl

theorem Sector.modLink_keeps (s : Sector) (t : TermNo) (f : LinkFields → LinkFields) : s.Keeps (s.modLink t f) := by
  unfold Sector.modLink
  exact .modTerm s t _ rfl rfl

theorem Sector.admitTick_keeps (s : Sector) (t : TermNo) : s.Keeps (s.modTerm t Terminal.admitTick) :=
  .modTerm s t _ (Terminal.admitTick_cfg _) (by rw [Terminal.admitTick_hold])

theorem Sector.lsvFrame_keeps (s : Sector) (f : FrameNo) (t : TermNo) : s.Keeps (s.lsvFrame f t) := by
  unfold Sector.lsvFrame
  exact (Sector.modLink_keeps s t _).trans ((Sector.lendCompare_keeps _ t).trans ((Sector.warmCompare_keeps _ t).trans
    ((Sector.modLink_keeps _ t _).trans ((Sector.fadeExpiry_keeps _ t).trans ((Sector.modLink_keeps _ t _).trans
      ((Sector.guardEnd_keeps _ t).trans ((Sector.admitTick_keeps _ t).trans ((Sector.admitExpiry_keeps _ t).trans
        (Sector.effectiveReached_keeps _ f t)))))))))

theorem Sector.darkWithCarrier_keeps (s : Sector) (t : TermNo) : s.Keeps (s.darkWithCarrier t) := by
  unfold Sector.darkWithCarrier
  exact .andState ((Sector.leave_keeps s t _).trans (Sector.enterDark_keeps _ t _))

theorem Sector.lossAt_keeps (s : Sector) (t : TermNo) : s.Keeps (s.lossAt t) := by
  unfold Sector.lossAt
  exact .ite (.ite (Sector.suppress_keeps s t) ((Sector.setCause_keeps s t _).trans (Sector.darkWithCarrier_keeps _ t))) (.rfl' s)

theorem Sector.restartAt_keeps (s : Sector) (t : TermNo) : s.Keeps (s.restartAt t) := by
  unfold Sector.restartAt
  have h : s.Keeps (s.modLink t fun l => { l with forced := false, cause := .restart }) := .modTerm s t _ rfl rfl
  exact .ite (.rfl' s) (.ite h (h.trans (Sector.darkWithCarrier_keeps _ t)))

/-! ### The Ranging Unit -/

theorem Sector.converge_keeps (s : Sector) (c : CarrierNo) (t : TermNo) : s.Keeps (s.converge c t) := by
  unfold Sector.converge
  refine .andState (Sector.Keeps.trans ?_ ((Sector.leave_keeps _ t _).trans (Sector.enterAdmitting_keeps _ t)))
  exact .andPlain (.modTerm s t _ rfl rfl) rfl rfl rfl rfl

theorem Sector.failExchange_keeps (s : Sector) (c : CarrierNo) (t : TermNo) : s.Keeps (s.failExchange c t) := by
  unfold Sector.failExchange
  refine .andState (Sector.Keeps.trans ?_ ((Sector.setCause_keeps _ t _).trans ((Sector.leave_keeps _ t _).trans
    ((Sector.enterGuard_keeps _ t).trans (Sector.oweHalt_keeps _ t)))))
  exact .andNote (.andPlain (.andTerm (.modTerm s t _ rfl rfl) rfl rfl) rfl rfl rfl rfl) _

theorem Sector.endUnconverged_keeps (s : Sector) (c : CarrierNo) (t : TermNo) : s.Keeps (s.endUnconverged c t) := by
  unfold Sector.endUnconverged
  exact .ite (Sector.failExchange_keeps s c t) (.modTerm s t _ rfl rfl)

theorem Sector.rangingMiss_keeps (s : Sector) (c : CarrierNo) (t : TermNo) : s.Keeps (s.rangingMiss c t) := by
  unfold Sector.rangingMiss
  exact .trans (.andPlain (Sector.breakAssembly_keeps s t) rfl rfl rfl rfl) (Sector.endUnconverged_keeps _ c t)

theorem Sector.fallBack_keeps (s : Sector) (c : CarrierNo) (t : TermNo) : s.Keeps (s.fallBack c t) := by
  unfold Sector.fallBack
  exact .ite (.andPlain (.modTerm s t _ rfl rfl) rfl rfl rfl rfl) (.rfl' s)

theorem Sector.measurement_keeps (s : Sector) (c : CarrierNo) (t : TermNo) (o : Int) (n : Nat) (x : Fragment) :
    s.Keeps (s.measurement c t o n x) := by
  unfold Sector.measurement
  have h : s.Keeps (((s.modRange t (RangeFields.measure (s.car c).cfg.targetSnr o n)).countRng c
      fun k => { k with measurements := k.measurements + 1 }).takeFragment t x) :=
    .trans (.andPlain (.modTerm s t _ rfl rfl) rfl rfl rfl rfl) (Sector.takeFragment_keeps _ t x)
  exact .ite (.ite (h.trans (Sector.converge_keeps _ c t))
    (h.trans ((Sector.fallBack_keeps _ c t).trans (Sector.endUnconverged_keeps _ c t))))
    (h.trans (Sector.endUnconverged_keeps _ c t))

theorem Sector.currentOutcome_keeps (s : Sector) (c : CarrierNo) (t : TermNo) (o : TrimOutcome) :
    s.Keeps (s.currentOutcome c t o) := by
  unfold Sector.currentOutcome
  have h : s.Keeps (((s.modRange t fun g => { g with grant := none }).countTerm t
      fun k => { k with rangingAttempts := k.rangingAttempts + 1 }).countRng c
      fun k => { k with outcomes := k.outcomes + 1 }) := .andPlain (.andTerm (.modTerm s t _ rfl rfl) rfl rfl) rfl rfl rfl rfl
  dsimp only
  split
  · exact h.trans (Sector.rangingMiss_keeps _ c t)
  · refine .ite (.trans (.andPlain (.andTerm h rfl rfl) rfl rfl rfl rfl) (Sector.rangingMiss_keeps _ c t)) ?_
    exact h.trans (Sector.measurement_keeps _ c t _ _ _)

theorem Sector.staleOutcome_keeps (s : Sector) (c : CarrierNo) (t : TermNo) (o : TrimOutcome) :
    s.Keeps (s.staleOutcome c t o) := by
  unfold Sector.staleOutcome
  split
  · have h : s.Keeps (s.countRng c fun k => { k with lateTrims := k.lateTrims + 1 }) :=
      .modCarPlain s c _ rfl rfl rfl rfl
    exact .ite (h.andTerm rfl rfl) h
  · exact .modCarPlain s c _ rfl rfl rfl rfl

theorem Sector.unsentOutcome_keeps (s : Sector) (c : CarrierNo) (t : TermNo) : s.Keeps (s.unsentOutcome c t) := by
  unfold Sector.unsentOutcome
  exact .andPlain (.modTerm s t _ rfl rfl) rfl rfl rfl rfl

theorem Sector.rngOutcome_keeps (s : Sector) (c : CarrierNo) (u : FrameNo) (x : SlotNo) (t : TermNo) (o : TrimOutcome) :
    s.Keeps (s.rngOutcome c u x t o) := by
  unfold Sector.rngOutcome
  exact .ite (.ite (Sector.unsentOutcome_keeps s _ t) (Sector.currentOutcome_keeps s _ t o)) (Sector.staleOutcome_keeps s c t o)

theorem Terminal.settleEnd_cfg (r : Terminal) : r.settleEnd.cfg = r.cfg := by
  unfold Terminal.settleEnd; split <;> rfl

theorem Terminal.settleEnd_hold (r : Terminal) : r.settleEnd.hold = r.hold := by
  unfold Terminal.settleEnd; split <;> rfl

theorem Terminal.settleTick_cfg (r : Terminal) : r.settleTick.cfg = r.cfg := by
  unfold Terminal.settleTick; split
  · rfl
  · exact r.settleEnd_cfg

theorem Terminal.settleTick_hold (r : Terminal) : r.settleTick.hold = r.hold := by
  unfold Terminal.settleTick; split
  · rfl
  · exact r.settleEnd_hold

theorem Sector.settleEnd_keeps (s : Sector) (t : TermNo) : s.Keeps (s.modTerm t Terminal.settleEnd) := by
  exact .modTerm s t _ (Terminal.settleEnd_cfg _) (by rw [Terminal.settleEnd_hold])

theorem Sector.rngFrame_keeps (s : Sector) (c : CarrierNo) : s.Keeps (s.rngFrame c) := by
  unfold Sector.rngFrame
  exact .foldl _ (fun x t => .modTerm x t _ (Terminal.settleTick_cfg _) (by rw [Terminal.settleTick_hold])) _ s

/-! ### The Re-entry Scheduler -/

theorem Sector.offerOutcome_keeps (s : Sector) (c : CarrierNo) (x : OfferOutcome) : s.Keeps (s.offerOutcome c x) := by
  unfold Sector.offerOutcome
  exact Sector.modRes_keeps s c _

theorem Sector.quietOffer_keeps (s : Sector) (c : CarrierNo) : s.Keeps (s.quietOffer c) := by
  unfold Sector.quietOffer
  exact .andPlain (Sector.offerOutcome_keeps s c _) rfl rfl rfl rfl

theorem Sector.collision_keeps (s : Sector) (c : CarrierNo) : s.Keeps (s.collision c) := by
  unfold Sector.collision
  exact .andPlain (Sector.offerOutcome_keeps s c _) rfl rfl rfl rfl

theorem Sector.backoff_keeps (s : Sector) (c : CarrierNo) : s.Keeps (s.backoff c) := by
  unfold Sector.backoff
  have h := fun f => Sector.modRes_keeps s c f
  exact .ite (.ite (.andNote (.andPlain (h _) rfl rfl rfl rfl) _) (h _)) (.rfl' s)

theorem Sector.takeCall_keeps (s : Sector) (c : CarrierNo) (t : TermNo) (k : Bool) (p : ProfileNo) :
    s.Keeps (s.takeCall c t k p) := by
  unfold Sector.takeCall
  have h := Sector.offerOutcome_keeps s c .call
  refine .ite (.trans (.andTerm (.andPlain h rfl rfl rfl rfl) rfl rfl) (Sector.callAccepted_keeps _ c t k p)) ?_
  exact .andPlain h rfl rfl rfl rfl

theorem Sector.offeredOutcome_keeps (s : Sector) (c : CarrierNo) (o : SlotResult) : s.Keeps (s.offeredOutcome c o) := by
  unfold Sector.offeredOutcome
  split
  · exact Sector.quietOffer_keeps s c
  · exact Sector.collision_keeps s c
  · split
    · exact Sector.takeCall_keeps s c _ _ _
    · exact Sector.collision_keeps s c
    · exact Sector.collision_keeps s c

theorem Sector.grantTo_keeps (s : Sector) (c : CarrierNo) (r : FrameNo) (t : TermNo) (x : SlotNo) :
    s.Keeps (s.grantTo c r t x) := by
  unfold Sector.grantTo
  exact .andPlain (.andTerm (.andCell (.rfl' s) c r x _) rfl rfl) rfl rfl rfl rfl

theorem grantMember_keeps (c : CarrierNo) (r : FrameNo) (a : Sector × Nat) (t : TermNo) :
    a.1.Keeps (grantMember c r a t).1 := by
  unfold grantMember
  split
  · exact .rfl' _
  · split
    · split
      · exact .rfl' _
      · dsimp only
        exact (Sector.grantTo_keeps a.1 c r t _).trans (Sector.modRes_keeps _ c _)
    · exact .rfl' _

theorem Sector.takeHead_keeps (s : Sector) (c : CarrierNo) (r : FrameNo) (t : TermNo) (x : SlotNo) :
    s.Keeps (s.takeHead c r t x) := by
  unfold Sector.takeHead
  refine .trans (.andState (.andPlain (.andTerm (.andPlain (Sector.modRes_keeps s c _) rfl rfl rfl rfl) rfl rfl)
    ?_ ?_ ?_ ?_)) (Sector.grantTo_keeps _ c r t x) <;> rfl

theorem Sector.takeHeads_keeps (c : CarrierNo) (r : FrameNo) (n : Nat) (s : Sector) :
    s.Keeps (s.takeHeads c r n) := by
  induction n generalizing s with
  | zero => exact .rfl' s
  | succ n ih =>
    unfold Sector.takeHeads
    split
    · exact .ite ((Sector.takeHead_keeps s c r _ _).trans (ih _)) (.rfl' s)
    · exact .rfl' s
    · exact .rfl' s

theorem Sector.grantArbiter_keeps (s : Sector) (c : CarrierNo) (r : FrameNo) (n : Nat) :
    s.Keeps (s.grantArbiter c r n) := by
  unfold Sector.grantArbiter
  exact (foldl_pair_keeps (grantMember c r) (grantMember_keeps c r) _ (s, n)).trans (Sector.takeHeads_keeps c r _ _)

theorem Carrier.foldl_setCell (r : FrameNo) (z : Cell) (l : List SlotNo) (k : Carrier) :
    (l.foldl (fun x y => x.setCell r y z) k).cfg = k.cfg ∧
    (l.foldl (fun x y => x.setCell r y z) k).frames = k.frames ∧
    (l.foldl (fun x y => x.setCell r y z) k).calendar.map Row.frame = k.calendar.map Row.frame ∧
    (k.canonical → (l.foldl (fun x y => x.setCell r y z) k).canonical) := by
  induction l generalizing k with
  | nil => exact ⟨rfl, rfl, rfl, id⟩
  | cons y l ih =>
    obtain ⟨h₁, h₂, h₃, h₄⟩ := ih (k.setCell r y z)
    refine ⟨h₁, h₂, h₃.trans (Carrier.rows_map _ fun q => ?_), fun h => h₄ ⟨h.1, fun q hq => ?_⟩⟩
    · split <;> rfl
    · obtain ⟨q', hq', rfl⟩ := List.mem_map.1 hq
      split
      · exact Row.setCell_wf y z (h.2 q' hq')
      · exact h.2 q' hq'

theorem Sector.fillRow_keeps (s : Sector) (c : CarrierNo) (r : FrameNo) : s.Keeps (s.fillRow c r) := by
  unfold Sector.fillRow
  refine (Sector.grantArbiter_keeps s c r (s.car c).pace).trans ?_
  generalize s.grantArbiter c r (s.car c).pace = g
  obtain ⟨h₁, h₂, h₃, h₄⟩ := Carrier.foldl_setCell r .offered (((g.car c).available r).take (s.car c).offers) (g.car c)
  refine .modCar g c _ h₁ h₂ ((Carrier.rows_map _ fun q => ?_).trans h₃) fun h => ⟨(h₄ h).1, fun q hq => ?_⟩
  · split <;> rfl
  · obtain ⟨q', hq', rfl⟩ := List.mem_map.1 hq
    split <;> exact (h₄ h).2 q' hq'

theorem Sector.fillAt_keeps (s : Sector) (c : CarrierNo) (f : FrameNo) : s.Keeps (s.fillAt c f) := by
  unfold Sector.fillAt
  dsimp only
  split
  · split
    · exact .ite (.rfl' s) (Sector.fillRow_keeps s c _)
    · exact .rfl' s
  · exact .rfl' s

/-! ### The Carrier Controller -/

theorem Sector.setCarrierState_keeps (s : Sector) (c : CarrierNo) (x : CarrierState) : s.Keeps (s.setCarrierState c x) := by
  unfold Sector.setCarrierState
  have h : s.Keeps (s.modCar c fun k => { k with state := x }) := .modCarPlain s c _ rfl rfl rfl rfl
  exact .ite h (h.andNote _)

theorem Sector.recoveryEnd_keeps (s : Sector) (c : CarrierNo) : s.Keeps (s.recoveryEnd c) := by
  unfold Sector.recoveryEnd
  exact .ite (Sector.setCarrierState_keeps s c _) (.rfl' s)

theorem Sector.recoveryFrame_keeps (s : Sector) (c : CarrierNo) : s.Keeps (s.recoveryFrame c) := by
  unfold Sector.recoveryFrame
  exact .ite (.trans (.modCarPlain s c _ rfl rfl rfl rfl) (Sector.recoveryEnd_keeps _ c)) (.rfl' s)

theorem Sector.carrierLost_keeps (s : Sector) (c : CarrierNo) : s.Keeps (s.carrierLost c) := by
  unfold Sector.carrierLost
  have h : s.Keeps (s.countCsp c fun k => { k with carrierLost := k.carrierLost + 1 }) :=
    .modCarPlain s c _ rfl rfl rfl rfl
  refine .ite (.andFoldl (.andPlain ?_ rfl rfl rfl rfl) _ Sector.lossAt_keeps _) h
  exact h.trans ((Sector.setCarrierState_keeps _ c _).trans (Sector.clearCalendar_keeps _ c))

theorem Sector.carrierFound_keeps (s : Sector) (c : CarrierNo) : s.Keeps (s.carrierFound c) := by
  unfold Sector.carrierFound
  have h : s.Keeps (s.countCsp c fun k => { k with carrierFound := k.carrierFound + 1 }) :=
    .modCarPlain s c _ rfl rfl rfl rfl
  exact .ite (.andPlain (h.trans (Sector.setCarrierState_keeps _ c _)) rfl rfl rfl rfl) h

theorem Sector.expireCell_keeps (c : CarrierNo) (s : Sector) (x : FrameNo × SlotNo × Cell) :
    s.Keeps (s.expireCell c x) := by
  unfold Sector.expireCell
  have h : s.Keeps (s.countCsp c fun k => { k with expiredCells := k.expiredCells + 1 }) :=
    .modCarPlain s c _ rfl rfl rfl rfl
  split
  · exact .rfl' s
  · exact h.trans (Sector.quietOffer_keeps _ c)
  · exact h.trans (Sector.rngOutcome_keeps _ c _ _ _ _)

theorem Sector.reclaimSlot_keeps (c : CarrierNo) (s : Sector) (x : SlotNo) : s.Keeps (s.reclaimSlot c x) := by
  unfold Sector.reclaimSlot
  split
  · refine .ite (.trans (.andTerm (.modCar s c _ rfl rfl rfl fun h => Carrier.setSlot_canonical x _ h) rfl rfl)
      (Sector.examineAdmission_keeps _ _)) (.rfl' s)
  all_goals exact .rfl' s

theorem Sector.byKind_keeps (s : Sector) (c : CarrierNo) (x : SlotNo) (o : SlotResult) : s.Keeps (s.byKind c x o) := by
  have hs : s.Keeps (s.stray c o) := by
    unfold Sector.stray
    exact .modCarPlain s c _ rfl rfl rfl rfl
  unfold Sector.byKind
  split
  · split
    · split
      · unfold Sector.goodBurst
        exact (Sector.lsvGoodBurst_keeps s _).trans ((Sector.takeSnr_keeps _ _ _).trans
          ((Sector.takeFragment_keeps _ _ _).trans (Sector.takePauseFlag_keeps _ _ _)))
      · unfold Sector.slotMiss
        exact .trans (.ite (.modTerm s _ _ rfl rfl) (.rfl' s))
          ((Sector.breakAssembly_keeps _ _).trans (Sector.lsvMiss_keeps _ _))
    · exact hs
  all_goals exact hs

theorem Sector.slotOutcome_keeps (s : Sector) (c : CarrierNo) (u : FrameNo) (x : SlotNo) (o : SlotResult) :
    s.Keeps (s.slotOutcome c u x o) := by
  unfold Sector.slotOutcome
  have h := Sector.Keeps.andCell (.rfl' s) c u x .empty
  dsimp only
  split
  · exact .trans (.ite (.rfl' s) (.modCarPlain s c _ rfl rfl rfl rfl)) (Sector.byKind_keeps _ c x o)
  · exact h.trans (Sector.offeredOutcome_keeps _ c o)
  · exact h.trans (Sector.rngOutcome_keeps _ c u x _ _)

/-! ### The Directive Composer -/

theorem Sector.sendHalt_keeps (s : Sector) (c : CarrierNo) (t : TermNo) : s.Keeps (s.sendHalt c t).1 := by
  unfold Sector.sendHalt
  dsimp only
  exact .andPlain (.modTerm s t _ rfl rfl) rfl rfl rfl rfl

theorem Sector.sendAdmission_keeps (s : Sector) (c : CarrierNo) (g : FrameNo) (t : TermNo) :
    s.Keeps (s.sendAdmission c g t).1 := by
  unfold Sector.sendAdmission
  dsimp only
  exact .andPlain (.modTerm s t _ rfl rfl) rfl rfl rfl rfl

theorem Sector.sendProfile_keeps (s : Sector) (c : CarrierNo) (g : FrameNo) (t : TermNo) (p : PendingProfile) :
    s.Keeps (s.sendProfile c g t p).1 := by
  unfold Sector.sendProfile
  dsimp only
  exact .andPlain (.modTerm s t _ rfl rfl) rfl rfl rfl rfl

theorem Sector.sendGrant_keeps (s : Sector) (c : CarrierNo) (t : TermNo) (x : GrantRef) :
    s.Keeps (s.sendGrant c t x).1 := by
  unfold Sector.sendGrant
  dsimp only
  exact .andPlain (.modTerm s t _ rfl rfl) rfl rfl rfl rfl

theorem Draft.place_keeps (d : Draft) (c : CarrierNo) (k : Rank) (t : TermNo) (x : Sector × Directive)
    (h : d.sector.Keeps x.1) : d.sector.Keeps (d.place c k t x).sector := by
  unfold Draft.place
  split
  · exact .rfl' _
  · show d.sector.Keeps (x.1.modCar c fun y => { y with dcp := y.dcp.set k t })
    exact h.andPlain rfl rfl rfl rfl

theorem Sector.lateGrant_keeps (s : Sector) (c : CarrierNo) (t : TermNo) :
    s.Keeps ((s.withdraw t).countDcp c fun n => { n with lateGrants := n.lateGrants + 1 }) :=
  .andPlain (Sector.withdraw_keeps s t) rfl rfl rfl rfl

theorem Draft.reach_keeps (c : CarrierNo) (g : FrameNo) (k : Rank) (d : Draft) (t : TermNo) :
    d.sector.Keeps (d.reach c g k t).sector := by
  unfold Draft.reach
  split
  · exact .rfl' _
  · split
    · split
      · exact Draft.place_keeps _ _ _ _ _ (Sector.sendHalt_keeps _ _ _)
      · exact Draft.place_keeps _ _ _ _ _ (Sector.sendAdmission_keeps _ _ _ _)
      · split
        · exact Draft.place_keeps _ _ _ _ _ (Sector.sendProfile_keeps _ _ _ _ _)
        · exact .rfl' _
      · split
        · exact Draft.place_keeps _ _ _ _ _ (Sector.sendProfile_keeps _ _ _ _ _)
        · exact .rfl' _
      · split
        · unfold Draft.judgeGrant
          split
          · split
            · exact .rfl' _
            · exact Draft.place_keeps _ _ _ _ _ (Sector.sendGrant_keeps _ _ _ _)
          · exact Sector.lateGrant_keeps d.sector c t
        · exact .rfl' _
    · exact .rfl' _

theorem Draft.foldl_keeps {β : Type} (f : Draft → β → Draft) (h : ∀ (d : Draft) (x : β), d.sector.Keeps (f d x).sector)
    (l : List β) (d : Draft) : d.sector.Keeps (l.foldl f d).sector := by
  induction l generalizing d with
  | nil => exact .rfl' _
  | cons x l ih => exact (h d x).trans (ih _)

theorem Draft.rank_keeps (c : CarrierNo) (g : FrameNo) (d : Draft) (k : Rank) :
    d.sector.Keeps (d.rank c g k).sector := Draft.foldl_keeps _ (Draft.reach_keeps c g k) _ d

theorem Sector.withdrawLeft_keeps (s : Sector) (c : CarrierNo) : s.Keeps (s.withdrawLeft c) := by
  unfold Sector.withdrawLeft
  exact .foldl _ Sector.withdraw_keeps _ s

theorem Sector.noteFull_keeps (s : Sector) (c : CarrierNo) : s.Keeps (s.noteFull c) := by
  unfold Sector.noteFull
  exact .andNote (.modCarPlain s c _ rfl rfl rfl rfl) _

theorem Sector.compose_keeps (s : Sector) (c : CarrierNo) (g : FrameNo) : s.Keeps (s.compose c g).1 := by
  unfold Sector.compose
  have h := Draft.foldl_keeps _ (Draft.rank_keeps c g) allRanks { sector := s, body := [], want := false }
  generalize allRanks.foldl (Draft.rank c g) { sector := s, body := [], want := false } = d at h ⊢
  have hl : s.Keeps (d.sector.withdrawLeft c) := h.trans (Sector.withdrawLeft_keeps _ c)
  dsimp only
  split
  · exact hl.trans (Sector.noteFull_keeps _ c)
  · exact hl

theorem Sector.countDcp_keeps (s : Sector) (c : CarrierNo) (f : DcpCounters → DcpCounters) : s.Keeps (s.countDcp c f) := by
  unfold Sector.countDcp
  exact .modCarPlain s c _ rfl rfl rfl rfl

theorem Sector.listClose_keeps (s : Sector) (c : CarrierNo) (g : FrameNo) : s.Keeps (s.listClose c g) := by
  unfold Sector.listClose
  have h := Sector.countDcp_keeps s c fun n => { n with listCloses := n.listCloses + 1 }
  dsimp only
  split
  · exact (h.trans (Sector.compose_keeps _ c g)).trans (Sector.handOut_keeps _ _)
  · exact (h.trans (Sector.countDcp_keeps _ c _)).trans (Sector.handOut_keeps _ _)

/-! ### CARRIER-RESTART, pass-through -/

theorem Sector.carrierRestart_keeps (s : Sector) (c : CarrierNo) : s.Keeps (s.carrierRestart c) := by
  unfold Sector.carrierRestart
  exact .trans (.andFoldl (.andPlain (Sector.clearCalendar_keeps s c) rfl rfl rfl rfl) _ Sector.restartAt_keeps _)
    (Sector.setCarrierState_keeps _ c _)

theorem Sector.passThrough_keeps (s : Sector) (t : TermNo) (b : List Byte) : s.Keeps (s.passThrough t b) := by
  unfold Sector.passThrough
  exact Sector.handOut_keeps s _

end Sys2Proof.Machine
end

