-- ==== Sys2Proof/Laws/Events.lean ====
section
/-! SUPPORT. What an event of the link side, a request and its response do to the whole state. -/

namespace Sys2Proof.Machine

/-! ### Events and the notice test (R175) -/

theorem OnlyLinkSide.rfl' (s : State) : OnlyLinkSide s s :=
  ⟨rfl, rfl, rfl, rfl, rfl, rfl, rfl, rfl, rfl, rfl, rfl, rfl, [], (List.append_nil _).symm⟩

theorem OnlyLinkSide.trans {a b c : State} (h : OnlyLinkSide a b) (g : OnlyLinkSide b c) : OnlyLinkSide a c := by
  obtain ⟨h₁, h₂, h₃, h₄, h₅, h₆, h₇, h₈, h₉, h₁₀, h₁₁, h₁₂, l, hl⟩ := h
  obtain ⟨g₁, g₂, g₃, g₄, g₅, g₆, g₇, g₈, g₉, g₁₀, g₁₁, g₁₂, m, hm⟩ := g
  exact ⟨g₁.trans h₁, g₂.trans h₂, g₃.trans h₃, g₄.trans h₄, g₅.trans h₅, g₆.trans h₆, g₇.trans h₇, g₈.trans h₈,
    g₉.trans h₉, g₁₀.trans h₁₀, g₁₁.trans h₁₁, g₁₂.trans h₁₂, l ++ m, by rw [hm, hl, List.append_assoc]⟩

/-- A request being taken before such a change is being taken after it, as far as it had come. -/
theorem OnlyLinkSide.taking {a b : State} (h : OnlyLinkSide a b) :
    b.mgu.taking.map GroupTaking.progress = a.mgu.taking.map GroupTaking.progress := by
  obtain ⟨-, -, -, -, -, -, -, -, -, -, -, h, -⟩ := h
  exact h

theorem OnlyLinkSide.taking_none {a b : State} (h : OnlyLinkSide a b) (hn : a.mgu.taking = none) : b.mgu.taking = none := by
  have := h.taking
  rw [hn] at this
  exact Option.map_eq_none_iff.1 this

/-- A notice sent or kept waiting changes nothing but the notice state. -/
theorem State.sendNotice_only (s : State) : OnlyLinkSide s s.sendNotice := by
  unfold State.sendNotice
  split
  · exact ⟨rfl, rfl, rfl, rfl, rfl, rfl, rfl, rfl, rfl, rfl, rfl, rfl, _, rfl⟩
  · next g h =>
    refine ⟨rfl, rfl, rfl, rfl, rfl, rfl, rfl, rfl, rfl, rfl, rfl, ?_, [], (List.append_nil _).symm⟩
    rw [h]
    rfl

theorem State.flagNotice_only (s : State) : OnlyLinkSide s s.flagNotice :=
  ⟨rfl, rfl, rfl, rfl, rfl, rfl, rfl, rfl, rfl, rfl, rfl, rfl, [], (List.append_nil _).symm⟩

@[simp] theorem State.noticeTest_sector (s : State) : s.noticeTest.sector = s.sector := by
  unfold State.noticeTest
  split
  · rw [State.flagNotice_sector, State.sendNotice_sector]
  · rfl

theorem State.noticeTest_only (s : State) : OnlyLinkSide s s.noticeTest := by
  unfold State.noticeTest
  split
  · exact (State.sendNotice_only s).trans (State.flagNotice_only _)
  · exact .rfl' s

theorem State.onSector_only (s : State) (f : Sector → Sector) : OnlyLinkSide s (s.onSector f) :=
  ⟨rfl, rfl, rfl, rfl, rfl, rfl, rfl, rfl, rfl, rfl, rfl, rfl, [], (List.append_nil _).symm⟩

/-- An event makes its change of the link side. -/
@[simp] theorem State.event_sector (s : State) (f : Sector → Sector) : (s.event f).sector = f s.sector := by
  unfold State.event
  dsimp only
  split
  · rfl
  · exact State.noticeTest_sector _

/-- An event changes nothing but the link side and the notice state. -/
theorem State.event_only (s : State) (f : Sector → Sector) : OnlyLinkSide s (s.event f) := by
  unfold State.event
  dsimp only
  split
  · exact State.onSector_only s f
  · exact (State.onSector_only s f).trans (State.noticeTest_only _)

/-- An event that adds to no event set changes the link side alone. -/
theorem State.event_quiet (s : State) (f : Sector → Sector) (h : (f s.sector).events = s.sector.events) :
    s.event f = s.onSector f := by
  unfold State.event
  exact if_pos h

/-- Each step of a fold that changes only the link side, the fold does. -/
theorem OnlyLinkSide.foldl {α : Type} (f : State → α → State) (h : ∀ (s : State) (x : α), OnlyLinkSide s (f s x)) (l : List α)
    (s : State) : OnlyLinkSide s (l.foldl f s) := by
  induction l generalizing s with
  | nil => exact .rfl' s
  | cons x l ih => exact (h s x).trans (ih _)

/-! ### Taking a request (R169, R170) -/

theorem State.headIs_buffer {s : State} {r : Request} {code : Nat} (h : s.headIs r code) :
    ∃ rest, s.mgu.buffer = r :: rest := by
  obtain ⟨h, -, -, -⟩ := h
  cases hb : s.mgu.buffer with
  | nil => rw [hb] at h; cases h
  | cons a l => rw [hb] at h; cases h; exact ⟨l, rfl⟩

/-- A request whose common checks pass is taken by its owner. -/
theorem State.serve_head {α : Type} {s : State} {r : Request} {code : Nat} (pick : Request → Option α)
    (own : Request → α → State → State × Reply) (blank : Request → List Byte) {x : α} (h : s.headIs r code)
    (hp : pick r = some x) : s.serve code pick own blank = State.respond s (own r x s).1 r (own r x s).2 := by
  obtain ⟨rest, hb⟩ := State.headIs_buffer h
  obtain ⟨-, hc, hl, hn⟩ := h
  unfold State.serve
  rw [hb]
  simp only [hc, hn, and_self, if_true]
  unfold State.judge
  rw [if_neg (not_lt.2 hl), hp]

/-- What taking the head request gives: nothing, or a response to the owner's result or to a refusal by the common
checks. -/
theorem State.serve_cases {α : Type} (s : State) (code : Nat) (pick : Request → Option α)
    (own : Request → α → State → State × Reply) (blank : Request → List Byte) :
    s.serve code pick own blank = s ∨
    (∃ r a, s.mgu.buffer.head? = some r ∧ s.serve code pick own blank = State.respond s s r a) ∨
    ∃ r x, s.mgu.buffer.head? = some r ∧ pick r = some x ∧
      s.serve code pick own blank = State.respond s (own r x s).1 r (own r x s).2 := by
  unfold State.serve
  split
  · exact Or.inl rfl
  · next r rest hb =>
    split
    · refine Or.inr ?_
      unfold State.judge
      split
      · exact Or.inl ⟨r, _, by rw [hb]; rfl, rfl⟩
      · split
        · exact Or.inl ⟨r, _, by rw [hb]; rfl, rfl⟩
        · next x hx => exact Or.inr ⟨r, x, by rw [hb]; rfl, hx, rfl⟩
    · exact Or.inl rfl

@[simp] theorem State.respond_sector (s t : State) (r : Request) (a : Reply) : (State.respond s t r a).sector = t.sector := rfl

@[simp] theorem State.respond_fcl (s t : State) (r : Request) (a : Reply) : (State.respond s t r a).fcl = t.fcl := rfl

@[simp] theorem State.respond_tagMap (s t : State) (r : Request) (a : Reply) : (State.respond s t r a).tagMap = t.tagMap := rfl

@[simp] theorem State.respond_pending (s t : State) (r : Request) (a : Reply) :
    (State.respond s t r a).pending = t.pending := rfl

@[simp] theorem State.respond_straps (s t : State) (r : Request) (a : Reply) : (State.respond s t r a).straps = t.straps := rfl

@[simp] theorem State.respond_npTraffic (s t : State) (r : Request) (a : Reply) :
    (State.respond s t r a).npTraffic = t.npTraffic := rfl

@[simp] theorem State.respond_buffer (s t : State) (r : Request) (a : Reply) :
    (State.respond s t r a).mgu.buffer = t.mgu.buffer.drop 1 := rfl

@[simp] theorem State.respond_ctr (s t : State) (r : Request) (a : Reply) :
    (State.respond s t r a).mgu.ctr = t.mgu.ctr.responded a.status := rfl

/-- A response to a request that kept the buffer and the counts of responses is an answer (R169). -/
theorem State.respond_answered (s t : State) (r : Request) (a : Reply) (hb : t.mgu.buffer = s.mgu.buffer)
    (h₁ : t.mgu.ctr.responses = s.mgu.ctr.responses) (h₂ : t.mgu.ctr.refusals = s.mgu.ctr.refusals) :
    Answered s (State.respond s t r a) r a.status a.body := by
  refine ⟨⟨t.npMgmt.drop s.npMgmt.length, ?_⟩, ?_, ?_, ?_⟩
  · simp only [State.respond, State.responseFrame, List.append_assoc, List.singleton_append]
  · simp only [State.respond_buffer, hb]
  · simp only [State.respond_ctr, MguCounters.responded, h₁]
  · simp only [State.respond_ctr, MguCounters.responded, h₂]

/-- Counters that agree but for the notices agree in the responses and the refusals. -/
theorem MguCounters.butNotices {a b : MguCounters}
    (h : ({ a with notices := 0 } : MguCounters) = { b with notices := 0 }) :
    a.responses = b.responses ∧ a.refusals = b.refusals := by
  have h₁ := congrArg MguCounters.responses h
  have h₂ := congrArg MguCounters.refusals h
  exact ⟨h₁, h₂⟩

/-- A response to a request that changed at most the link side is an answer (R169). -/
theorem OnlyLinkSide.answered {s t : State} (h : OnlyLinkSide s t) (r : Request) (a : Reply) :
    Answered s (State.respond s t r a) r a.status a.body := by
  obtain ⟨-, -, -, -, -, -, hb, -, -, -, hc, -, -⟩ := h
  exact State.respond_answered s t r a hb (MguCounters.butNotices hc).1 (MguCounters.butNotices hc).2

/-- A response to a request that changed at most the link side leaves everything else but the answer. -/
theorem OnlyLinkSide.onlyLinkAnswered {s t : State} (h : OnlyLinkSide s t) (hn : s.mgu.taking = none) (r : Request)
    (a : Reply) : OnlyLinkAnswered s (State.respond s t r a) := by
  have ht : t.mgu.taking = none := h.taking_none hn
  obtain ⟨h₁, h₂, h₃, h₄, h₅, h₆, -, h₇, h₈, h₉, hc, -, -⟩ := h
  refine ⟨h₁, h₂, h₃, h₄, h₅, h₆, h₇, h₈, h₉, ht, ?_⟩
  rw [State.respond_ctr]
  exact congrArg (fun k : MguCounters => { k with responses := 0, refusals := 0 }) hc

/-- A response to a request that changed nothing leaves everything but the answer. -/
theorem State.respond_onlyAnswered (s : State) (r : Request) (a : Reply) : OnlyAnswered s (State.respond s s r a) :=
  ⟨rfl, rfl, rfl, rfl, rfl, rfl, rfl, rfl, rfl, rfl, rfl, rfl⟩

/-! ### Selectors (R170) -/

theorem Request.terminal?_eq {r : Request} {t : TermNo} (h : r.selectsTerminal t) : r.terminal? = some t := by
  obtain ⟨hk, hv⟩ := h
  have hlt : r.value.toNat < 256 := hv ▸ t.isLt
  simp only [Request.terminal?, hlt, dite_true, hk, if_true]
  exact congrArg some (Fin.ext hv)

theorem Request.carrier?_eq {r : Request} {c : CarrierNo} (h : r.selectsCarrier c) : r.carrier? = some c := by
  obtain ⟨hk, hv⟩ := h
  have hlt : r.value.toNat < 4 := hv ▸ c.isLt
  simp only [Request.carrier?, hlt, dite_true, hk, if_true]
  exact congrArg some (Fin.ext hv)

theorem Request.sector?_eq {r : Request} (h : r.selectsSector) : r.sector? = some () := by
  simp only [Request.sector?, show r.kind = 3 from h, if_true]

theorem Request.selector?_terminal {r : Request} {t : TermNo} (h : r.selectsTerminal t) :
    r.selector? = some (.terminal t) := by
  simp only [Request.selector?, h.1, if_true, Request.terminal?_eq h, Option.map_some]

theorem Request.selector?_carrier {r : Request} {c : CarrierNo} (h : r.selectsCarrier c) :
    r.selector? = some (.carrier c) := by
  have h1 : ¬ (2 : Byte) = 1 := by decide
  simp only [Request.selector?, h.1, h1, if_false, if_true, Request.carrier?_eq h, Option.map_some]

theorem Request.selector?_sector {r : Request} (h : r.selectsSector) : r.selector? = some .sector := by
  have h1 : ¬ (3 : Byte) = 1 := by decide
  have h2 : ¬ (3 : Byte) = 2 := by decide
  simp only [Request.selector?, show r.kind = 3 from h, h1, h2, if_false, if_true]

/-! ### Group requests (R171) -/

/-- Applications that change at most the link side, together do. -/
theorem applyEach_only (one : Application) (h : ∀ (s : State) (t : TermNo), OnlyLinkSide s (one s t).1) (l : List TermNo)
    (s : State) : OnlyLinkSide s (applyEach one l s).1 := by
  induction l generalizing s with
  | nil => exact .rfl' s
  | cons t l ih => exact (h s t).trans (ih _)

/-- The results name the terminals of the group in order. -/
theorem applyEach_terminals (one : Application) (l : List TermNo) (s : State) :
    (applyEach one l s).2.map (·.1) = l := by
  induction l generalizing s with
  | nil => rfl
  | cons t l ih => simp only [applyEach, List.map_cons, ih]

theorem applyLink_only (refuses : Terminal → Bool) (act : Sector → TermNo → Sector) (s : State) (t : TermNo) :
    OnlyLinkSide s (applyLink refuses act s t).1 := by
  unfold applyLink
  dsimp only
  split
  · exact State.event_only s _
  · exact .rfl' s

/-- A link-state request applied to a configured terminal it does not refuse makes its event and is DONE (R46). -/
theorem applyLink_done {refuses : Terminal → Bool} (act : Sector → TermNo → Sector) {s : State} {t : TermNo}
    (hc : (s.sector.term t).cfg.configured = true) (hr : refuses (s.sector.term t) = false) :
    applyLink refuses act s t = (s.event fun x => act x t, .done) := by
  unfold applyLink
  exact if_pos ⟨hc, hr⟩

theorem writeOne_only (es : List FieldEntry) (s : State) (t : TermNo) : OnlyLinkSide s (writeOne es s t).1 := by
  unfold writeOne
  dsimp only
  split
  · exact State.event_only s _
  · exact .rfl' s

/-- The link side after each application, one after another. -/
theorem applyEach_sector (one : Application) (f : Sector → TermNo → Sector)
    (h : ∀ (s : State) (t : TermNo), (one s t).1.sector = f s.sector t) (l : List TermNo) (s : State) :
    (applyEach one l s).1.sector = l.foldl f s.sector := by
  induction l generalizing s with
  | nil => rfl
  | cons t l ih => simp only [applyEach, List.foldl_cons, ih, h]

/-- An application of a link-state request makes its change of the link side, or none (R46). -/
theorem applyLink_sector (refuses : Terminal → Bool) (act : Sector → TermNo → Sector) (s : State) (t : TermNo) :
    (applyLink refuses act s t).1.sector =
      if (s.sector.term t).cfg.configured = true ∧ refuses (s.sector.term t) = false then act s.sector t else s.sector := by
  unfold applyLink
  dsimp only
  split
  · rw [State.event_sector]
  · rfl

/-- A group request that finds terminals left over after its share goes on being taken, its results so far kept (R171,
log 22). -/
theorem State.advance_taking (s : State) (r : Request) (one : Application) (g : GroupTaking)
    (h : (g.remaining.drop (g.next s.shares).length).isEmpty = false) :
    ∃ notices, (s.advance r one g).mgu.taking =
      some { remaining := g.remaining.drop (g.next s.shares).length
             results := g.results ++ (applyEach one (g.next s.shares)
               { s with shares := s.shares.tail, mgu := { s.mgu with taking := some g } }).2
             notices := notices } := by
  unfold State.advance
  dsimp only
  rw [h]
  exact ⟨_, rfl⟩

/-- While a group request is being taken, an event hands no management frame: a notice waits (R175). -/
theorem State.event_npMgmt (s : State) (f : Sector → Sector) (h : s.mgu.taking ≠ none) :
    (s.event f).npMgmt = s.npMgmt := by
  have hs : (s.onSector f).noticeTest.npMgmt = s.npMgmt := by
    unfold State.noticeTest State.sendNotice
    split
    · split
      · next hn => exact absurd hn h
      · rfl
    · rfl
  unfold State.event
  dsimp only
  split
  · rfl
  · exact hs

/-- An application that changes at most the link side and, while a request is being taken, hands no management frame. -/
def Application.quiet (one : Application) : Prop :=
  ∀ (s : State) (t : TermNo), OnlyLinkSide s (one s t).1 ∧ (s.mgu.taking ≠ none → (one s t).1.npMgmt = s.npMgmt)

theorem applyLink_quiet (refuses : Terminal → Bool) (act : Sector → TermNo → Sector) :
    Application.quiet (applyLink refuses act) := by
  refine fun s t => ⟨applyLink_only refuses act s t, fun h => ?_⟩
  unfold applyLink
  dsimp only
  split
  · exact State.event_npMgmt s _ h
  · rfl

theorem writeOne_quiet (es : List FieldEntry) : Application.quiet (writeOne es) := by
  refine fun s t => ⟨writeOne_only es s t, fun h => ?_⟩
  unfold writeOne
  dsimp only
  split
  · exact State.event_npMgmt s _ h
  · rfl

theorem applyEach_npMgmt {one : Application} (h : one.quiet) (l : List TermNo) (s : State) (hs : s.mgu.taking ≠ none) :
    (applyEach one l s).1.npMgmt = s.npMgmt := by
  induction l generalizing s with
  | nil => rfl
  | cons t l ih =>
    have hn : (one s t).1.mgu.taking ≠ none := fun e =>
      hs (Option.map_eq_none_iff.1 ((h s t).1.taking.symm.trans (Option.map_eq_none_iff.2 e)))
    exact (ih _ hn).trans ((h s t).2 hs)

/-- The state in which a group request is being taken, as far as `g`. -/
def State.atGroup (s : State) (g : GroupTaking) : State := { s with mgu := { s.mgu with taking := some g } }

/-- With no share listed, a group request goes through all that remain and is closed (R171, log 22). -/
theorem State.advance_all (s : State) (r : Request) (one : Application) (g : GroupTaking) (hs : s.shares = []) :
    ∃ notices, s.advance r one g = (applyEach one g.remaining (s.atGroup g)).1.closeGroup r
      { remaining := [], results := g.results ++ (applyEach one g.remaining (s.atGroup g)).2, notices := notices } := by
  have ht : s.shares.tail = s.shares := by rw [hs]; rfl
  have hn : g.next s.shares = g.remaining := by unfold GroupTaking.next; rw [hs]
  unfold State.advance
  rw [ht, hn]
  dsimp only
  rw [List.drop_length]
  exact ⟨_, if_pos rfl⟩

/-- Closing a group request answers it, when its applications changed at most the link side and handed no management frame
(R169, R171). -/
theorem State.closeGroup_answered {s x : State} {g : GroupTaking} (h : OnlyLinkSide (s.atGroup g) x)
    (hm : x.npMgmt = s.npMgmt) (r : Request) (k : GroupTaking) :
    OnlyLinkAnswered s (x.closeGroup r k) ∧
    Answered s (x.closeGroup r k) r (groupReply k.results).status (groupReply k.results).body := by
  obtain ⟨h₁, h₂, h₃, h₄, h₅, h₆, hb, h₇, h₈, h₉, hc, -, -⟩ := h
  have hr := MguCounters.butNotices hc
  refine ⟨⟨h₁, h₂, h₃, h₄, h₅, h₆, h₇, h₈, h₉, rfl, ?_⟩, ⟨k.notices, ?_⟩, ?_, ?_, ?_⟩
  · exact congrArg (fun n : MguCounters => { n with responses := 0, refusals := 0 }) hc
  · unfold State.closeGroup
    dsimp only
    rw [hm, List.append_assoc]
    rfl
  · exact congrArg (List.drop 1) hb
  · exact congrArg (· + 1) hr.1
  · exact congrArg (fun n => if (groupReply k.results).status = Status.done then n else n + 1) hr.2

/-- A group request with no share listed is answered by the results of all its applications (R169, R171). -/
theorem State.advance_answered (s : State) (r : Request) {one : Application} (h : one.quiet) (g : GroupTaking)
    (hs : s.shares = []) :
    let out := applyEach one g.remaining (s.atGroup g)
    let a := groupReply (g.results ++ out.2)
    let u := s.advance r one g
    u.sector = out.1.sector ∧ OnlyLinkAnswered s u ∧ Answered s u r a.status a.body := by
  obtain ⟨notices, hu⟩ := State.advance_all s r one g hs
  have hk : OnlyLinkSide (s.atGroup g) (applyEach one g.remaining (s.atGroup g)).1 :=
    applyEach_only one (fun x t => (h x t).1) g.remaining _
  have hm : (applyEach one g.remaining (s.atGroup g)).1.npMgmt = s.npMgmt :=
    applyEach_npMgmt h g.remaining (s.atGroup g) (Option.some_ne_none g)
  have hc := State.closeGroup_answered hk hm r
    { remaining := [], results := g.results ++ (applyEach one g.remaining (s.atGroup g)).2, notices := notices }
  dsimp only
  rw [hu]
  exact ⟨rfl, hc.1, hc.2⟩

theorem State.writeCarrierRequest_only (r : Request) (c : CarrierNo) (s : State) :
    OnlyLinkSide s (s.writeCarrierRequest r c).1 := by
  unfold State.writeCarrierRequest
  split
  · exact .rfl' s
  · dsimp only
    split
    · exact State.event_only s _
    · exact .rfl' s

theorem State.carrierRestartRequest_only (c : CarrierNo) (s : State) : OnlyLinkSide s (s.carrierRestartRequest c).1 := by
  unfold State.carrierRestartRequest
  split
  · exact .rfl' s
  · exact State.event_only s _

theorem emptyBody_only {α : Type} {own : α → State → State × Reply} (h : ∀ (x : α) (s : State), OnlyLinkSide s (own x s).1)
    (r : Request) (x : α) (s : State) : OnlyLinkSide s (emptyBody own r x s).1 := by
  unfold emptyBody
  split
  · exact h x s
  · exact .rfl' s

/-! ### Frame starts -/

theorem State.frameBlock_only (c : CarrierNo) (f : FrameNo) (s : State) (b : Block) :
    OnlyLinkSide s (s.frameBlock c f b) := by
  cases b with
  | lsv =>
    unfold State.frameBlock
    exact OnlyLinkSide.foldl (fun (st : State) (t : TermNo) => st.event fun x => x.lsvFrame f t)
      (fun st t => State.event_only st _) (s.sector.boundTo c) s
  | csp => unfold State.frameBlock; exact State.event_only s _
  | rng => unfold State.frameBlock; exact State.event_only s _
  | pld => unfold State.frameBlock; exact State.event_only s _
  | hfs => unfold State.frameBlock; exact State.event_only s _

/-- A frame start changes nothing but the link side and the notice state. -/
theorem State.frameStart_only (s : State) (c : CarrierNo) (f : FrameNo) (named : List Block) :
    OnlyLinkSide s (s.frameStart c f named) := .foldl _ (State.frameBlock_only c f) _ s

end Sys2Proof.Machine
end

