-- ==== Sys2Proof/Laws/Frames.lean ====
section
/-! SUPPORT. What a whole frame start does to the link side (R77): the calendar window, the frame counts, and what it keeps. -/

namespace Sys2Proof.Machine

/-! ### The calendar window (R76, R77) -/

theorem emptyCalendar_frames (f : FrameNo) :
    (emptyCalendar f).map Row.frame = (List.range 16).map fun i => f + BitVec.ofNat 16 i := by
  unfold emptyCalendar
  rw [List.map_map]
  rfl

theorem Carrier.row?_frame {k : Carrier} {u : FrameNo} {r : Row} (h : k.row? u = some r) : r.frame = u :=
  by unfold Carrier.row? at h; exact of_decide_eq_true (List.find?_some (p := fun x : Row => decide (x.frame = u)) h)

/-- The rows of a window are those of its sixteen frames. -/
theorem Carrier.windowAt_frames (k : Carrier) (f : FrameNo) :
    (k.windowAt f).map Row.frame = (List.range 16).map fun i => f + BitVec.ofNat 16 i := by
  rw [← emptyCalendar_frames]
  unfold Carrier.windowAt
  rw [List.map_map]
  refine List.map_congr_left fun b _ => ?_
  show ((k.row? b.frame).getD b).frame = b.frame
  cases h : k.row? b.frame with
  | none => rfl
  | some r => exact Carrier.row?_frame h

theorem Carrier.moveTo_windowed (f : FrameNo) (k : Carrier) : (k.moveTo f).windowed := Carrier.windowAt_frames k f

theorem Carrier.moveTo_canonical (f : FrameNo) {k : Carrier} (h : k.canonical) : (k.moveTo f).canonical := by
  refine ⟨h.1, fun r hr => ?_⟩
  obtain ⟨b, hb, rfl⟩ := List.mem_map.1 hr
  obtain ⟨i, -, rfl⟩ := List.mem_map.1 hb
  cases hk : k.row? (f + BitVec.ofNat 16 i) with
  | none => rw [Option.getD_none]; exact Table.wf_nil _
  | some r => rw [Option.getD_some]; exact h.2 r (List.mem_of_find?_eq_some hk)

/-- What frame start `f` of carrier `c` makes of the frame count of that carrier (R77). -/
def Carrier.countFrame (k : Carrier) (f : FrameNo) : FrameNo × Counter × Counter :=
  (f, k.csp.frameStarts + 1, if f = k.lastFrame + 1 then k.csp.frameSlips else k.csp.frameSlips + 1)

/-- What the link side keeps over a frame start, and the frame count and window it takes. -/
structure Sector.FrameMoved (c : CarrierNo) (f : FrameNo) (s s' : Sector) : Prop where
  cfg : ∀ t, (s'.term t).cfg = (s.term t).cfg
  settings : ∀ d, (s'.car d).cfg = (s.car d).cfg
  counted : (s'.car c).frames = (s.car c).countFrame f
  others : ∀ d, d ≠ c → (s'.car d).frames = (s.car d).frames
  window : (s'.car c).calendar.map Row.frame = (List.range 16).map fun i => f + BitVec.ofNat 16 i
  rows : ∀ d, d ≠ c → (s'.car d).calendar.map Row.frame = (s.car d).calendar.map Row.frame
  profiles : s'.profiles = s.profiles
  storeLowMark : s'.storeLowMark = s.storeLowMark
  canonical : s.canonical → s'.canonical
  descriptors : s'.freeDescriptors + s'.heldFrames = s.freeDescriptors + s.heldFrames
  blocks : s'.freeBlocks + s'.heldBlocks = s.freeBlocks + s.heldBlocks
  handed : ∃ l, s'.mlOut = s.mlOut ++ l

theorem Sector.FrameMoved.move (s : Sector) (c : CarrierNo) (f : FrameNo) :
    Sector.FrameMoved c f s (s.modCar c (Carrier.moveTo f)) where
  cfg _ := rfl
  settings d := by rw [Sector.car_modCar]; split <;> simp_all [Carrier.moveTo]
  counted := by rw [Sector.car_modCar, if_pos rfl]; rfl
  others d hd := by rw [Sector.car_modCar, if_neg hd]
  window := by rw [Sector.car_modCar, if_pos rfl]; exact Carrier.windowAt_frames _ f
  rows d hd := by rw [Sector.car_modCar, if_neg hd]
  profiles := rfl
  storeLowMark := rfl
  canonical h := ⟨h.1, fun d => by
    rw [Sector.car_modCar]; split
    · exact Carrier.moveTo_canonical f (h.2 c)
    · exact h.2 d⟩
  descriptors := rfl
  blocks := rfl
  handed := ⟨[], (List.append_nil _).symm⟩

theorem Sector.FrameMoved.after {c : CarrierNo} {f : FrameNo} {s a b : Sector} (h : Sector.FrameMoved c f s a) (g : a.Keeps b) :
    Sector.FrameMoved c f s b where
  cfg t := (g.cfg t).trans (h.cfg t)
  settings d := (g.settings d).trans (h.settings d)
  counted := (g.frames c).trans h.counted
  others d hd := (g.frames d).trans (h.others d hd)
  window := (g.rows c).trans h.window
  rows d hd := (g.rows d).trans (h.rows d hd)
  profiles := g.profiles.trans h.profiles
  storeLowMark := g.storeLowMark.trans h.storeLowMark
  canonical x := g.canonical (h.canonical x)
  descriptors := g.descriptors.trans h.descriptors
  blocks := g.blocks.trans h.blocks
  handed := by
    obtain ⟨l, hl⟩ := h.handed
    obtain ⟨m, hm⟩ := g.handed
    exact ⟨l ++ m, by rw [hm, hl, List.append_assoc]⟩

theorem Carrier.countFrame_eq {j k : Carrier} (f : FrameNo) (h : j.frames = k.frames) : j.countFrame f = k.countFrame f := by
  simp only [Carrier.frames, Prod.mk.injEq] at h
  obtain ⟨h₁, h₂, h₃⟩ := h
  simp only [Carrier.countFrame, h₁, h₂, h₃]

theorem Sector.FrameMoved.before {c : CarrierNo} {f : FrameNo} {s a b : Sector} (g : s.Keeps a) (h : Sector.FrameMoved c f a b) :
    Sector.FrameMoved c f s b where
  cfg t := (h.cfg t).trans (g.cfg t)
  settings d := (h.settings d).trans (g.settings d)
  counted := h.counted.trans (Carrier.countFrame_eq f (g.frames c))
  others d hd := (h.others d hd).trans (g.frames d)
  window := h.window
  rows d hd := (h.rows d hd).trans (g.rows d)
  profiles := h.profiles.trans g.profiles
  storeLowMark := h.storeLowMark.trans g.storeLowMark
  canonical x := h.canonical (g.canonical x)
  descriptors := h.descriptors.trans g.descriptors
  blocks := h.blocks.trans g.blocks
  handed := by
    obtain ⟨l, hl⟩ := g.handed
    obtain ⟨m, hm⟩ := h.handed
    exact ⟨l ++ m, by rw [hm, hl, List.append_assoc]⟩

/-- The CSP's event of a frame start (R77). -/
theorem Sector.cspFrame_moved (s : Sector) (c : CarrierNo) (f : FrameNo) : Sector.FrameMoved c f s (s.cspFrame c f) := by
  have hw : Sector.FrameMoved c f s (s.moveWindow c f) := by
    unfold Sector.moveWindow
    exact (Sector.FrameMoved.move s c f).after (.foldl _ (Sector.expireCell_keeps c) _ _)
  unfold Sector.cspFrame
  exact (((hw.after (Sector.backoff_keeps _ c)).after (Sector.recoveryFrame_keeps _ c)).after
    (.foldl _ (Sector.reclaimSlot_keeps c) _ _)).after (Sector.fillAt_keeps _ c f)

/-! ### The blocks in turn -/

theorem nodup_eraseDups (l : List Block) : l.eraseDups.Nodup := by
  induction h : l.length using Nat.strong_induction_on generalizing l with
  | _ n ih =>
    cases l with
    | nil => exact List.nodup_nil
    | cons a l =>
      rw [List.eraseDups_cons, List.nodup_cons]
      have hlt : (l.filter fun b => !b == a).length < n := by
        rw [← h]; exact Nat.lt_succ_of_le (List.length_filter_le _ _)
      refine ⟨fun hm => ?_, ih _ hlt _ rfl⟩
      have := List.mem_eraseDups.1 hm
      simp at this

theorem mem_blockOrder (named : List Block) (b : Block) : b ∈ blockOrder named := by
  unfold blockOrder
  by_cases h : b ∈ named
  · exact List.mem_append_left _ (List.mem_eraseDups.2 h)
  · refine List.mem_append_right _ (List.mem_filter.2 ⟨?_, ?_⟩)
    · cases b <;> decide
    · simp [h]

/-- Every block stands once in the order. -/
theorem nodup_blockOrder (named : List Block) : (blockOrder named).Nodup := by
  unfold blockOrder
  refine List.nodup_append.2 ⟨nodup_eraseDups named, List.Nodup.filter _ (by decide), ?_⟩
  intro a ha b hb e
  subst e
  have := (List.mem_filter.1 hb).2
  simp [List.mem_eraseDups.1 ha] at this

theorem lsvFrames_keeps (f : FrameNo) (l : List TermNo) (s : State) :
    s.sector.Keeps (l.foldl (fun st t => st.event fun x => x.lsvFrame f t) s).sector := by
  induction l generalizing s with
  | nil => exact .rfl' _
  | cons t l ih =>
    have h : s.sector.Keeps (s.event fun x => x.lsvFrame f t).sector := by
      rw [State.event_sector]; exact Sector.lsvFrame_keeps _ f t
    rw [List.foldl_cons]
    exact h.trans (ih _)

/-- Every block but the CSP keeps. -/
theorem State.frameBlock_keeps (c : CarrierNo) (f : FrameNo) (s : State) {b : Block} (hb : b ≠ .csp) :
    s.sector.Keeps (s.frameBlock c f b).sector := by
  cases b with
  | csp => exact absurd rfl hb
  | lsv =>
    unfold State.frameBlock
    exact lsvFrames_keeps f _ s
  | rng => unfold State.frameBlock; rw [State.event_sector]; exact Sector.rngFrame_keeps _ c
  | pld => unfold State.frameBlock; rw [State.event_sector]; exact Sector.pldFrame_keeps _ c f
  | hfs => unfold State.frameBlock; rw [State.event_sector]; exact Sector.hfsFrame_keeps _ c

theorem frameBlocks_keeps (c : CarrierNo) (f : FrameNo) (l : List Block) (h : Block.csp ∉ l) (s : State) :
    s.sector.Keeps (l.foldl (State.frameBlock c f) s).sector := by
  induction l generalizing s with
  | nil => exact .rfl' _
  | cons b l ih =>
    rw [List.mem_cons, not_or] at h
    exact (State.frameBlock_keeps c f s fun e => h.1 e.symm).trans (ih h.2 _)

/-- A frame start moves the window and the frame count of its carrier and keeps the rest (R77). -/
theorem State.frameStart_moved (s : State) (c : CarrierNo) (f : FrameNo) (named : List Block) :
    Sector.FrameMoved c f s.sector (s.frameStart c f named).sector := by
  obtain ⟨a, b, hab⟩ := List.append_of_mem (mem_blockOrder named .csp)
  have hn := nodup_blockOrder named
  rw [hab] at hn
  obtain ⟨-, hb, hd⟩ := List.nodup_append.1 hn
  have ha : Block.csp ∉ a := fun h => hd _ h _ (List.mem_cons_self ..) rfl
  have hb' : Block.csp ∉ b := (List.nodup_cons.1 hb).1
  unfold State.frameStart
  rw [hab, List.foldl_append, List.foldl_cons]
  refine Sector.FrameMoved.before (frameBlocks_keeps c f a ha s) (.after ?_ (frameBlocks_keeps c f b hb' _))
  have he : ∀ x : State, (x.frameBlock c f .csp).sector = x.sector.cspFrame c f := fun x => by
    unfold State.frameBlock; rw [State.event_sector]
  rw [he]
  exact Sector.cspFrame_moved _ c f

end Sys2Proof.Machine
end

