-- ==== Sys2Proof/Laws/Writes.lean ====
section
/-! SUPPORT. What the writes of configuration and the resets do to the link side: WRITE-TERMINAL, WRITE-CARRIER, LOAD-PROFILE and
SECTOR-RESET. -/

namespace Sys2Proof.Machine

/-! ### What every write keeps -/

/-- What a write keeps: frame counts, the calendar's rows, canonical forms, the pools' sums, what was handed out. -/
structure Sector.Stays (s s' : Sector) : Prop where
  frames : ∀ c, (s'.car c).frames = (s.car c).frames
  rows : ∀ c, (s'.car c).calendar.map Row.frame = (s.car c).calendar.map Row.frame
  canonical : s.canonical → s'.canonical
  descriptors : s'.freeDescriptors + s'.heldFrames = s.freeDescriptors + s.heldFrames
  blocks : s'.freeBlocks + s'.heldBlocks = s.freeBlocks + s.heldBlocks
  handed : ∃ l, s'.mlOut = s.mlOut ++ l

theorem Sector.Keeps.stays {s s' : Sector} (h : s.Keeps s') : s.Stays s' :=
  ⟨h.frames, h.rows, h.canonical, h.descriptors, h.blocks, h.handed⟩

theorem Sector.Stays.rfl' (s : Sector) : s.Stays s := (Sector.Keeps.rfl' s).stays

theorem Sector.Stays.trans {a b c : Sector} (h : a.Stays b) (g : b.Stays c) : a.Stays c where
  frames x := (g.frames x).trans (h.frames x)
  rows x := (g.rows x).trans (h.rows x)
  canonical x := g.canonical (h.canonical x)
  descriptors := g.descriptors.trans h.descriptors
  blocks := g.blocks.trans h.blocks
  handed := by
    obtain ⟨l, hl⟩ := h.handed
    obtain ⟨m, hm⟩ := g.handed
    exact ⟨l ++ m, by rw [hm, hl, List.append_assoc]⟩

theorem Sector.Stays.poolsWhole {s s' : Sector} (h : s.Stays s') (hp : s.poolsWhole) : s'.poolsWhole :=
  ⟨h.descriptors.trans hp.1, h.blocks.trans hp.2⟩

theorem Sector.Keeps.poolsWhole {s s' : Sector} (h : s.Keeps s') (hp : s.poolsWhole) : s'.poolsWhole := h.stays.poolsWhole hp

theorem Sector.Stays.foldl {α : Type} (f : Sector → α → Sector) (h : ∀ (s : Sector) (a : α), s.Stays (f s a)) (l : List α)
    (s : Sector) : s.Stays (l.foldl f s) := by
  induction l generalizing s with
  | nil => exact .rfl' s
  | cons a l ih => exact (h s a).trans (ih _)

/-- A record changed in anything but its held queue. -/
theorem Sector.Stays.modTerm (s : Sector) (t : TermNo) (f : Terminal → Terminal)
    (hq : (f (s.term t)).hold.queue = (s.term t).hold.queue) : s.Stays (s.modTerm t f) where
  frames _ := rfl
  rows _ := rfl
  canonical := Sector.canonical_modTerm t f
  descriptors := by
    have h := s.heldFrames_modTerm t f
    simp only [HoldFields.frames, hq] at h
    simp only [Sector.modTerm_freeDescriptors]
    omega
  blocks := by
    have h := s.heldBlocks_modTerm t f
    simp only [HoldFields.blocks, hq] at h
    simp only [Sector.modTerm_freeBlocks]
    omega
  handed := ⟨[], (List.append_nil _).symm⟩

/-- A carrier record changed in anything but its frame counts and its calendar. -/
theorem Sector.Stays.modCar (s : Sector) (c : CarrierNo) (f : Carrier → Carrier)
    (hl : (f (s.car c)).frames = (s.car c).frames) (hr : (f (s.car c)).calendar = (s.car c).calendar)
    (hk : (s.car c).canonical → (f (s.car c)).canonical) : s.Stays (s.modCar c f) where
  frames d := by
    rw [Sector.car_modCar]; split
    · next h => rw [hl, h]
    · rfl
  rows d := by
    rw [Sector.car_modCar]; split
    · next h => rw [hr, h]
    · rfl
  canonical h := ⟨h.1, fun d => by
    rw [Sector.car_modCar]; split
    · exact hk (h.2 c)
    · exact h.2 d⟩
  descriptors := rfl
  blocks := rfl
  handed := ⟨[], (List.append_nil _).symm⟩

theorem Sector.Stays.ite {s a b : Sector} {p : Prop} [Decidable p] (ha : s.Stays a) (hb : s.Stays b) :
    s.Stays (if p then a else b) := by
  split
  · exact ha
  · exact hb

/-! ### LOAD-PROFILE (R123) -/

theorem Sector.setProfile_stays (s : Sector) (p : ProfileNo) (x : Profile) : s.Stays (s.setProfile p x) :=
  ⟨fun _ => rfl, fun _ => rfl, id, rfl, rfl, [], (List.append_nil _).symm⟩

/-! ### WRITE-TERMINAL (R19 to R27) -/

theorem Terminal.rebound_cfg (es : List FieldEntry) (r : Terminal) : (r.rebound es).cfg = r.cfg := by
  unfold Terminal.rebound; split <;> rfl

theorem Terminal.rebound_hold (es : List FieldEntry) (r : Terminal) : (r.rebound es).hold = r.hold := by
  unfold Terminal.rebound; split <;> rfl

theorem Terminal.configure_cfg (es : List FieldEntry) (new : TermConfig) (r : Terminal) :
    (r.configure es new).cfg = new := Terminal.rebound_cfg es _

theorem Terminal.configure_hold (es : List FieldEntry) (new : TermConfig) (r : Terminal) :
    (r.configure es new).hold = r.hold := Terminal.rebound_hold es _

theorem Sector.freshRecord_stays (s : Sector) (t : TermNo) : s.Stays (s.freshRecord t) := by
  unfold Sector.freshRecord
  refine (Sector.emptyQueue_keeps s t).stays.trans (.modTerm _ t _ ?_)
  have h : (s.emptyQueue t).term t = { s.term t with hold := { (s.term t).hold.toIdle with queue := [] } } := by
    unfold Sector.emptyQueue Sector.modHold
    rw [Sector.term_modTerm, if_pos rfl, Sector.term_giveBack]
  rw [h]
  rfl

theorem Sector.freshRecord_cfg (s : Sector) (t u : TermNo) : ((s.freshRecord t).term u).cfg = (s.term u).cfg := by
  unfold Sector.freshRecord
  rw [Sector.term_modTerm]
  split
  · next h => rw [h]; exact (Sector.emptyQueue_keeps s t).cfg t
  · exact (Sector.emptyQueue_keeps s t).cfg u

theorem Carrier.releaseSlots_kept (k : Carrier) (l : List SlotNo) :
    (k.releaseSlots l).frames = k.frames ∧ (k.releaseSlots l).calendar = k.calendar ∧
    (k.canonical → (k.releaseSlots l).canonical) :=
  (Carrier.foldl_setSlot (fun x y => x.cfg.baseKind y) l k).2

theorem Carrier.claimSlots_kept (k : Carrier) (t : TermNo) (l : List SlotNo) :
    (k.claimSlots t l).frames = k.frames ∧ (k.claimSlots t l).calendar = k.calendar ∧
    (k.canonical → (k.claimSlots t l).canonical) :=
  (Carrier.foldl_setSlot (fun _ _ => SlotUse.traffic t) l k).2

theorem moveSlots_stays (t : TermNo) (old new : TermConfig) (s : Sector) (c : CarrierNo) :
    s.Stays (moveSlots t old new s c) := by
  unfold moveSlots
  dsimp only
  obtain ⟨h₁, h₂, h₃⟩ := Carrier.releaseSlots_kept (s.car c) ((old.slotsOn c).filter fun x => !(new.slotsOn c).contains x)
  obtain ⟨g₁, g₂, g₃⟩ := Carrier.claimSlots_kept
    ((s.car c).releaseSlots ((old.slotsOn c).filter fun x => !(new.slotsOn c).contains x)) t
    ((new.slotsOn c).filter fun x => !(old.slotsOn c).contains x)
  exact .modCar s c _ (g₁.trans h₁) (g₂.trans h₂) fun h => g₃ (h₃ h)

theorem moveSlots_term (t u : TermNo) (old new : TermConfig) (s : Sector) (c : CarrierNo) :
    (moveSlots t old new s c).term u = s.term u := rfl

theorem foldl_moveSlots_term (t u : TermNo) (old new : TermConfig) (l : List CarrierNo) (s : Sector) :
    (l.foldl (moveSlots t old new) s).term u = s.term u := by
  induction l generalizing s with
  | nil => rfl
  | cons c l ih => rw [List.foldl_cons, ih]; rfl

theorem Sector.modRes_stays (s : Sector) (c : CarrierNo) (f : Scheduler → Scheduler) : s.Stays (s.modRes c f) :=
  (Sector.Keeps.modCarPlain s c _ rfl rfl rfl rfl).stays

theorem Sector.writeTerminal_stays (s : Sector) (t : TermNo) (es : List FieldEntry) (new : TermConfig) :
    s.Stays (s.writeTerminal t es new) := by
  unfold Sector.writeTerminal
  dsimp only
  have h₁ : s.Stays (s.modTerm t (Terminal.configure es new)) :=
    .modTerm s t _ (congrArg HoldFields.queue (Terminal.configure_hold es new _))
  have h₂ := Sector.Stays.ite (p := (s.term t).cfg.configured = new.configured) h₁ (h₁.trans (Sector.freshRecord_stays _ t))
  generalize (if (s.term t).cfg.configured = new.configured then s.modTerm t (Terminal.configure es new)
    else (s.modTerm t (Terminal.configure es new)).freshRecord t) = a at h₂ ⊢
  have h₃ := h₂.trans (Sector.Stays.foldl _ (moveSlots_stays t (s.term t).cfg new) allCarriers a)
  generalize allCarriers.foldl (moveSlots t (s.term t).cfg new) a = b at h₃ ⊢
  have h₄ := Sector.Stays.ite (p := (b.term t).link.state = .called)
    (h₃.trans (Sector.modRes_stays b new.carrier (Scheduler.reclass t new.cls))) h₃
  generalize (if (b.term t).link.state = .called then b.modRes new.carrier (Scheduler.reclass t new.cls) else b) = d at h₄ ⊢
  exact .ite (h₄.trans (Sector.examineAdmission_keeps d t).stays) h₄

/-- An accepted WRITE-TERMINAL gives its record the new configuration and leaves every other configuration (R18, R19). -/
theorem Sector.writeTerminal_cfg (s : Sector) (t u : TermNo) (es : List FieldEntry) (new : TermConfig) :
    ((s.writeTerminal t es new).term u).cfg = if u = t then new else (s.term u).cfg := by
  have h₁ : ((s.modTerm t (Terminal.configure es new)).term u).cfg = if u = t then new else (s.term u).cfg := by
    rw [Sector.term_modTerm]
    split
    · exact Terminal.configure_cfg es new _
    · rfl
  unfold Sector.writeTerminal
  dsimp only
  have h₂ : ((if (s.term t).cfg.configured = new.configured then s.modTerm t (Terminal.configure es new)
      else (s.modTerm t (Terminal.configure es new)).freshRecord t).term u).cfg = if u = t then new else (s.term u).cfg := by
    split
    · exact h₁
    · rw [Sector.freshRecord_cfg]; exact h₁
  generalize (if (s.term t).cfg.configured = new.configured then s.modTerm t (Terminal.configure es new)
    else (s.modTerm t (Terminal.configure es new)).freshRecord t) = a at h₂ ⊢
  have h₃ := foldl_moveSlots_term t u (s.term t).cfg new allCarriers a
  generalize allCarriers.foldl (moveSlots t (s.term t).cfg new) a = b at h₃ ⊢
  have h₄ : ((if (b.term t).link.state = .called then b.modRes new.carrier (Scheduler.reclass t new.cls) else b).term u).cfg =
      if u = t then new else (s.term u).cfg := by
    split
    · exact (congrArg Terminal.cfg h₃).trans h₂
    · exact (congrArg Terminal.cfg h₃).trans h₂
  generalize (if (b.term t).link.state = .called then b.modRes new.carrier (Scheduler.reclass t new.cls) else b) = d at h₄ ⊢
  split
  · exact ((Sector.examineAdmission_keeps d t).cfg u).trans h₄
  · exact h₄

/-! ### WRITE-CARRIER (R68, R70) -/

theorem Carrier.configure_kept (k : Carrier) (new : CarrierConfig) :
    (k.configure new).frames = k.frames ∧ (k.configure new).calendar = k.calendar ∧
    (k.canonical → (k.configure new).canonical) := by
  unfold Carrier.configure
  obtain ⟨-, h₂, h₃, h₄⟩ := Carrier.foldl_setSlot (fun x y => (x.slotUse y).rebase (new.baseKind y)) allSlots { k with cfg := new }
  exact ⟨h₂, h₃, fun h => h₄ ⟨h.1, h.2⟩⟩

theorem Sector.writeCarrier_stays (s : Sector) (c : CarrierNo) (new : CarrierConfig) : s.Stays (s.writeCarrier c new) := by
  obtain ⟨h₁, h₂, h₃⟩ := Carrier.configure_kept (s.car c) new
  have h : s.Stays (s.modCar c fun k => k.configure new) := .modCar s c _ h₁ h₂ h₃
  unfold Sector.writeCarrier
  dsimp only
  refine .ite h (.ite (h.trans ?_) (h.trans ?_))
  · unfold Sector.enable
    exact (Sector.Keeps.andPlain (Sector.setCarrierState_keeps _ c _) rfl rfl rfl rfl).stays
  · unfold Sector.disable
    exact (Sector.Keeps.andPlain ((Sector.setCarrierState_keeps _ c _).trans (Sector.clearCalendar_keeps _ c))
      rfl rfl rfl rfl).stays

/-! ### SECTOR-RESET (R178) -/

theorem Sector.resetCounts_keeps (s : Sector) (t : TermNo) : s.Keeps (s.resetCounts t) := by
  unfold Sector.resetCounts
  dsimp only
  refine (Sector.Keeps.ite ?_ (.rfl' s)).trans (Sector.discardHeldQueue_keeps _ t)
  unfold Sector.countRng
  exact .modCarPlain s _ _ rfl rfl rfl rfl

theorem Terminal.fresh_powerOn : Terminal.powerOn.fresh = Terminal.powerOn := rfl

theorem resetRecords_wf {l : Table 256 Terminal} (h : Table.wf Terminal.powerOn l = true) :
    Table.wf Terminal.powerOn (resetRecords l) = true := by
  rw [Table.wf_iff] at h ⊢
  unfold resetRecords
  refine ⟨?_, fun e he => of_decide_eq_true (List.mem_filter.1 he).2⟩
  have hs : ((List.filter (fun e => decide (e.2 ≠ Terminal.powerOn)) (l.map fun e => (e.1, e.2.fresh))).map (·.1)).Sublist
      (l.map (·.1)) := by
    have := (List.filter_sublist (p := fun e : TermNo × Terminal => decide (e.2 ≠ Terminal.powerOn))
      (l := l.map fun e => (e.1, e.2.fresh))).map (·.1)
    rwa [List.map_map] at this
  exact h.1.sublist hs

/-- Every record of a reset table has an empty held queue. -/
theorem resetRecords_queue (l : Table 256 Terminal) (t : TermNo) :
    ((resetRecords l).read Terminal.powerOn t).hold.queue = [] := by
  unfold resetRecords
  induction l with
  | nil => rfl
  | cons e l ih =>
    rw [List.map_cons, List.filter_cons]
    split
    · unfold Table.read
      split
      · rfl
      · exact ih
    · exact ih

theorem Carrier.sectorReset_kept (k : Carrier) :
    k.sectorReset.frames = k.frames ∧ k.sectorReset.calendar = k.calendar.map (fun r => { r with filled := false, cells := [] }) ∧
    k.sectorReset.canonical := by
  unfold Carrier.sectorReset Carrier.baseSlots
  obtain ⟨-, h₂, h₃, h₄⟩ := Carrier.foldl_setSlot (fun x y => x.cfg.baseKind y) allSlots { k.clearCalendar with slots := [] }
  have h := h₄ ⟨Table.wf_nil _, fun r hr => by
    obtain ⟨q, -, rfl⟩ := List.mem_map.1 hr
    exact Table.wf_nil _⟩
  exact ⟨h₂, h₃, h.1, h.2⟩

/-- The carriers of a reset keep their frame counts and rows, and are in canonical form. -/
theorem foldl_sectorReset (l : List CarrierNo) (s : Sector) :
    (l.foldl (fun x c => x.modCar c Carrier.sectorReset) s).terms = s.terms ∧
    (l.foldl (fun x c => x.modCar c Carrier.sectorReset) s).freeDescriptors = s.freeDescriptors ∧
    (l.foldl (fun x c => x.modCar c Carrier.sectorReset) s).freeBlocks = s.freeBlocks ∧
    (l.foldl (fun x c => x.modCar c Carrier.sectorReset) s).mlOut = s.mlOut ∧
    ∀ d, ((l.foldl (fun x c => x.modCar c Carrier.sectorReset) s).car d).frames = (s.car d).frames ∧
      ((l.foldl (fun x c => x.modCar c Carrier.sectorReset) s).car d).calendar.map Row.frame =
        (s.car d).calendar.map Row.frame ∧
      ((s.car d).canonical ∨ d ∈ l → ((l.foldl (fun x c => x.modCar c Carrier.sectorReset) s).car d).canonical) := by
  induction l generalizing s with
  | nil => exact ⟨rfl, rfl, rfl, rfl, fun d => ⟨rfl, rfl, fun h => h.resolve_right (List.not_mem_nil)⟩⟩
  | cons c l ih =>
    rw [List.foldl_cons]
    obtain ⟨h₁, h₂, h₃, h₄, h₅⟩ := ih (s.modCar c Carrier.sectorReset)
    obtain ⟨k₁, k₂, k₃⟩ := Carrier.sectorReset_kept (s.car c)
    refine ⟨h₁, h₂, h₃, h₄, fun d => ?_⟩
    obtain ⟨g₁, g₂, g₃⟩ := h₅ d
    rw [Sector.car_modCar] at g₁ g₂ g₃
    by_cases hd : d = c
    · rw [if_pos hd] at g₁ g₂ g₃
      subst hd
      refine ⟨g₁.trans k₁, g₂.trans ?_, fun _ => g₃ (Or.inl k₃)⟩
      rw [k₂, List.map_map]; rfl
    · rw [if_neg hd] at g₁ g₂ g₃
      exact ⟨g₁, g₂, fun h => g₃ (h.imp_right fun hm => (List.mem_cons.1 hm).resolve_left hd)⟩

theorem Sector.restoreHomes_keeps (s : Sector) (c : CarrierNo) : s.Keeps (s.restoreHomes c) := by
  unfold Sector.restoreHomes Carrier.claimSlots
  exact .foldl _ (fun x t => Sector.Keeps.andSlots (.rfl' x) (fun _ _ => SlotUse.traffic t) _) _ s

/-- SECTOR-RESET keeps frame counts, rows and what was handed out, restores the pools, and leaves canonical forms. -/
theorem Sector.sectorReset_stays (s : Sector) :
    (∀ c, (s.sectorReset.car c).frames = (s.car c).frames) ∧
    (∀ c, (s.sectorReset.car c).calendar.map Row.frame = (s.car c).calendar.map Row.frame) ∧
    (s.canonical → s.sectorReset.canonical) ∧ s.sectorReset.poolsWhole := by
  unfold Sector.sectorReset
  dsimp only
  have hk : s.Keeps (s.configuredTerms.foldl Sector.resetCounts s) := .foldl _ Sector.resetCounts_keeps _ s
  generalize s.configuredTerms.foldl Sector.resetCounts s = a at hk ⊢
  generalize hb : ({ a with terms := resetRecords a.terms, freeDescriptors := 4096, freeBlocks := 8192, events := {} } : Sector) = b
  have hcar : ∀ c, b.car c = a.car c := fun c => by rw [← hb]; rfl
  have hterms : b.terms = resetRecords a.terms := by rw [← hb]
  have hd : b.freeDescriptors = 4096 := by rw [← hb]
  have hbl : b.freeBlocks = 8192 := by rw [← hb]
  obtain ⟨h₁, h₂, h₃, -, h₅⟩ := foldl_sectorReset allCarriers b
  generalize allCarriers.foldl (fun x c => x.modCar c Carrier.sectorReset) b = d at h₁ h₂ h₃ h₅ ⊢
  have he : d.Keeps (allCarriers.foldl Sector.restoreHomes d) := .foldl _ Sector.restoreHomes_keeps _ d
  have hq : ∀ t, (d.term t).hold.queue = [] := fun t => by
    unfold Sector.term; rw [h₁, hterms]; exact resetRecords_queue _ t
  have hf : d.heldFrames = 0 := by
    unfold Sector.heldFrames HoldFields.frames; simp only [hq]; simp
  have hg : d.heldBlocks = 0 := by
    unfold Sector.heldBlocks HoldFields.blocks blocksOf; simp only [hq]; simp
  refine ⟨fun c => ?_, fun c => ?_, fun hc => he.canonical ⟨?_, fun c => ?_⟩, he.poolsWhole ⟨?_, ?_⟩⟩
  · rw [he.frames, (h₅ c).1, hcar, hk.frames]
  · rw [he.rows, (h₅ c).2.1, hcar, hk.rows]
  · rw [h₁, hterms]; exact resetRecords_wf (hk.canonical hc).1
  · exact (h₅ c).2.2 (Or.inr (mem_allCarriers c))
  · rw [h₂, hd, hf]
  · rw [h₃, hbl, hg]

end Sys2Proof.Machine
end

