-- ==== Sys2Proof/Tests/Slice0.lean ====
section
/-! SUPPORT. Checks of the model on small states: ill-formed commands, one step of each kind of command, and for every statement
with hypotheses a state and operands that meet them, clause by clause. -/

namespace Sys2Proof.Tests

open Sys2Proof Sys2Proof.Machine

/-! ### Small states -/

/-- A request as the buffer holds it. -/
def ask (code kind : Byte) (value : BitVec 16) (body : List Byte) : Request :=
  { source := 0x0200000000AA, code := code, kind := kind, number := 9, value := value, bodyLength := body.length, rest := body }

/-- A configured record on carrier 0 with home slot 3, home tag 7 and a quota of two frames. -/
def base : Terminal := { cfg := { configured := true, homeSlots := [3], homeTag := some 7, holdQuota := 2 } }

/-- That record in a link state. -/
def inState (x : LinkState) : Terminal := { base with link := { base.link with state := x } }

/-- That record in a link state, forced. -/
def forcedIn (x : LinkState) : Terminal := { base with link := { base.link with state := x, forced := true } }

/-- A held frame of sixty bytes. -/
def frame60 (age : Nat) : HeldFrame := { bytes := List.replicate 60 1, arrival := 0, age := age }

/-- A sector whose terminal 5 has record `r` and whose carrier 0 is `k`. -/
def sector (r : Terminal) (k : Carrier) : Sector :=
  { terms := [(5, r)], cars := (Vector.replicate 4 ({} : Carrier)).set 0 k }

/-- Carrier 0 in a state, its slot 3 used as given. -/
def carrier (x : CarrierState) (u : SlotUse) : Carrier := { state := x, slots := [(3, u)] }

/-- The state with that sector and the requests given in the buffer. -/
def state (r : Terminal) (k : Carrier) (b : List Request := []) : State :=
  { State.reset with sector := sector r k, mgu := { State.reset.mgu with buffer := b } }

/-- The state after a command. -/
def after (i : Instr) (s : State) : State :=
  match exec i s with
  | .next u => u
  | .fault _ => s
  | .refused _ => s

/-- A carrier whose row of frame 0 holds a cell at slot 3. -/
def withCell (k : Carrier) (x : Cell) : Carrier := k.setCell 0 3 x

/-- A TRIMMING terminal whose grant of frame 0 and slot 3 was sent, after `attempts` attempts and `measured` measurements. -/
def trimming (attempts measured : Nat) : Terminal :=
  { inState .trimming with range := { grant := some { frame := 0, slot := 3 }, attempts := attempts, measured := measured } }

/-- Carrier 0 in UP with slot 3 REENTRY, `t` in its ranging set and `q` in its queue. -/
def scheduling (x : Cell) : Carrier :=
  { withCell (carrier .up .reentry) x with res := { ranging := [5], queue := [{ terminal := 6, cls := 3, lastProfile := 0, stamp := 0 }]
                                                    nextOrder := 1 } }

/-- Terminal 5 is TRIMMING with record `r` and terminal 6 CALLED, both on carrier 0. -/
def scheduled (r : Terminal) (x : Cell) : State :=
  { State.reset with sector := { sector r (scheduling x) with terms := [(5, r), (6, inState .called)] } }

/-! ### Ill-formed commands are told apart -/

theorem test_wellFormed_offset : (Instr.slotOutcome 0 0 0 (.burst { claimed := 0, offset := 4096, snr := 0, kind := .call false 0 })).wellFormed =
    false := by decide

theorem test_wellFormed_snr : (Instr.slotOutcome 0 0 0 (.burst { claimed := 0, offset := 0, snr := 101, kind := .call false 0 })).wellFormed =
    false := by decide

theorem test_wellFormed_payload : (Instr.slotOutcome 0 0 0 (.burst
    { claimed := 0, offset := 0, snr := 0, kind := .traffic { start := false, bits := 0 } false (List.replicate 256 []) })).wellFormed =
    false := by decide +kernel

theorem test_wellFormed_order : (Instr.frameStart 0 0 [.csp, .csp]).wellFormed = false := by decide

theorem test_wellFormed_accepts : (Instr.slotOutcome 3 65535 31 (.burst { claimed := 255, offset := -4096, snr := 100, kind := .call true 7 })).wellFormed =
    true ∧ (Instr.frameStart 0 0 [.csp, .lsv]).wellFormed = true := by decide

/-! ### One step of each kind of command -/

theorem test_step_takes_front : step { State.reset with pending := [.carrierFound 1, .carrierLost 1] } =
    exec (.carrierFound 1) { State.reset with pending := [.carrierLost 1] } := rfl

/-- RELEASE, HOLD, FORCE-STATE to SERVING, PERMIT in ADMITTING and FLUSH-HELD of terminal 5. -/
theorem test_requests_on_the_link_state :
    (((after .release (state base (carrier .down (.traffic 5)) [ask 10 1 5 []])).sector.term 5).link.state = .dark ∧
    (after .release (state base (carrier .down (.traffic 5)) [ask 10 1 5 []])).sector.events.stateChange = [5]) ∧
    (((after .hold (state (inState .serving) (carrier .up (.traffic 5)) [ask 11 1 5 []])).sector.term 5).link.state =
      .held ∧
    ((after .hold (state (inState .serving) (carrier .up (.traffic 5)) [ask 11 1 5 []])).sector.term 5).owed.halt = true) ∧
    (((after .forceState (state base (carrier .down (.lent 5 true)) [ask 12 1 5 [5]])).sector.term 5).link.state = .serving ∧
    ((after .forceState (state base (carrier .down (.lent 5 true)) [ask 12 1 5 [5]])).sector.car 0).slotUse 3 = .traffic 5) ∧
    (((after .permit (state (inState .admitting) (carrier .up (.traffic 5)) [ask 13 1 5 []])).sector.term 5).owed.admission = true) ∧
    (((after .flushHeld (state { base with hold := { queue := [frame60 0] } } {} [ask 14 1 5 []])).sector.term 5).hold =
    {}) := by
  decide

/-- BIND-TAG and UNBIND-TAG, the entries of READ-TERMINAL and READ-CARRIER, SET-SECTOR, an unknown request, WRITE-CARRIER and
READ-EVENTS. -/
theorem test_tags_settings_and_reads :
    ((after .bindTag (state base {} [ask 3 1 5 [1, 44]])).tagMap = [(300, some 5)] ∧
    (after .unbindTag { state base {} [ask 4 1 5 [1, 44]] with tagMap := [(300, some 5)] }).tagMap = []) ∧
    ((base.values).length = 62) ∧
    (((sector base {}).carrierValues 0).length = 76) ∧
    ((after .setSector (state base {} [ask 19 3 0 [0]])).npMgmt.map MgmtFrame.body =
    [[2, 0, 0, 0, 0, 0, 2, 0]]) ∧
    ((after .unknownRequest (state base {} [ask 77 1 0 []])).npMgmt.map MgmtFrame.status =
    [.unknownRequest]) ∧
    (((after .writeCarrier (state base {} [ask 8 2 0 [1, 1, 1, 1]])).sector.car 0).state = .down) ∧
    ((after .readEvents { state base {} [ask 16 3 0 []] with
      sector := { sector base {} with events := { stateChange := [5] } } }).npMgmt.map MgmtFrame.body =
    [[0, 1, 5, 0, 0, 0, 0, 0, 0, 0, 0, 0, 0]]) := by
  decide

/-- Carrier found and lost, a slip, a miss in service, a call, and an owed HALT at a list-close. -/
theorem test_modem_records :
    (((after (.carrierFound 0) (state base (carrier .down .opened))).sector.car 0).state = .recovering) ∧
    (((after (.carrierLost 0) (state (inState .serving) (carrier .up (.traffic 5)))).sector.term 5).link.cause = .carrier) ∧
    (((after (.frameStart 0 2 []) (state base {})).sector.car 0).csp.frameSlips = 1 ∧
    ((after (.frameStart 0 1 []) (state base {})).sector.car 0).csp.frameSlips = 0) ∧
    (((after (.slotOutcome 0 0 3 .empty) (state (inState .serving) (carrier .up (.traffic 5)))).sector.term 5).link.state = .fading) ∧
    (((after (.slotOutcome 0 0 3 (.burst { claimed := 5, offset := 0, snr := 0, kind := .call true 2 }))
      (state (inState .dark) (withCell (carrier .up .reentry) .offered))).sector.car 0).res.queue =
    [{ terminal := 5, cls := 3, lastProfile := 2, stamp := 0 }]) ∧
    ((after (.listClose 0 9) (state { base with owed := { halt := true } } (carrier .up .opened))).sector.mlOut =
    [.list { carrier := 0, frame := 9, exponent := 0, offered := [], body := [.halt 5] }]) := by
  decide +kernel

/-- Power-on with strap 5, and a tagged frame of a SERVING terminal that passes through padded. -/
theorem test_power_on_and_pass_through :
    ((after (.powerOnReset 5) (state base {})).sector.terms = [] ∧
    (after (.powerOnReset 5) (state base {})).mgu.station = 0x020000000005) ∧
    ((after (.frameReceived (List.replicate 12 1 ++ [0x81, 0x00, 0x01, 0x2C] ++ List.replicate 44 2) true)
      { state (inState .serving) {} with tagMap := [(300, some 5)] }).sector.mlOut =
    [.downstream 0 5 (sealFrame (List.replicate 12 1 ++ List.replicate 44 2 ++ List.replicate 4 0))]) := by
  refine ⟨by decide, rfl⟩

/-- A HOLD of the sector, taken one terminal at a time, lets a miss of terminal 6 come before its turn. -/
theorem test_group_request_in_shares :
    let r := ask 11 3 0 []
    let y : Terminal := { inState .serving with cfg := { base.cfg with homeSlots := [] } }
    let x : Sector := { sector y (carrier .up (.traffic 6)) with terms := [(5, y), (6, y)] }
    let s : State := { State.reset with shares := [1], sector := x, mgu := { State.reset.mgu with buffer := [r] } }
    let one := after .hold s
    let two := after (.slotOutcome 0 0 3 .empty) one
    let three := after .hold two
    (one.mgu.taking.map GroupTaking.progress = some ([6], [(5, .done)]) ∧ one.npMgmt = []) ∧
    ((two.sector.term 6).link.state = .fading ∧ (two.sector.term 5).link.state = .held) ∧
    ((three.sector.term 6).ctr.fades = 1 ∧ (three.sector.term 6).link.state = .held ∧ three.mgu.taking = none ∧
      three.npMgmt.map MgmtFrame.body = [[0, 2]]) := by decide +kernel

/-- At a frame start terminal 5 is handed two of its three held frames, its burst and the budget allowing more than two but the
oldest one aged out. -/
theorem test_release_at_a_frame_start :
    let x : Terminal := { inState .serving with hold := { release := .releasing, queue := [frame60 3000, frame60 1, frame60 0] } }
    let u := after (.frameStart 0 1 []) (state x (carrier .up .opened))
    u.sector.mlOut = [.downstream 0 5 (List.replicate 60 1), .downstream 0 5 (List.replicate 60 1)] ∧
    (u.sector.term 5).hold = {} ∧ (u.sector.term 5).ctr.discardAge = 1 ∧ (u.sector.car 0).releasePtr = 5 := by decide +kernel

theorem test_truncated_record_discarded : MlRecord.parse [1, 0, 7] = none ∧ MlRecord.parse [1, 0, 7, 8] = some (.frameStart 0 0x0708) := by
  decide

theorem test_directive_bytes : (Directive.trim 5 { frame := 0x0102, slot := 3 } (-1) (-2)).bytes = [1, 5, 1, 2, 3, 255, 255, 254] := by
  decide

/-! ### States that meet the hypotheses of the statements -/

/-- A frame with tag 300: twelve address bytes, the tag, and `n` more bytes. -/
def tagged (n : Nat) : List Byte := List.replicate 12 0xFF ++ [0x81, 0x00, 0x01, 0x2C] ++ List.replicate n 0

/-- A frame with tag 4095 to the broadcast address, or to another, with `n` bytes after the tag. -/
def managed (dest : Byte) (n : Nat) : List Byte := List.replicate 12 dest ++ [0x81, 0x00, 0x0F, 0xFF] ++ List.replicate n 0

theorem witness_StepExecutesFrontCommand :
    ({ State.reset with pending := [.carrierLost 0] } : State).pending = .carrierLost 0 :: [] ∧ State.reset.pending = [] := ⟨rfl, rfl⟩

theorem witness_ReceivedFrameEndsInOneOutcome : State.reset.fcl.balanced ∧
    (¬ (16 ≤ ([] : List Byte).length ∧ bytesAt [] 12 2 = [0x81, 0x00])) ∧
    (16 ≤ (tagged 2033).length ∧ bytesAt (tagged 2033) 12 2 = [0x81, 0x00] ∧ tagOf (tagged 2033) ≠ 4095 ∧
      2048 < (tagged 2033).length) ∧
    (16 ≤ (tagged 0).length ∧ bytesAt (tagged 0) 12 2 = [0x81, 0x00] ∧ tagOf (tagged 0) ≠ 4095 ∧ (tagged 0).length ≤ 2048 ∧
      State.reset.tagEntry (tagOf (tagged 0)) = none) := by decide +kernel

theorem witness_DownstreamDecisionByLinkState :
    16 ≤ (tagged 2032).length ∧ bytesAt (tagged 2032) 12 2 = [0x81, 0x00] ∧ tagOf (tagged 2032) ≠ 4095 ∧ (tagged 2032).length ≤ 2048 ∧
    ∀ r ∈ [inState .held, inState .serving, inState .dark],
      ({ state r {} with tagMap := [(300, some 5)] } : State).tagEntry (tagOf (tagged 2032)) = some 5 ∧
      ((state r {}).sector.term 5).cfg.configured = true := by decide +kernel

theorem witness_ManagementFrameAdmission :
    (∀ x ∈ [managed 1 10, managed 0xFF 9, managed 0xFF 10], 16 ≤ x.length ∧ bytesAt x 12 2 = [0x81, 0x00] ∧ tagOf x = 4095) ∧
    (BitVec.ofNat 48 (beNat ((managed 1 10).take 6)) ≠ State.reset.mgu.station ∧
      BitVec.ofNat 48 (beNat ((managed 1 10).take 6)) ≠ (0xFFFFFFFFFFFF : Addr)) ∧
    (BitVec.ofNat 48 (beNat ((managed 0xFF 9).take 6)) = (0xFFFFFFFFFFFF : Addr) ∧ (managed 0xFF 9).length < 26) ∧
    (26 ≤ (managed 0xFF 10).length ∧ 4 ≤ (state base {} (List.replicate 4 (ask 1 1 5 []))).mgu.buffer.length ∧
      (state base {} (List.replicate 3 (ask 1 1 5 []))).mgu.buffer.length < 4) := by decide

theorem witness_OfferedFrameJoinsOrIsDiscarded :
    ((sector Terminal.powerOn {}).term 5).cfg.holdQuota = 0 ∧
    (((sector base {}).term 5).hold.queue.length < ((sector base {}).term 5).cfg.holdQuota ∧
      1 ≤ (sector base {}).freeDescriptors ∧ (60 + 4 + 255) / 256 ≤ (sector base {}).freeBlocks) ∧
    (let r : Terminal := { base with cfg := { base.cfg with dropPolicy := .dropNew }
                                     hold := { queue := [frame60 0, frame60 0] } }
     r.cfg.holdQuota ≠ 0 ∧ r.cfg.holdQuota ≤ r.hold.queue.length) ∧
    (let r : Terminal := { base with cfg := { base.cfg with dropPolicy := .dropNew } }
     r.hold.queue.length < r.cfg.holdQuota ∧ ¬ 1 ≤ ({ sector r {} with freeDescriptors := 0 } : Sector).freeDescriptors) ∧
    ((base.cfg.holdQuota ≠ 0 ∧ base.cfg.dropPolicy = .dropOldest)) := by decide

/-- DROP-OLDEST (R144): with the quota reached one head gives way, with no free block two do, and where no frame holds a block to
give the whole queue goes. -/
theorem witness_OfferedFrameJoinsOrIsDiscarded_oldest :
    let x (n : Nat) : Terminal := { base with hold := { queue := List.replicate n (frame60 0) } }
    let fits (s : Sector) (blocks n : Nat) : Bool :=
      decide ((s.term 5).hold.queue.length - n < (s.term 5).cfg.holdQuota) && decide (1 ≤ s.freeDescriptors + n) &&
        decide (blocks ≤ s.freeBlocks + (((s.term 5).hold.queue.take n).map fun h => (h.bytes.length + 255) / 256).sum)
    let full : Sector := { sector (x 1) {} with freeBlocks := 0 }
    (fits (sector (x 2) {}) 1 0 = false ∧ fits (sector (x 2) {}) 1 1 = true) ∧
    (fits { full with terms := [(5, x 2)] } 2 1 = false ∧ fits { full with terms := [(5, x 2)] } 2 2 = true) ∧
    (∀ n ∈ [0, 1], fits full 2 n = false) ∧
    (let u := full.offerFrame 5 (List.replicate 300 0) 0
     (u.term 5).hold = {} ∧ u.freeBlocks = 1 ∧ u.hfs.heldPool = 1 ∧ u.hfs.arrivalPool = 1) := by decide +kernel

theorem witness_AgeYieldAndSettleCountsEnd :
    (([frame60 3001, frame60 3000].takeWhile fun h => decide (base.cfg.holdAge < h.age)) = [frame60 3001] ∧
    ([frame60 3000].takeWhile fun h => decide (base.cfg.holdAge < h.age)) = []) ∧
    (let r : Terminal := { base with hold := { release := .yielding, yieldCount := 1, queue := [frame60 0] } }
     ((state r {}).sector.term 5).hold.release = .yielding ∧ ((state r {}).sector.term 5).hold.yieldCount ≤ 1) ∧
    (let r : Terminal := { inState .trimming with range := { settle := 1 } }
     ((state r {}).sector.term 5).link.state = .trimming ∧ ((state r {}).sector.term 5).range.settle = 1) ∧
    ((state base {}).sector.term 5).hold.release ≠ .yielding ∧ ((state base {}).sector.term 5).link.state ≠ .trimming := by
  decide

theorem witness_CommonChecksRefuse :
    (requestCode .release = some 10 ∧ (ask 10 1 5 []).code.toNat = 10 ∧
      ({ ask 10 1 5 [] with bodyLength := 1 } : Request).rest.length < ({ ask 10 1 5 [] with bodyLength := 1 } : Request).bodyLength) ∧
    (let r := ask 10 1 256 []
     r.bodyLength ≤ r.rest.length ∧ ¬ (r.kind = 1 ∧ r.value.toNat < 256) ∧ ¬ (r.kind = 2 ∧ r.value.toNat < 4) ∧ r.kind ≠ 3) ∧
    ((state base {} [ask 1 2 0 []]).headIs (ask 1 2 0 []) 1 ∧ (ask 1 2 0 []).kind ≠ 1) ∧
    ((state base {} [ask 21 3 0 []]).headIs (ask 21 3 0 []) 21 ∧ (ask 21 3 0 []).kind ≠ 2) ∧
    ((state base {} [ask 20 1 0 []]).headIs (ask 20 1 0 []) 20 ∧ (ask 20 1 0 []).kind ≠ 3) ∧
    (ask 11 1 5 []).code.toNat ≠ 10 ∧
    ¬ (1 ≤ (ask 22 1 0 []).code.toNat ∧ (ask 22 1 0 []).code.toNat ≤ 21) ∧
    (1 ≤ (ask 21 1 0 []).code.toNat ∧ (ask 21 1 0 []).code.toNat ≤ 21) := by decide

/-- A body of one byte where Table 12.6 gives none, under each selector kind. -/
theorem witness_CommonChecksRefuse_empty :
    (∀ p ∈ [((1 : Byte), 1), (10, 10), (14, 14), (18, 18)],
      (state base {} [ask p.1 1 3 [0]]).headIs (ask p.1 1 3 [0]) p.2 ∧ (ask p.1 1 3 [0]).body ≠ []) ∧
    (∀ p ∈ [((9 : Byte), 9), (15, 15), (21, 21), (11, 11)],
      (state base {} [ask p.1 2 3 [0]]).headIs (ask p.1 2 3 [0]) p.2 ∧ (ask p.1 2 3 [0]).body ≠ []) ∧
    (∀ p ∈ [((7 : Byte), 7), (16, 16), (20, 20), (13, 13)],
      (state base {} [ask p.1 3 3 [0]]).headIs (ask p.1 3 3 [0]) p.2 ∧ (ask p.1 3 3 [0]).body ≠ []) := by
  decide

/-- A body of another length than its fixed form. -/
theorem witness_CommonChecksRefuse_lengths :
    (∀ p ∈ [((3 : Byte), 3), (4, 4), (5, 5), (12, 12)],
      (state base {} [ask p.1 1 3 [0, 1, 2]]).headIs (ask p.1 1 3 [0, 1, 2]) p.2 ∧ (ask p.1 1 3 [0, 1, 2]).body.length = 3) ∧
    (∀ p ∈ [((6 : Byte), 6), (17, 17)],
      (state base {} [ask p.1 3 0 [0, 1, 2]]).headIs (ask p.1 3 0 [0, 1, 2]) p.2 ∧ (ask p.1 3 0 [0, 1, 2]).body.length = 3) := by
  decide

theorem witness_TagRequestsByEntry :
    (((state base {} [ask 5 2 0 []]).headIs (ask 5 2 0 []) 5 ∧ ∀ t, ¬ (ask 5 2 0 []).selectsTerminal t) ∧
    (let r := ask 5 1 5 [16, 0]
     (state base {} [r]).headIs r 5 ∧ r.selectsTerminal 5 ∧ r.body = [16, 0] ∧ 4095 < 256 * (16 : Byte).toNat + (0 : Byte).toNat) ∧
    (let r := ask 5 1 5 [15, 255]
     (state base {} [r]).headIs r 5 ∧ r.body = [15, 255] ∧ 256 * (15 : Byte).toNat + (255 : Byte).toNat ≤ 4095)) ∧
    (let s := state base {} [ask 3 1 5 [15, 254]]
     s.headIs (ask 3 1 5 [15, 254]) 3 ∧ (ask 3 1 5 [15, 254]).selectsTerminal 5 ∧ (ask 3 1 5 [15, 254]).body = [15, 254] ∧
     (4094 : Tag).val = 256 * (15 : Byte).toNat + (254 : Byte).toNat ∧ s.tagEntry 4094 = none ∧
     ({ s with tagMap := [(4094, some 5)] } : State).tagEntry 4094 = some 5 ∧
     ({ s with tagMap := [(4094, some 6)] } : State).tagEntry 4094 = some 6) ∧
    (let s := state base {} [ask 4 1 5 [0, 1]]
     s.headIs (ask 4 1 5 [0, 1]) 4 ∧ (ask 4 1 5 [0, 1]).selectsTerminal 5 ∧ (ask 4 1 5 [0, 1]).body = [0, 1] ∧
     (1 : Tag).val = 256 * (0 : Byte).toNat + (1 : Byte).toNat ∧ s.tagEntry 1 = none ∧
     ({ s with tagMap := [(1, some 5)] } : State).tagEntry 1 = some 5 ∧
     ({ s with tagMap := [(1, some 6)] } : State).tagEntry 1 = some 6) ∧
    4095 ≤ 256 * (15 : Byte).toNat + (255 : Byte).toNat ∧
    (∀ p ∈ [((3 : Byte), 3), (4, 4)], (state base {} [ask p.1 1 256 []]).headIs (ask p.1 1 256 []) p.2) ∧
    ∀ t, ¬ (ask 3 1 256 []).selectsTerminal t ∧ ¬ (ask 4 1 256 []).selectsTerminal t := by decide +kernel

theorem witness_ReadsGiveTheirLayouts :
    (∀ p ∈ [((1 : Byte), 1), (18, 18)], (state base {} [ask p.1 1 5 []]).headIs (ask p.1 1 5 []) p.2 ∧
      (ask p.1 1 5 []).selectsTerminal 5 ∧ (ask p.1 1 5 []).body = []) ∧
    (∀ p ∈ [((9 : Byte), 9), (15, 15), (18, 18)], (state base {} [ask p.1 2 3 []]).headIs (ask p.1 2 3 []) p.2 ∧
      (ask p.1 2 3 []).selectsCarrier 3 ∧ (ask p.1 2 3 []).body = []) ∧
    ∀ p ∈ [((7 : Byte), 7), (18, 18)], (state base {} [ask p.1 3 0 []]).headIs (ask p.1 3 0 []) p.2 ∧
      (ask p.1 3 0 []).selectsSector ∧ (ask p.1 3 0 []).body = [] := by decide

theorem witness_EventSetsAreReadAndEnabled :
    ((state base {} [ask 16 3 0 []]).headIs (ask 16 3 0 []) 16 ∧ (ask 16 3 0 []).selectsSector ∧ (ask 16 3 0 []).body = [] ∧
      [(0 : TermNo), 5, 255].Pairwise (· < ·)) ∧
    (let r := ask 17 3 0 [1, 0, 0, 0, 0, 1]
     (state base {} [r]).headIs r 17 ∧ r.selectsSector ∧
     r.body = [true, false, false, false, false, true].map (fun x => if x then 1 else 0)) ∧
    (let r := ask 17 3 0 [2, 0, 0, 0, 0, 0]
     (state base {} [r]).headIs r 17 ∧ ∃ x ∈ r.body, 1 < x.toNat) ∧
    (ask 17 3 0 [0]).body.length ≠ 6 := by decide

theorem witness_NoticeTestAfterEvents :
    (let s : State := { state (inState .serving) (carrier .up (.traffic 5)) with
       mgu := { State.reset.mgu with enables := { stateChange := true } } }
     let i := Instr.slotOutcome 0 0 3 .empty
     requestCode i = none ∧ (∀ c f order, i ≠ .frameStart c f order) ∧ (after i s).sector.events ≠ s.sector.events ∧
     (after i s).sector.events.stateChange ≠ [] ∧ s.mgu.outstanding = false ∧ s.mgu.taking = none ∧
     (after (.listClose 0 9) s).sector.events = s.sector.events) ∧
    (let s : State := { state (inState .serving) (carrier .up (.traffic 5)) [ask 11 1 5 []] with
       mgu := { State.reset.mgu with enables := { stateChange := true }, buffer := [ask 11 1 5 []] } }
     requestCode .hold = some 11 ∧ s.mgu.buffer.head? = some (ask 11 1 5 []) ∧ (ask 11 1 5 []).code.toNat = 11 ∧
     (ask 11 1 5 []).kind = 1 ∧ (after .hold s).sector.events.stateChange ≠ s.sector.events.stateChange) ∧
    (let x : Terminal := { inState .fading with link := { (inState .fading).link with fadeOn := true, fadeCount := 39 } }
     (after (.frameStart 0 1 []) (state x (carrier .up (.traffic 5)))).sector.events.stateChange = [5]) := by
  refine ⟨⟨rfl, fun _ _ _ => by simp, ?_, ?_, ?_, ?_, ?_⟩, ?_, ?_⟩ <;> decide +kernel

theorem witness_SetSectorTakesSettings :
    (let r := ask 19 3 0 ([2, 1, 6] ++ [2, 0, 0, 0, 0, 1] ++ [2, 2] ++ [32, 0])
     (state base {} [r]).headIs r 19 ∧ r.selectsSector ∧ r.body = [2, 1, 6] ++ [2, 0, 0, 0, 0, 1] ++ [2, 2] ++ [32, 0] ∧
     ¬ (beNat [2, 0, 0, 0, 0, 1] = 0 ∨ (([2, 0, 0, 0, 0, 1] : List Byte).getD 0 0).getLsbD 0 = true) ∧ beNat [32, 0] ≤ 8192 ∧
     8192 < beNat [32, 1]) ∧
    (([1, 0, 0, 0, 0, 0] : List Byte).getD 0 0).getLsbD 0 = true ∧
    (∀ x ∈ [([2, 2, 2, 32, 0, 1, 6, 2, 0, 0, 0, 0, 1] : List Byte), [1, 1, 6, 2, 0, 0, 0, 0, 1], [1, 2, 2, 32, 0], [1, 3, 1, 7],
        [2, 1, 6, 2, 0, 0, 0, 0, 1, 1, 6, 2, 0, 0, 0, 0, 1], [2, 2, 2, 32, 0, 2, 2, 32, 0], [1, 1, 1, 7], [1, 2, 0], [1]],
      (state base {} [ask 19 3 0 x]).headIs (ask 19 3 0 x) 19 ∧ (ask 19 3 0 x).body = x) ∧ parseFieldSet [1] = none ∧
    ((state base {} [ask 19 3 0 [0]]).headIs (ask 19 3 0 [0]) 19 ∧ (ask 19 3 0 [0]).body = [0]) := by decide

/-- A LOAD-PROFILE of entry 1 that disables it, its other values at their bounds. -/
def disabling : Request := ask 6 3 0 [1, 0, 6, 4, 100, 128, 127, 63, 63]

theorem witness_LoadProfile_selector : (state base {} [ask 6 1 0 []]).headIs (ask 6 1 0 []) 6 ∧ ¬ (ask 6 1 0 []).selectsSector := by
  decide

theorem witness_LoadProfileChecksAndWrites :
    ((state base {} [disabling]).headIs disabling 6 ∧ disabling.selectsSector ∧ disabling.body = [1, 0, 6, 4, 100, 128, 127, 63, 63] ∧
      ¬ (127 : Byte).toInt < (128 : Byte).toInt) ∧
    ((0 : Byte).toNat < 2 ∧ (6 : Byte).toNat < 7 ∧ (4 : Byte).toNat < 5 ∧ (100 : Byte).toNat ≤ 100 ∧
      (128 : Byte).toInt < (127 : Byte).toInt ∧ 1 ≤ (63 : Byte).toNat ∧ (63 : Byte).toNat ≤ 63) ∧
    (let user : Terminal := { inState .serving with ladder := { current := 1 } }
     let x : Sector := { ((sector user {}).setProfile 1 { enabled := true }) with terms := [(0, user)] }
     (x.profile 1).enabled = true ∧ (x.term 0).cfg.configured = true ∧ (x.term 0).link.state = .serving ∧
     (x.term 0).ladder.current = 1 ∧ ¬ ∃ v : TermNo, v < 0) ∧
    (let bound : Terminal := { base with cfg := { base.cfg with ceiling := 1 } }
     let x : Sector := { ((sector bound {}).setProfile 1 { enabled := true }) with terms := [(0, bound)] }
     (x.profile 1).enabled = true ∧ (∀ v, (x.term v).link.state = .held) ∧ (x.term 0).cfg.configured = true ∧
     (x.term 0).cfg.ceiling = 1) ∧
    ((sector base {}).profile 1).enabled = false := by decide +kernel

theorem witness_WriteTerminalTakesFields :
    (let r := ask 2 1 5 [1, 3, 1, 2]
     let es : List FieldEntry := [{ code := 3, value := [2] }]
     (state base {} [r]).headIs r 2 ∧ r.selectsTerminal 5 ∧ fieldSet termWidth r.body = some es ∧
     ((state base {} [r]).sector.writeCheck 5 es).1 = .done) ∧
    fieldSet termWidth (ask 2 1 5 [1]).body = none ∧
    (let r := ask 2 1 5 [1, 3, 1, 4]
     let es : List FieldEntry := [{ code := 3, value := [4] }]
     fieldSet termWidth r.body = some es ∧ ((state base {} [r]).sector.writeCheck 5 es).1 ≠ .done) ∧
    (let r := ask 2 3 0 [1, 8, 1, 0]
     let es : List FieldEntry := [{ code := 8, value := [0] }]
     (state base {} [r]).headIs r 2 ∧ r.selectsSector ∧ fieldSet termWidth r.body = some es ∧
     ∃ e ∈ es, ¬ (9 ≤ e.code ∧ e.code ≤ 19)) ∧
    ((state base {} [ask 2 3 0 [1]]).headIs (ask 2 3 0 [1]) 2 ∧ (ask 2 3 0 [1]).selectsSector ∧
     fieldSet termWidth (ask 2 3 0 [1]).body = none) := by decide

/-- A written guard period in a running and in a stopped guard: the active copy stays, and follows (R27). -/
theorem test_active_copy :
    (let s (running : Bool) : State :=
       state { inState .guard with link := { (inState .guard).link with guardOn := running } } {} [ask 2 1 5 [1, 19, 2, 1, 44]]
     ((after .writeTerminal (s true)).sector.term 5).cfg.guardPeriod = 300 ∧
     ((after .writeTerminal (s true)).sector.term 5).link.guardActive = 1000 ∧
     ((after .writeTerminal (s false)).sector.term 5).link.guardActive = 300) := by decide +kernel

/-- A request for each outcome of the checks at terminal 5. -/
theorem witness_WriteTerminalChecks :
    (let s (x : Terminal) (k : Carrier) (es : List FieldEntry) := ((sector x k).writeCheck 5 es).1
     let current (n : ProfileNo) : Terminal := { inState .serving with ladder := { current := n } }
     s base {} [{ code := 2, value := [4] }] = .badValue ∧ s base {} [{ code := 3, value := [1] }, { code := 3, value := [2] }] = .badValue ∧
     s base {} [{ code := 6, value := [1] }] = .badValue ∧
     s (inState .dark) {} [{ code := 2, value := [1] }] = .wrongState ∧ s base {} [{ code := 2, value := [1] }] = .done ∧
     s base { cfg := { base := 16 } } [{ code := 5, value := [4] }] = .conflict ∧ s base {} [{ code := 7, value := [1] }] = .conflict ∧
     (((sector (current 2) {}).setProfile 0 { enabled := true }).writeCheck 5 [{ code := 6, value := [0] }]).1 = .inUse) ∧
    (let r := ask 2 1 5 [1, 6, 1, 0]
     let x : Terminal := { inState .called with ladder := { current := 2 } }
     let s : State := { state x {} [r] with sector := (sector x {}).setProfile 0 { enabled := true } }
     s.headIs r 2 ∧ r.selectsTerminal 5 ∧ fieldSet termWidth r.body = some [{ code := 6, value := [0] }] ∧
     (s.sector.writeCheck 5 [{ code := 6, value := [0] }]).1 = .done ∧
     ((after .writeTerminal s).sector.term 5).ladder.current = 0) := by decide +kernel

theorem witness_ConfigurationFieldCodes : (3 : Byte).toNat < 4 ∧ 4 ≤ (4 : Byte).toNat ∧ (7 : Byte).toNat < 8 ∧ 8 ≤ (8 : Byte).toNat ∧
    2 ≤ (2 : Byte).toNat ∧ (3 : Byte) ∉ [(0 : Byte), 1, 2, 4, 8] ∧
    ([31, 0, 7, 2] : List Byte).length ≤ 4 ∧ ([31, 0, 7, 2] : List Byte).Nodup ∧ (∀ x ∈ ([31, 0, 7, 2] : List Byte), x.toNat < 32) ∧
    4 < ([0, 1, 2, 3, 4] : List Byte).length ∧ ¬ ([1, 1] : List Byte).Nodup ∧ 32 ≤ (32 : Byte).toNat ∧
    (1 ≤ 256 * (15 : Byte).toNat + (254 : Byte).toNat ∧ 256 * (15 : Byte).toNat + (254 : Byte).toNat ≤ 4094) ∧
    4095 ≤ 256 * (15 : Byte).toNat + (255 : Byte).toNat := by decide

theorem witness_AcceptedWriteEffects :
    (let r := ask 2 1 5 [1, 1, 1, 1]
     let es : List FieldEntry := [{ code := 1, value := [1] }]
     let s : State := { state Terminal.powerOn {} [r] with
       sector := (sector Terminal.powerOn {}).setProfile 0 { enabled := true } }
     s.headIs r 2 ∧ r.selectsTerminal 5 ∧ fieldSet termWidth r.body = some es ∧ (s.sector.writeCheck 5 es).1 = .done ∧
     ((s.sector.term 5).cfg.configured = false ∧ ((s.sector.term 5).cfg.withFields es).configured = true)) ∧
    (let r := ask 2 1 5 [1, 1, 1, 0]
     let es : List FieldEntry := [{ code := 1, value := [0] }]
     let s := state base {} [r]
     s.headIs r 2 ∧ fieldSet termWidth r.body = some es ∧ (s.sector.writeCheck 5 es).1 = .done ∧
     ((s.sector.term 5).cfg.configured = true ∧ ((s.sector.term 5).cfg.withFields es).configured = false)) := by
  decide +kernel

/-- Accepted writes that keep configured: home slots of a HELD terminal move, a CALLED terminal changes class, and one in ADMITTING
takes auto-admit. -/
theorem witness_AcceptedWriteEffects_kept :
    (let r := ask 2 1 5 [1, 5, 2, 9, 4]
     let s := state base (carrier .up (.traffic 5)) [r]
     let es : List FieldEntry := [{ code := 5, value := [9, 4] }]
     s.headIs r 2 ∧ fieldSet termWidth r.body = some es ∧ (s.sector.writeCheck 5 es).1 = .done ∧
     (base.cfg.withFields es).homeSlots = [4, 9] ∧
     (let k := (after .writeTerminal s).sector.car 0
      k.slotUse 3 = .opened ∧ k.slotUse 4 = .traffic 5 ∧ k.slotUse 9 = .traffic 5)) ∧
    (let r := ask 2 1 6 [1, 3, 1, 1]
     let s := { scheduled (inState .trimming) .empty with mgu := { State.reset.mgu with buffer := [r] } }
     let es : List FieldEntry := [{ code := 3, value := [1] }]
     s.headIs r 2 ∧ (s.sector.term 6).link.state = .called ∧ (s.sector.writeCheck 6 es).1 = .done ∧
     ((after .writeTerminal s).sector.car 0).res.queue = [{ terminal := 6, cls := 1, lastProfile := 0, stamp := 0 }]) ∧
    (let r := ask 2 1 5 [1, 9, 1, 1]
     let s := state (inState .admitting) (carrier .up (.traffic 5)) [r]
     let es : List FieldEntry := [{ code := 9, value := [1] }]
     s.headIs r 2 ∧ (s.sector.writeCheck 5 es).1 = .done ∧ (inState .admitting).cfg.autoAdmit = false ∧
     (inState .admitting).owed.admission = false ∧ (inState .admitting).adm.sent = none ∧
     ((after .writeTerminal s).sector.term 5).owed.admission = true) := by decide +kernel

theorem witness_WriteCarrierTakesSettings :
    (let r := ask 8 2 0 [1, 1, 1, 1]
     let es : List FieldEntry := [{ code := 1, value := [1] }]
     (state base {} [r]).headIs r 8 ∧ r.selectsCarrier 0 ∧ fieldSet carrierWidth r.body = some es ∧
     ((state base {} [r]).sector.carrierCheck 0 es).1 = .done) ∧
    fieldSet carrierWidth (ask 8 2 0 []).body = none ∧
    (let es : List FieldEntry := [{ code := 2, value := [1] }]
     fieldSet carrierWidth (ask 8 2 0 [1, 2, 1, 1]).body = some es ∧ ((state base {}).sector.carrierCheck 0 es).1 ≠ .done) ∧
    (let k := ({} : Carrier)
     k.cfg.enabled = false ∧ ({ k.cfg with enabled := true } : CarrierConfig).enabled = true ∧ k.state = .disabled) ∧
    (let k : Carrier := { cfg := { enabled := true }, state := .up }
     k.cfg.enabled = true ∧ ({ k.cfg with enabled := false } : CarrierConfig).enabled = false ∧ k.state ≠ .disabled) := by
  decide

/-- A set for each outcome of the checks of WRITE-CARRIER, and for each field a refusal by state or conflict names. -/
theorem witness_WriteCarrierChecks :
    let s (x : Terminal) (k : Carrier) (es : List FieldEntry) := (sector x k).carrierCheck 0 es
    let up : Carrier := { cfg := { enabled := true }, state := .up }
    let kinds : FieldEntry := { code := 24, value := [0, 0, 0, 8] }
    (s base {} [{ code := 25, value := [] }]).1 = .badValue ∧ (s base {} [{ code := 2, value := [1] }]).1 = .badValue ∧
    (s base {} [{ code := 1, value := [1] }, { code := 1, value := [1] }]).1 = .badValue ∧
    (s base {} [{ code := 17, value := [3] }, { code := 18, value := [3] }]).1 = .badValue ∧
    s base up [kinds] = (.wrongState, 24) ∧ s (inState .dark) up [{ code := 1, value := [0] }] = (.wrongState, 1) ∧
    s base {} [kinds] = (.conflict, 24) ∧ (s base {} [{ code := 24, value := [0, 0, 0, 4] }]).1 = .done ∧
    (s base up [{ code := 1, value := [0] }]).1 = .done ∧
    (let r := ask 8 2 0 [1, 24, 4, 0, 0, 0, 8]
     (state base {} [r]).headIs r 8 ∧ r.selectsCarrier 0 ∧ fieldSet carrierWidth r.body = some [kinds]) := by decide +kernel

theorem witness_LinkRequestsRefused :
    (∀ p ∈ [((10 : Byte), 10), (11, 11), (13, 13), (14, 14)],
      (state Terminal.powerOn {} [ask p.1 1 5 []]).headIs (ask p.1 1 5 []) p.2 ∧ (ask p.1 1 5 []).selectsTerminal 5 ∧
      (ask p.1 1 5 []).body = [] ∧ ((state Terminal.powerOn {}).sector.term 5).cfg.configured = false) ∧
    ((state base {} [ask 12 1 5 [7]]).headIs (ask 12 1 5 [7]) 12 ∧ (7 : Byte).toNat < 8 ∧ (ask 12 1 5 [7]).body = [7]) ∧
    ((state base {} [ask 13 1 5 []]).headIs (ask 13 1 5 []) 13 ∧ ((state base {}).sector.term 5).link.state = .held) ∧
    ((state base {} [ask 12 1 5 [8]]).headIs (ask 12 1 5 [8]) 12 ∧ ∃ b ∈ (ask 12 1 5 [8]).body, 8 ≤ b.toNat) ∧
    ((state base {} [ask 12 1 5 []]).headIs (ask 12 1 5 []) 12 ∧ (ask 12 1 5 []).body.length ≠ 1) ∧
    (∀ k ∈ [(2 : Byte), 3], (state base {} [ask 12 k 3 [8]]).headIs (ask 12 k 3 [8]) 12) ∧
    (ask 12 2 3 [8]).selectsCarrier 3 ∧ (ask 12 3 3 [8]).selectsSector := by
  decide

theorem witness_ReleaseClearsForcedMark :
    let r := ask 10 1 5 []
    ∀ x ∈ [inState .held, inState .guard, inState .serving],
      (state x (carrier .up (.traffic 5)) [r]).headIs r 10 ∧ r.selectsTerminal 5 ∧ r.body = [] ∧
      ((state x (carrier .up (.traffic 5)) [r]).sector.term 5).cfg.configured = true ∧ x.link.guardOn = false := by decide

theorem witness_HoldTakesTerminalToHeld :
    let r := ask 11 1 5 []
    ∀ x ∈ [inState .held, inState .serving],
      (state x (carrier .up (.traffic 5)) [r]).headIs r 11 ∧ r.selectsTerminal 5 ∧ r.body = [] ∧
      ((state x (carrier .up (.traffic 5)) [r]).sector.term 5).cfg.configured = true := by decide

theorem witness_ForceStateSetsTargetState :
    ∀ b ∈ [(0 : Byte), 1, 2, 3, 4, 5, 6, 7],
      (state (inState .serving) {} [ask 12 1 5 [b]]).headIs (ask 12 1 5 [b]) 12 ∧ (ask 12 1 5 [b]).selectsTerminal 5 ∧
      (ask 12 1 5 [b]).body = [b] ∧ b.toNat < 8 ∧ ((state (inState .serving) {}).sector.term 5).cfg.configured = true := by
  decide

/-- HOLD and FORCE-STATE find a TRIMMING terminal with its GRANT owed, an ADMITTING one with a reclaim pending, a CALLED one, and
a SERVING one with held frames. -/
theorem witness_LeftByRequest :
    let owing : Terminal := { trimming 2 0 with owed := { grant := some { frame := 0, slot := 3 } }, cfg := { base.cfg with homeSlots := [] } }
    let trim := scheduled owing (.granted 5 2)
    (∀ p ∈ [(Instr.hold, (11 : Byte), ([] : List Byte)), (.forceState, 12, [1])],
      let u := (after p.1 { trim with mgu := { State.reset.mgu with buffer := [ask p.2.1 1 5 p.2.2] } }).sector
      (u.term 5).range.attempts = 1 ∧ (u.term 5).range.grant = none ∧ (u.term 5).owed.grant = none ∧
      (u.car 0).cell 0 3 = .empty ∧ (u.car 0).res.ranging = [] ∧ (u.car 0).rng.ended = 1 ∧ (u.car 0).resCtr.grantsWithdrawn = 1) ∧
    (let u := (after .hold { trim with mgu := { State.reset.mgu with buffer := [ask 11 1 6 []] } }).sector
     (u.car 0).res.queue = [] ∧ (u.term 6).link.state = .held) ∧
    (let x : Terminal := { inState .admitting with adm := { reclaimPending := true } }
     let u := (after .forceState (state x (carrier .up (.lent 5 true)) [ask 12 1 5 [7]])).sector
     (u.term 5).adm.reclaimPending = false ∧ (u.car 0).slotUse 3 = .lent 5 false) ∧
    (let x : Terminal := { inState .serving with hold := { queue := [frame60 0] } }
     let u (b : Byte) := (after .forceState (state x (carrier .up (.traffic 5)) [ask 12 1 5 [b]])).sector
     (u 0).hfs.heldState = 1 ∧ ((u 0).term 5).hold = {} ∧ ((u 1).term 5).hold.queue = [frame60 0]) := by decide +kernel

/-- A forced SERVING with a grant of terminal 6 on the home slot, sent and not sent, and with profiles the table does not allow
(R50, R82, R100). -/
theorem test_forced_serving :
    (let other (owed : Option GrantRef) : Terminal :=
       { trimming 2 0 with owed := { grant := owed } }
     let x : Terminal := { base with ladder := { current := 1, pending := some { target := 2, direction := .stepUp, apply := none } }
                                     owed := { profile := true } }
     let s (owed : Option GrantRef) : State :=
       let t := state x (withCell (carrier .up (.lent 5 false)) (.granted 6 2)) [ask 12 1 5 [5]]
       { t with sector := t.sector.modTerm 6 fun _ => other owed }
     let sent := (after .forceState (s none)).sector
     let unsent := (after .forceState (s (some { frame := 0, slot := 3 }))).sector
     (s none).sector.grantOn 0 [3] 6 ∧ (sent.car 0).cell 0 3 = .empty ∧
     (sent.term 6).range.attempts = 1 ∧ (sent.term 6).range.grant = none ∧ (sent.term 6).range.settle = 2 ∧
     (unsent.term 6).range.settle = 0 ∧ (unsent.term 6).owed.grant = none ∧
     (sent.term 5).ladder.current = 0 ∧ (sent.term 5).ladder.pending = none ∧ (sent.term 5).owed.profile = false) := by
  refine ⟨⟨{ frame := 0, slot := 3 }, rfl, by decide, _, List.mem_cons_self .., rfl, 2, rfl⟩, ?_⟩
  decide +kernel

theorem witness_PermitSetsFlagOrOwesAdmit :
    let r := ask 13 1 5 []
    (∀ x ∈ [inState .dark, inState .admitting],
      (state x (carrier .up (.traffic 5)) [r]).headIs r 13 ∧ r.selectsTerminal 5 ∧ r.body = [] ∧
      ((state x {}).sector.term 5).cfg.configured = true ∧ ((state x {}).sector.term 5).link.state ≠ .held) ∧
    (let x := inState .admitting
     x.link.state = .admitting ∧ x.owed.admission = false ∧ x.adm.sent = none ∧ x.adm.reclaimPending = false ∧
     (carrier .up (.traffic 5)).slotUse 3 = .traffic 5) := by decide

theorem witness_FlushHeldEmptiesQueue :
    let r := ask 14 1 5 []
    (state base {} [r]).headIs r 14 ∧ r.selectsTerminal 5 ∧ r.body = [] ∧ ((state base {} [r]).sector.term 5).cfg.configured = true := by
  decide

theorem witness_GroupRequestsApplyToEach :
    (∀ p ∈ [((2 : Byte), 2, [1, 9, 1, 1]), (10, 10, []), (11, 11, []), (12, 12, [(7 : Byte)]), (13, 13, []), (14, 14, [])],
      let r := ask p.1 2 0 p.2.2
      let q := ask p.1 3 0 p.2.2
      ((state base {} [r]).headIs r p.2.1 ∧ r.selectsCarrier 0 ∧ r.body = p.2.2) ∧
      ((state base {} [q]).headIs q p.2.1 ∧ q.selectsSector) ∧ (state base {} [r]).shares = []) ∧
    fieldSet termWidth [1, 9, 1, 1] = some [{ code := 9, value := [1] }] ∧
    ((List.finRange 256).filter fun t => ((state base {}).sector.term t).cfg.configured) = [5] := by decide

theorem witness_GroupRequestIsTakenInShares :
    (let r := ask 11 3 0 []
     let s : State := { state base {} [r] with shares := [0] }
     s.headIs r 11 ∧ s.shares = 0 :: [] ∧ r.selectsSector ∧ r.body = [] ∧
     0 < ((List.finRange 256).filter fun t => (s.sector.term t).cfg.configured).length) ∧
    (let r := ask 11 3 0 []
     let g : GroupTaking := { remaining := [5] }
     let s : State := { state base {} [r] with mgu := { State.reset.mgu with buffer := [r], taking := some g } }
     s.mgu.buffer.head? = some r ∧ r.code.toNat = 11 ∧ s.mgu.taking = some g ∧ s.shares = []) ∧
    requestCode (.carrierLost 0) = none ∧
    (∀ n ∈ [0, 1, 7], ({ state base {} [ask 11 3 0 []] with shares := [n] } : State).headIs (ask 11 3 0 []) 11) ∧
    (let g : GroupTaking := { remaining := [6], results := [(5, .wrongState)] }
     let r := ask 13 2 0 []
     let s : State := { state base {} [r] with mgu := { State.reset.mgu with buffer := [r], taking := some g }, shares := [2] }
     s.mgu.taking = some g ∧ r.selectsCarrier 0 ∧ (after .permit s).mgu.taking = none ∧
     (after .permit s).npMgmt.map MgmtFrame.status = [.wrongState]) := by decide +kernel

theorem witness_SectorResetRestoresDynamicState : (state base {} [ask 20 3 0 []]).headIs (ask 20 3 0 []) 20 ∧ (ask 20 3 0 []).selectsSector ∧
    (ask 20 3 0 []).body = [] := by decide

theorem witness_CarrierRestartTakesTerminalsDark :
    (state base {} [ask 21 2 0 []]).headIs (ask 21 2 0 []) 21 ∧ (ask 21 2 0 []).selectsCarrier 0 ∧ (ask 21 2 0 []).body = [] ∧
    ((state base {}).sector.car 0).state = .disabled ∧ ((state (inState .serving) (carrier .up .opened)).sector.car 0).state ≠ .disabled ∧
    (state (inState .serving) (carrier .up .opened)).sector.bound 0 5 = true := by decide

theorem witness_MalformedRecordDiscarded : malformed [6, 0] ∧ malformed [1, 4, 0, 0] ∧ malformed [4, 0, 0, 0, 32, 0] := by
  refine ⟨?_, ?_, ?_⟩ <;> simp [malformed]

theorem witness_MalformedRecordDiscarded_others : ¬ malformed [2, 3] ∧
    (SlotResult.burst { claimed := 0, offset := 4096, snr := 0, kind := .call false 0 }).inRange = false := by
  refine ⟨?_, by decide⟩
  simp [malformed]

theorem witness_SupervisorCountsFrames :
    let with' (l : LinkFields) : Terminal := { base with link := l }
    let records := [with' { state := .dark, outageOn := true, outage := 16777215 }, inState .serving, inState .admitting,
      with' { state := .guard, guardOn := true, guardCount := 998, guardActive := 1000 },
      with' { state := .guard, guardOn := true, guardCount := 999, guardActive := 1000 },
      with' { state := .fading, fadeOn := true, fadeCount := 38, fadeActive := 40 },
      with' { state := .fading, fadeOn := true, fadeCount := 39, fadeActive := 40 }]
    (∀ x ∈ records, (sector x {}).bound 0 5 = true ∧ (sector x {}).allScheduled) ∧
    (inState .serving).link.outageOn = false ∧ (∀ x ∈ records, x.link.forced = false) ∧
    (inState .admitting).adm.sent = none ∧
    (inState .admitting).adm.wait + 1 < ((sector (inState .admitting) {}).car 0).cfg.admitWaitLimit := by
  unfold Sector.allScheduled Sector.scheduled
  decide +kernel

theorem witness_OutageAndTimersEnd :
    (let x : LinkFields := { state := .dark, outageOn := true, outage := 200, lendActive := 200, warmActive := 200 }
    (x.outageOn = true ∧ x.outage = x.lendActive ∧ x.lendTaken = false) ∧
    (x.outageOn = true ∧ x.outage = x.warmActive ∧ x.warmClosed = false) ∧
    ¬ (({ x with outage := 199 } : LinkFields).outage = x.lendActive)) ∧
    (let x : LinkFields := { state := .fading, fadeOn := true, fadeCount := 40, fadeActive := 40 }
     x.state = .fading ∧ x.fadeOn = true ∧ x.fadeActive ≤ x.fadeCount ∧ x.forced = false ∧ ({ x with forced := true } : LinkFields).forced = true ∧
     ¬ x.fadeActive ≤ ({ x with fadeCount := 39 } : LinkFields).fadeCount) ∧
    (let x : LinkFields := { state := .guard, guardOn := true, guardCount := 1000, guardActive := 1000 }
     x.state = .guard ∧ x.guardOn = true ∧ x.guardActive ≤ x.guardCount ∧ x.forced = false ∧
     ¬ x.guardActive ≤ ({ x with guardCount := 999 } : LinkFields).guardCount) := by decide

theorem witness_AdmissionEndsInGuardOrServing :
    (let x : Terminal := { inState .admitting with adm := { wait := 500 } }
     ((state x {}).sector.term 5).link.state = .admitting ∧ ((state x {}).sector.term 5).adm.sent = none ∧
     ((state x {}).sector.car 0).cfg.admitWaitLimit ≤ ((state x {}).sector.term 5).adm.wait) ∧
    (let x : Terminal := { inState .admitting with adm := { sent := some 0 } }
     ((state x {}).sector.term 5).adm.sent = some 0 ∧ (((state x {}).sector.car 0).lastFrame - 0).toNat ≤ 32767 ∧
     ¬ (((state x {}).sector.car 0).lastFrame - 1).toNat ≤ 32767) := by decide

theorem witness_ApplyFrameAndReclaim :
    (let p : PendingProfile := { target := 0, direction := .stepDown, apply := some 0 }
     let x : Terminal := { inState .serving with ladder := { pending := some p } }
     ((state x {}).sector.term 5).ladder.pending = some p ∧ p.apply = some 0 ∧
     (((state x {}).sector.car 0).lastFrame - 0).toNat ≤ 32767 ∧ 32767 < (((state x {}).sector.car 0).lastFrame - 1).toNat) ∧
    (let k := carrier .up (.lent 5 true)
     (k.slotUse 3 = .lent 5 true ∧ ∀ row ∈ k.calendar, row.cell 3 = .empty) ∧
     (∃ row ∈ (withCell k (.granted 6 1)).calendar, row.cell 3 ≠ .empty) ∧
     (carrier .up (.lent 5 false)).slotUse 3 ≠ .lent 5 true) := by
  decide

theorem witness_CarrierFoundRecoveredAndLost :
    ((carrier .down .opened).state = .down ∧ (carrier .up .opened).state ≠ .down ∧
    (let k : Carrier := { state := .recovering, recovery := 2000 }
     k.state = .recovering ∧ k.cfg.recoveryPeriod ≤ k.recovery ∧ ¬ k.cfg.recoveryPeriod ≤ ({ k with recovery := 1999 } : Carrier).recovery)) ∧
    (carrier .up .opened).state = .up ∧ (carrier .down .opened).state = .down ∧
    (∀ x ∈ [inState .serving, forcedIn .serving, inState .dark],
      (state x (carrier .up .opened)).sector.bound 0 5 = true) ∧ (state base {}).sector.bound 0 6 = false := by decide

/-- A call burst that claims terminal 5. -/
def callBurst : Burst := { claimed := 5, offset := 4095, snr := 100, kind := .call true 7 }

theorem witness_CallOutcomeByLinkState :
    (SlotResult.burst callBurst).inRange = true ∧ callBurst.kind = .call true 7 ∧
    (∀ x ∈ [inState .dark, inState .called, inState .guard, inState .held, inState .serving, forcedIn .dark],
      (0 : FrameNo) = ((state x (withCell (carrier .up .reentry) .offered)).sector.car 0).lastFrame ∧
      ((state x (withCell (carrier .up .reentry) .offered)).sector.car 0).cell 0 3 = .offered ∧
      (state x (withCell (carrier .up .reentry) .offered)).sector.bound 0 5 = true) ∧
    (state Terminal.powerOn (withCell (carrier .up .reentry) .offered)).sector.bound 0 5 = false := by decide

theorem witness_QuietCollidingAndStrayOutcomes :
    (∀ o ∈ [SlotResult.empty, .garbled], o.inRange = true) ∧
    ((state base (withCell (carrier .up .reentry) .offered)).sector.car 0).cell 0 3 = .offered ∧
    ((state (inState .dark) (carrier .up (.traffic 5))).sector.car 0).cell 0 3 = .empty ∧
    ((state (inState .dark) (carrier .up (.traffic 5))).sector.car 0).slotUse 3 = .traffic 5 ∧
    ((state (inState .dark) (carrier .up (.traffic 5))).sector.term 5).link.state = .dark ∧
    (1 : FrameNo) ≠ ((state base {}).sector.car 0).lastFrame := by decide

theorem witness_MissOutcomeInService :
    (∀ x ∈ [inState .serving, forcedIn .serving, inState .fading],
      ((state x (carrier .up (.traffic 5))).sector.car 0).slotUse 3 = .traffic 5 ∧
      ((state x (carrier .up (.traffic 5))).sector.car 0).cell 0 3 = .empty) ∧
    (∀ o ∈ [SlotResult.empty, .burst callBurst], o.inRange = true ∧ goodFor 5 o = none) ∧
    min 15 ((inState .fading).link.fadeMisses + 1) < (inState .fading).cfg.fadeMissLimit ∧
    base.cfg.fadeMissLimit ≤ min 15 (7 + 1) := by decide

/-- A traffic burst of terminal 5 with one payload frame of sixty bytes. -/
def trafficBurst : Burst :=
  { claimed := 5, offset := 0, snr := 60, kind := .traffic { start := true, bits := 1 } false [List.replicate 60 0] }

theorem witness_GoodTrafficBurst :
    (SlotResult.burst trafficBurst).inRange = true ∧
    trafficBurst.kind = .traffic { start := true, bits := 1 } false [List.replicate 60 0] ∧
    (∀ x ∈ [inState .serving, inState .fading],
      ((state x (carrier .up (.traffic 5))).sector.car 0).slotUse 3 = .traffic trafficBurst.claimed ∧
      ((state x (carrier .up (.traffic 5))).sector.car 0).cell 0 3 = .empty) ∧
    (inState .serving).cfg.homeTag = some 7 ∧ ({ base.cfg with homeTag := none } : TermConfig).homeTag = none := by decide

/-- A trim burst of terminal 5 at an offset. -/
def trimBurst (offset : Int) : Burst := { claimed := 5, offset := offset, snr := 40, kind := .trim { start := false, bits := 0 } }

theorem witness_StaleAndUnsentOutcomes :
    (SlotResult.burst (trimBurst 0)).inRange = true ∧
    (let k := withCell (carrier .up .reentry) (.granted 5 1)
     (0 : FrameNo) = k.lastFrame ∧ k.cell 0 3 = .granted 5 1) ∧
    ¬ ((inState .dark).link.state = .trimming ∧ (inState .dark).range.grant = some { frame := 0, slot := 3 }) ∧
    (let x : Terminal := { trimming 1 0 with owed := { grant := some { frame := 0, slot := 3 } } }
     x.link.state = .trimming ∧ x.range.grant = some { frame := 0, slot := 3 } ∧ x.owed.grant ≠ none) := by decide

theorem witness_RangingOutcomeJudgesAttempt :
    (let k := withCell (carrier .up .reentry) (.granted 5 1)
     (0 : FrameNo) = k.lastFrame ∧ k.cell 0 3 = .granted 5 1 ∧ k.cfg.trimLimit = 6 ∧ k.cfg.searchWindow = 1024 ∧
     k.cfg.fineWindow = 4 ∧ k.cfg.targetSnr = 40) ∧
    (∀ x ∈ [trimming 1 0, trimming 6 1], x.cfg.carrier = 0 ∧ x.link.state = .trimming ∧
      x.link.forced = false ∧ x.range.grant = some { frame := 0, slot := 3 } ∧ x.owed.grant = none) ∧
    (∀ d ∈ [(4 : Int), 5, 1024, 1025], (SlotResult.burst (trimBurst d)).inRange = true ∧ (trimBurst d).offset.natAbs = d.natAbs) := by
  decide

/-- The cell of a TRIMMING terminal's grant stands on carrier 0 while the terminal is on carrier 1 (log 34). -/
theorem witness_GrantOnAnotherCarrier :
    let x (owed : Option GrantRef) : Terminal :=
      { trimming 6 0 with cfg := { base.cfg with carrier := 1 }, owed := { grant := owed } }
    let s (owed : Option GrantRef) := state (x owed) (withCell (carrier .up .reentry) (.granted 5 1))
    let run (owed : Option GrantRef) := (after (.slotOutcome 0 0 3 .empty) (s owed)).sector
    ((s none).sector.car 0).cell 0 3 = .granted 5 1 ∧ ((s none).sector.term 5).range.grant = some { frame := 0, slot := 3 } ∧
    ((run none).car 1).rng.outcomes = 1 ∧ ((run none).car 0).rng.outcomes = 0 ∧ ((run none).term 5).link.state = .guard ∧
    ((run (some { frame := 0, slot := 3 })).car 1).rng.unsentOutcomes = 1 := by decide +kernel

theorem witness_EntryEffectsOfLinkStates :
    (let k := withCell (carrier .up (.lent 5 false)) (.granted 5 2)
     let x := trimming 2 1
     (SlotResult.burst (trimBurst 4)).inRange = true ∧ (trimBurst 4).kind = .trim { start := false, bits := 0 } ∧
     (trimBurst 4).claimed = 5 ∧ (0 : FrameNo) = k.lastFrame ∧ k.cell 0 3 = .granted 5 2 ∧ x.cfg.carrier = 0 ∧
     x.link.state = .trimming ∧ x.link.forced = false ∧ x.range.grant = some { frame := 0, slot := 3 } ∧ x.owed.grant = none ∧
     (trimBurst 4).offset.natAbs ≤ k.cfg.fineWindow ∧ k.cfg.fineWindow ≤ k.cfg.searchWindow ∧
     (((trimBurst 4).snr : Int) - (k.cfg.targetSnr : Int)).natAbs ≤ k.cfg.powerWindow ∧ 1 ≤ x.range.measured ∧
     3 ∈ x.cfg.homeSlots ∧ k.slotUse 3 = .lent 5 false) ∧
    (let s := state (inState .serving) (carrier .up (.traffic 5))
     (SlotResult.garbled).inRange = true ∧ (s.sector.car 0).cell 0 3 = .empty ∧ (s.sector.car 0).slotUse 3 = .traffic 5 ∧
     (inState .serving).link.forced = false ∧ goodFor 5 .garbled = none ∧ (s.sector.car 0).cfg.fadeStepDown = true) ∧
    (let x : Terminal := { inState .serving with ladder := { current := 1 } }
     let z := (sector x {}).setProfile 0 { enabled := true }
     (z.profile 0).enabled = true ∧ x.cfg.floor ≤ 0 ∧ (0 : ProfileNo) < x.ladder.current ∧
     ∀ q : ProfileNo, (z.profile q).enabled = true → q ≤ 0) := by decide +kernel

theorem witness_ReportsAreAssembled :
    (trafficBurst.kind = .traffic { start := true, bits := 1 } false [List.replicate 60 0] ∧
      (SlotResult.burst trafficBurst).inRange = true ∧
      ((state (inState .serving) (carrier .up (.traffic 5))).sector.car 0).cell 0 3 = .empty) ∧
    (let k := withCell (carrier .up .reentry) (.granted 5 1)
     (trimBurst 1024).kind = .trim { start := false, bits := 0 } ∧ k.cell 0 3 = .granted 5 1 ∧ (trimming 1 0).owed.grant = none ∧
     (trimBurst 1024).offset.natAbs ≤ k.cfg.searchWindow) ∧
    ([1, 2, 3] : List (BitVec 4)).length = 3 ∧ ([1, 2] : List (BitVec 4)).length < 3 := by decide

theorem witness_LadderDecidesOnReports :
    (let b : Burst := { trafficBurst with kind := .traffic { start := false, bits := 0 } false [] }
     (SlotResult.burst b).inRange = true ∧ b.kind = .traffic { start := false, bits := 0 } false []) ∧
    (let m : Int := min ((15 : BitVec 4) ++ (14 : BitVec 4)).toInt 60
     m = -2 ∧ m < ({ downMargin := -1 } : Profile).downMargin ∧ ¬ m < ({ downMargin := -2 } : Profile).downMargin) ∧
    (let z := ((sector base {}).setProfile 0 { enabled := true }).setProfile 2 { enabled := true, requiredSnr := 10, upMargin := 5 }
     (∀ q : ProfileNo, (z.profile q).enabled = true ∧ q < 2 → q ≤ 0) ∧
     (∀ q : ProfileNo, (z.profile q).enabled = true ∧ 0 < q → 2 ≤ q) ∧
     (z.profile 2).upMargin ≤ 15 + ((z.profile 0).requiredSnr : Int) - ((z.profile 2).requiredSnr : Int) ∧
     ¬ (z.profile 2).upMargin ≤ 14 + ((z.profile 0).requiredSnr : Int) - ((z.profile 2).requiredSnr : Int)) := by decide +kernel

theorem witness_ListCloseHandsOneList :
    (state base (carrier .up .opened)).sector.bound 0 5 = true ∧ (carrier .up .opened).state = .up ∧
    (carrier .down .opened).state = .down := by decide

theorem witness_ListCarriesOwedMarksByRank :
    (carrier .up .opened).state = .up ∧
    carried (fun t => decide (t = 7)) 1 [] [(.halt, 5), (.grant, 5), (.grant, 6), (.grant, 7), (.grant, 8), (.stepUp, 8)] =
      [(.halt, 5), (.grant, 6), (.stepUp, 8)] ∧
    wantsPlace (fun _ => false) 4 [] ((List.replicate 12 ()).zipIdx.map (fun x => (Rank.halt, Fin.ofNat 256 x.2)) ++ [(.halt, 12)]) := by
  refine ⟨rfl, by decide, _, .halt, 12, [], rfl, ?_⟩
  decide +kernel

theorem witness_FillKeepsWithinItsLimits :
    let s := sector (inState .dark) (carrier .up .reentry)
    ((s.fillRow 0 4).car 0).cell 4 3 = .offered ∧ ((s.car 0).cell 4 3) = .empty ∧
    (((s.fillRow 0 4).car 0).row? 4).isSome = true := by decide

theorem scheduled_allScheduled (r : Terminal) (x : Cell) (h : r = trimming 1 0 ∨ r = inState .trimming)
    (hx : x = .granted 5 1 ∨ x = .empty) : (scheduled r x).sector.allScheduled := by
  rcases h with rfl | rfl <;> rcases hx with rfl | rfl <;> unfold Sector.allScheduled Sector.scheduled <;> decide +kernel

theorem witness_ExpiredCellsAndBackoff :
    (let s := scheduled (trimming 1 0) (.granted 5 1)
     s.sector.allScheduled ∧ (s.sector.car 0).windowed ∧ (s.sector.car 0).res.window.length ≤ 64 ∧
     (∃ row ∈ (s.sector.car 0).calendar.filter (fun row => decide (15 < (row.frame - (1 : FrameNo)).toNat)),
       row.frame = 0 ∧ row.cell 3 = .granted 5 1) ∧
     (trimming 1 0).range.attempts < 6 ∧ 6 ≤ (trimming 6 0).range.attempts ∧ (trimming 1 0).link.forced = false) ∧
    (scheduled (trimming 1 0) (.granted 5 1)).canonical := by
  refine ⟨⟨scheduled_allScheduled _ _ (.inl rfl) (.inl rfl), by decide +kernel, by decide, by decide +kernel, by decide, by decide, by decide⟩, ?_⟩
  unfold State.canonical Sector.canonical Carrier.canonical
  decide +kernel

theorem witness_GrantArbiterServesItsClaimants :
    let s := scheduled (inState .trimming) .empty
    ((blockOrder [.csp]).takeWhile fun b => decide (b ≠ .csp)).foldl (State.frameBlock 0 1) s = s ∧
    s.sector.allScheduled ∧ (s.sector.car 0).windowed ∧ (s.sector.car 0).cfg.grantLead ≤ 15 ∧
    (∀ row ∈ (s.sector.car 0).calendar, 15 < (row.frame - (1 : FrameNo)).toNat → ∀ z, (row.cell z).isGrant = false) ∧
    (s.sector.car 0).state = .up ∧ (∃ row, (s.sector.car 0).row? 5 = some row ∧ row.filled = false) ∧
    ((after (.frameStart 0 1 [.csp]) s).sector.car 0).cell 5 3 = .granted 5 1 := by
  refine ⟨rfl, scheduled_allScheduled _ _ (.inr rfl) (.inr rfl), ?_, ?_, ?_, ?_, ⟨_, rfl, ?_⟩, ?_⟩ <;> decide +kernel

/-- The invariants' premises together: a step from reset with an empty queue. -/
theorem witness_invariants : State.reset.fcl.balanced ∧ State.reset.mguBalanced ∧ State.reset.tagsFixed ∧
    (∀ c, (State.reset.sector.car c).windowed) ∧ State.reset.sector.heldFrames = 0 ∧ State.reset.sector.heldBlocks = 0 ∧
    State.reset.sector.freeDescriptors = 4096 ∧ State.reset.sector.freeBlocks = 8192 ∧ Table.wf none State.reset.tagMap = true ∧
    Table.wf Terminal.powerOn State.reset.sector.terms = true ∧ step State.reset = .next State.reset := by
  refine ⟨?_, ?_, ?_, ?_, ?_, ?_, ?_, ?_, ?_, ?_, rfl⟩ <;> decide +kernel

theorem witness_canonical_and_schedules : State.reset.sector.events.ascending ∧ State.reset.sector.allScheduled ∧
    (∀ c, Table.wf .opened (State.reset.sector.car c).slots = true) ∧
    ∀ c, ∀ r ∈ (State.reset.sector.car c).calendar, Table.wf .empty r.cells = true := by
  refine ⟨?_, ?_, by decide, by decide⟩
  · unfold EventSets.ascending; decide
  · unfold Sector.allScheduled Sector.scheduled; decide +kernel

end Sys2Proof.Tests
end

section
/-! SUPPORT. Requests on the Tag Map (R2 to R4): the two-byte numbers of their bodies, what each owner answers by the tag and its
entry, and how the answer leaves the part. -/

namespace Sys2Proof.Machine

/-! ### Numbers of two bytes (Chapter 12) -/

theorem beNat_pair (hi lo : Byte) : beNat [hi, lo] = 256 * hi.toNat + lo.toNat := by
  simp only [beNat, List.foldl_cons, List.foldl_nil]
  omega

theorem twoByteBody_pair (hi lo : Byte) : twoByteBody [hi, lo] = some (256 * hi.toNat + lo.toNat) :=
  congrArg some (beNat_pair hi lo)

theorem be16_eq (n : Nat) : be16 n = [BitVec.ofNat 8 (n / 256), BitVec.ofNat 8 n] := rfl

/-- The two bytes that spell a number are the bytes of that number. -/
theorem be16_pair (hi lo : Byte) : be16 (256 * hi.toNat + lo.toNat) = [hi, lo] := by
  have hhi : BitVec.ofNat 8 ((256 * hi.toNat + lo.toNat) / 256) = hi := by bv_omega
  have hlo : BitVec.ofNat 8 (256 * hi.toNat + lo.toNat) = lo := by bv_omega
  rw [be16_eq, hhi, hlo]

theorem be16_terminal (t : TermNo) : be16 t.val = [0, BitVec.ofNat 8 t.val] := by
  rw [be16_eq, Nat.div_eq_of_lt t.isLt]
  rfl

/-! ### The tag of a body and the response body (R2, R3, Table 12.7) -/

theorem bindable_eq_none {n : Nat} (h : n = 0 ∨ 4095 ≤ n) : bindable n = none := by
  unfold bindable
  split
  · next hlt => exact if_pos (h.resolve_right (not_le.2 hlt))
  · rfl

theorem bindable_tag {tag : Tag} (h0 : tag.val ≠ 0) (h1 : tag.val ≠ 4095) : bindable tag.val = some tag := by
  have hlt : tag.val < 4095 := by omega
  simp only [bindable, hlt, dite_true, h0, if_false]

theorem tagBody_some {tag : Tag} {hi lo : Byte} (h : tag.val = 256 * hi.toNat + lo.toNat) (o : TermNo) :
    tagBody tag (some o) = [hi, lo, 0, BitVec.ofNat 8 o.val] := by
  change be16 tag.val ++ be16 o.val = _
  rw [h, be16_pair, be16_terminal]
  rfl

theorem tagBody_none {tag : Tag} {hi lo : Byte} (h : tag.val = 256 * hi.toNat + lo.toNat) :
    tagBody tag none = [hi, lo, 0xFF, 0xFF] := by
  change be16 tag.val ++ be16 65535 = _
  rw [h, be16_pair]
  rfl

/-- The tag that a two-byte body gives to BIND-TAG or UNBIND-TAG; none when the body has another form or the tag may not be
bound (R2, R3). -/
def Request.tag? (r : Request) : Option Tag := (twoByteBody r.body).bind bindable

theorem Request.tag?_eq_none {r : Request} {hi lo : Byte} (hb : r.body = [hi, lo])
    (h : 256 * hi.toNat + lo.toNat = 0 ∨ 4095 ≤ 256 * hi.toNat + lo.toNat) : r.tag? = none := by
  rw [Request.tag?, hb, twoByteBody_pair]
  exact bindable_eq_none h

theorem Request.tag?_eq_some {r : Request} {hi lo : Byte} {tag : Tag} (hb : r.body = [hi, lo])
    (h : tag.val = 256 * hi.toNat + lo.toNat) (h0 : tag.val ≠ 0) (h1 : tag.val ≠ 4095) : r.tag? = some tag := by
  rw [Request.tag?, hb, twoByteBody_pair, ← h]
  exact bindable_tag h0 h1

/-! ### What the owners answer -/

section Owners
variable {s : State} {r : Request} {t : TermNo} {tag : Tag}

theorem State.bindTagRequest_badTag (h : r.tag? = none) : State.bindTagRequest r t s = (s, .plain .badValue) := by
  unfold Request.tag? at h
  rw [State.bindTagRequest, h]

theorem State.bindTagRequest_bound {o : TermNo} (h : r.tag? = some tag) (he : s.tagEntry tag = some o) :
    State.bindTagRequest r t s = (s, { status := if o = t then .done else .conflict, body := tagBody tag (some o) }) := by
  unfold Request.tag? at h
  simp only [State.bindTagRequest, h, he]

theorem State.bindTagRequest_free (h : r.tag? = some tag) (he : s.tagEntry tag = none) :
    State.bindTagRequest r t s = (s.setTag tag (some t), { status := .done, body := tagBody tag (some t) }) := by
  unfold Request.tag? at h
  simp only [State.bindTagRequest, h, he]

theorem State.unbindTagRequest_badTag (h : r.tag? = none) : State.unbindTagRequest r t s = (s, .plain .badValue) := by
  unfold Request.tag? at h
  rw [State.unbindTagRequest, h]

theorem State.unbindTagRequest_free (h : r.tag? = some tag) (he : s.tagEntry tag = none) :
    State.unbindTagRequest r t s = (s, { status := .done, body := tagBody tag none }) := by
  unfold Request.tag? at h
  simp only [State.unbindTagRequest, h, he]

theorem State.unbindTagRequest_other {o : TermNo} (h : r.tag? = some tag) (he : s.tagEntry tag = some o) (ho : o ≠ t) :
    State.unbindTagRequest r t s = (s, { status := .conflict, body := tagBody tag (some o) }) := by
  unfold Request.tag? at h
  simp only [State.unbindTagRequest, h, he, ho, if_false]

theorem State.unbindTagRequest_own (h : r.tag? = some tag) (he : s.tagEntry tag = some t) :
    State.unbindTagRequest r t s = (s.setTag tag none, { status := .done, body := tagBody tag none }) := by
  unfold Request.tag? at h
  simp only [State.unbindTagRequest, h, he, if_true]

end Owners

/-! ### The continuation tag and the list of READ-TAG (R4) -/

/-- When more than 256 tags remain, the continuation tag is the one after the last listed. -/
theorem continuation_of_more {tags : List Tag} (h : 256 < tags.length) :
    continuation tags = some (((tags.take 256).getLastD 0).val + 1) := by
  have hne : tags.take 256 ≠ [] := List.ne_nil_of_length_pos (by rw [List.length_take]; omega)
  rw [continuation, if_pos h, List.getLastD_eq_getLast?, List.getLast?_eq_some_getLast hne]
  rfl

theorem continuation_of_all {tags : List Tag} (h : ¬ 256 < tags.length) : continuation tags = none := if_neg h

/-- The response body of READ-TAG that lists the first 256 of `tags` (R4, Table 12.7). -/
def readTagBody (tags : List Tag) : List Byte :=
  let shown := tags.take 256
  let more := decide (256 < tags.length)
  be8 (if more then 1 else 0) ++ be16 (if more then (shown.getLastD 0).val + 1 else 0) ++ be16 shown.length ++
    (shown.map fun tag => be16 tag.val).flatten

theorem readTagBody_eq (tags : List Tag) :
    bit (continuation tags).isSome ++ be16 ((continuation tags).getD 0) ++ be16 (tags.take 256).length ++
      ((tags.take 256).map fun tag => be16 tag.val).flatten = readTagBody tags := by
  by_cases h : 256 < tags.length
  · simp [readTagBody, bit, continuation_of_more h, h]
  · simp [readTagBody, bit, continuation_of_all h, h]

theorem State.readTagRequest_above {s : State} {r : Request} {t : TermNo} {start : Nat} (hb : twoByteBody r.body = some start)
    (h : 4095 < start) : State.readTagRequest r t s = (s, .plain .badValue) := by
  simp only [State.readTagRequest, hb, h, if_true]

theorem State.readTagRequest_lists {s : State} {r : Request} {t : TermNo} {start : Nat} (hb : twoByteBody r.body = some start)
    (h : start ≤ 4095) :
    State.readTagRequest r t s = (s, { status := .done, body := readTagBody (s.tagsOf t start) }) := by
  simp only [State.readTagRequest, hb, not_lt.2 h, if_false, readTagBody_eq]

/-! ### Taking a request with a TERMINAL selector (R169, R170) -/

theorem Request.terminal?_eq_none {r : Request} (h : ∀ t, ¬ r.selectsTerminal t) : r.terminal? = none := by
  unfold Request.terminal?
  split
  · next hlt => exact if_neg fun hk => h ⟨r.value.toNat, hlt⟩ ⟨hk, rfl⟩
  · rfl

/-- A request within its frame whose selector finds nothing is refused with BAD-SELECTOR. -/
theorem State.serve_badSelector {α : Type} {s : State} {r : Request} {code : Nat} (pick : Request → Option α)
    (own : Request → α → State → State × Reply) (blank : Request → List Byte) (h : s.headIs r code) (hp : pick r = none) :
    s.serve code pick own blank = State.respond s s r (.plain .badSelector) := by
  obtain ⟨rest, hb⟩ := State.headIs_buffer h
  obtain ⟨-, hc, hl, hn⟩ := h
  unfold State.serve
  rw [hb]
  simp only [hc, hn, and_self, if_true]
  unfold State.judge
  rw [if_neg (not_lt.2 hl), hp]

theorem exec_bindTag (s : State) : exec .bindTag s = .next (s.serve 3 Request.terminal? State.bindTagRequest) := rfl

theorem exec_unbindTag (s : State) : exec .unbindTag s = .next (s.serve 4 Request.terminal? State.unbindTagRequest) := rfl

theorem exec_readTag (s : State) : exec .readTag s = .next (s.serve 5 Request.terminal? State.readTagRequest) := rfl

section Taken
variable {i : Instr} {s : State} {r : Request} {t : TermNo} {code : Nat} {own : Request → TermNo → State → State × Reply}

/-- A command that serves requests with a TERMINAL selector refuses any other selector with BAD-SELECTOR (R170). -/
theorem exec_answers_badSelector (hexec : exec i s = .next (s.serve code Request.terminal? own)) (h : s.headIs r code)
    (hr : ∀ t, ¬ r.selectsTerminal t) :
    ∃ u, exec i s = .next u ∧ Answered s u r .badSelector [] ∧ OnlyAnswered s u := by
  rw [hexec, State.serve_badSelector _ _ _ h (Request.terminal?_eq_none hr)]
  exact ⟨_, rfl, State.respond_answered s s r _ rfl rfl rfl, State.respond_onlyAnswered s r _⟩

/-- A request whose owner leaves the state is answered with the owner's reply, and nothing else changes. -/
theorem exec_answers_of_owner_keeps (hexec : exec i s = .next (s.serve code Request.terminal? own)) (h : s.headIs r code)
    (ht : r.selectsTerminal t) {x : Status} {body : List Byte} (ho : own r t s = (s, { status := x, body := body })) :
    ∃ u, exec i s = .next u ∧ Answered s u r x body ∧ OnlyAnswered s u := by
  rw [hexec, State.serve_head _ _ _ h (Request.terminal?_eq ht), ho]
  exact ⟨_, rfl, State.respond_answered s s r _ rfl rfl rfl, State.respond_onlyAnswered s r _⟩

/-- A request whose owner sets one Tag Map entry is answered with the owner's reply, and only that entry changes. -/
theorem exec_answers_of_owner_setTag (hexec : exec i s = .next (s.serve code Request.terminal? own)) (h : s.headIs r code)
    (ht : r.selectsTerminal t) {tag : Tag} {e : Option TermNo} {x : Status} {body : List Byte}
    (ho : own r t s = (s.setTag tag e, { status := x, body := body })) :
    ∃ u, exec i s = .next u ∧ Answered s u r x body ∧ OnlyAnswered s { u with tagMap := s.tagMap } ∧
      u.tagEntry tag = e ∧ ∀ other, other ≠ tag → u.tagEntry other = s.tagEntry other := by
  rw [hexec, State.serve_head _ _ _ h (Request.terminal?_eq ht), ho]
  have hentry (j : Tag) (a : Reply) :
      (State.respond s (s.setTag tag e) r a).tagEntry j = if j = tag then e else s.tagEntry j :=
    State.setTag_tagEntry s tag j e
  refine ⟨_, rfl, State.respond_answered s (s.setTag tag e) r _ rfl rfl rfl, ?_, ?_, ?_⟩
  · exact ⟨rfl, rfl, rfl, rfl, rfl, rfl, rfl, rfl, rfl, rfl, rfl, rfl⟩
  · exact (hentry tag _).trans (if_pos rfl)
  · exact fun other hother => (hentry other _).trans (if_neg hother)

end Taken

/-! ### The statement -/

/-- Settles O10: each request is answered as its owner answers it, by the tag its body gives and the entry found there. -/
theorem tagRequestsByEntry : Obligations.TagRequestsByEntry := by
  refine ⟨fun r s hr => ⟨fun h => exec_answers_badSelector (exec_bindTag s) h hr,
    fun h => exec_answers_badSelector (exec_unbindTag s) h hr⟩, ?bind, ?unbind,
    fun r s h hr => exec_answers_badSelector (exec_readTag s) h hr, ?read⟩
  case bind =>
    intro r t hi lo s h ht hb n
    have keeps {x : Status} {body : List Byte} := exec_answers_of_owner_keeps (x := x) (body := body) (exec_bindTag s) h ht
    refine ⟨fun hn => keeps (State.bindTagRequest_badTag (Request.tag?_eq_none hb hn)), fun tag htag h0 h1 => ?_⟩
    have hr : r.tag? = some tag := Request.tag?_eq_some hb htag (htag ▸ h0) (htag ▸ h1)
    simp only [← tagBody_some htag]
    refine ⟨fun o he ho => keeps ?_, fun he => keeps ?_, fun he => ?_⟩
    · rw [State.bindTagRequest_bound hr he, if_neg ho]
    · rw [State.bindTagRequest_bound hr he, if_pos rfl]
    · exact exec_answers_of_owner_setTag (exec_bindTag s) h ht (State.bindTagRequest_free hr he)
  case unbind =>
    intro r t hi lo s h ht hb n
    have keeps {x : Status} {body : List Byte} := exec_answers_of_owner_keeps (x := x) (body := body) (exec_unbindTag s) h ht
    refine ⟨fun hn => keeps (State.unbindTagRequest_badTag (Request.tag?_eq_none hb hn)), fun tag htag h0 h1 => ?_⟩
    have hr : r.tag? = some tag := Request.tag?_eq_some hb htag (htag ▸ h0) (htag ▸ h1)
    simp only [← tagBody_some htag, ← tagBody_none htag]
    exact ⟨fun o he ho => keeps (State.unbindTagRequest_other hr he ho),
      fun he => keeps (State.unbindTagRequest_free hr he),
      fun he => exec_answers_of_owner_setTag (exec_unbindTag s) h ht (State.unbindTagRequest_own hr he)⟩
  case read =>
    intro r t hi lo s h ht hb start tags shown more next
    have keeps {x : Status} {body : List Byte} := exec_answers_of_owner_keeps (x := x) (body := body) (exec_readTag s) h ht
    have hstart : twoByteBody r.body = some start := by rw [hb, twoByteBody_pair]
    have htags : s.tagsOf t start = tags := rfl
    refine ⟨fun habove => keeps (State.readTagRequest_above hstart habove), fun hle => ?_⟩
    have hlist := State.readTagRequest_lists (s := s) (t := t) hstart hle
    rw [htags] at hlist
    exact keeps hlist

end Sys2Proof.Machine
end

section
/-! SUPPORT. WRITE-TERMINAL at one record (R19 to R23): what each check of Table 2.2 finds, in the spec's words; the status they
give in their order; and how the request at one terminal is answered. -/

namespace Sys2Proof.Machine

/-! ### Fields named by a set (R19, R20) -/

theorem names_iff {es : List FieldEntry} {c : Nat} : names es c = true ↔ ∃ e ∈ es, e.code = c := by
  simp only [names, List.any_eq_true, decide_eq_true_eq]

theorem isTermField_iff {c : Nat} : isTermField c = true ↔ 1 ≤ c ∧ c ≤ 19 := by
  simp only [isTermField, Bool.and_eq_true, decide_eq_true_eq]

/-- Codes are distinct exactly when no entry's code occurs twice. -/
theorem nodup_codes_iff {es : List FieldEntry} :
    (es.map FieldEntry.code).Nodup ↔ ∀ e ∈ es, es.countP (fun x => decide (x.code = e.code)) ≤ 1 := by
  have hcount (c : Nat) : (es.map FieldEntry.code).count c = es.countP fun x => decide (x.code = c) := by
    rw [List.count_eq_countP, List.countP_map]
    exact List.countP_congr fun x _ => by simp
  refine List.nodup_iff_count_le_one.trans ⟨fun h e _ => hcount e.code ▸ h e.code, fun h c => ?_⟩
  by_cases hc : c ∈ es.map FieldEntry.code
  · obtain ⟨e, he, rfl⟩ := List.mem_map.1 hc
    exact hcount e.code ▸ h e he
  · exact (List.count_eq_zero_of_not_mem hc).trans_le (Nat.zero_le 1)

theorem misnamed_eq_nil {known : Nat → Bool} {es : List FieldEntry} :
    misnamed known es = [] ↔ (∀ e ∈ es, known e.code = true) ∧ (es.map FieldEntry.code).Nodup := by
  rw [nodup_codes_iff, ← forall₂_and]
  simp only [misnamed, List.map_eq_nil_iff, List.filter_eq_nil_iff, Bool.or_eq_true, Bool.not_eq_true', decide_eq_true_eq,
    not_or, Bool.not_eq_false, not_lt]

/-- A check that names one field when it fails passes exactly when it does not fail. -/
theorem ite_singleton_eq_nil {p : Prop} [Decidable p] {n : Nat} : (if p then [n] else []) = [] ↔ ¬ p := by
  rw [ite_eq_right_iff]
  exact forall_congr' fun _ => iff_of_false (List.cons_ne_nil n []) id

/-! ### BAD-VALUE (R20) -/

/-- A field set passes the check of order 2: each code is a field named once, each value in its range, and the three profiles
are in order (R20). -/
def TermConfig.Fits (old : TermConfig) (es : List FieldEntry) : Prop :=
  (∀ e ∈ es, 1 ≤ e.code ∧ e.code ≤ 19 ∧ (old.setField e).isSome = true) ∧
  (es.map FieldEntry.code).Nodup ∧ (old.withFields es).floor ≤ (old.withFields es).reentry ∧
  (old.withFields es).reentry ≤ (old.withFields es).ceiling

/-- The codes that fail by themselves: misnamed, or with a value out of range (R20). -/
def singleFailures (old : TermConfig) (es : List FieldEntry) : List Nat :=
  misnamed isTermField es ++ (es.filter fun e => isTermField e.code && (old.setField e).isNone).map (·.code)

theorem singleFailures_eq_nil {old : TermConfig} {es : List FieldEntry} :
    singleFailures old es = [] ↔
      (∀ e ∈ es, 1 ≤ e.code ∧ e.code ≤ 19 ∧ (old.setField e).isSome = true) ∧ (es.map FieldEntry.code).Nodup := by
  have hrange : (es.filter fun e => isTermField e.code && (old.setField e).isNone).map (·.code) = [] ↔
      ∀ e ∈ es, isTermField e.code = true → (old.setField e).isSome = true := by
    simp only [List.map_eq_nil_iff, List.filter_eq_nil_iff, Bool.and_eq_true, not_and, Option.isNone_iff_eq_none,
      Option.isSome_iff_ne_none, ne_eq]
  rw [singleFailures, List.append_eq_nil_iff, misnamed_eq_nil, hrange]
  simp only [← isTermField_iff, ← and_assoc]
  constructor
  · rintro ⟨⟨hknown, hnodup⟩, hvalue⟩
    exact ⟨fun e he => ⟨hknown e he, hvalue e he (hknown e he)⟩, hnodup⟩
  · rintro ⟨hfields, hnodup⟩
    exact ⟨⟨fun e he => (hfields e he).1, hnodup⟩, fun e he _ => (hfields e he).2⟩

/-- When a code fails by itself the set is refused; the order of the profiles decides only when none does. -/
theorem rangeFailures_eq_nil {old : TermConfig} {es : List FieldEntry} : rangeFailures old es = [] ↔ old.Fits es := by
  have hfits : old.Fits es ↔ singleFailures old es = [] ∧ (old.withFields es).floor ≤ (old.withFields es).reentry ∧
      (old.withFields es).reentry ≤ (old.withFields es).ceiling := by
    rw [singleFailures_eq_nil, and_assoc]; rfl
  rw [hfits]
  unfold rangeFailures
  dsimp only
  rw [← singleFailures]
  by_cases hs : singleFailures old es = []
  · have hwhole (codes : List Nat) : (codes.any fun c => (singleFailures old es).contains c) = false := by
      simp [hs]
    have hbounds : (old.withFields es).floor ≤ (old.withFields es).reentry →
        (old.withFields es).reentry ≤ (old.withFields es).ceiling →
        (old.withFields es).floor ≤ (old.withFields es).ceiling := le_trans
    simpa [hwhole, hs] using hbounds
  · simp only [List.append_assoc, List.append_eq_nil_iff, hs, false_and]

/-! ### WRONG-STATE (R21) -/

/-- A configured record in any state but HELD would change its carrier, its home slots, or configured to no (R21). -/
def Terminal.NeedsHeld (r : Terminal) (new : TermConfig) : Prop :=
  r.cfg.configured = true ∧ r.link.state ≠ .held ∧
  (new.carrier ≠ r.cfg.carrier ∨ new.homeSlots ≠ r.cfg.homeSlots ∨ new.configured = false)

theorem stateFailures_eq_nil {r : Terminal} {new : TermConfig} : stateFailures r new = [] ↔ ¬ r.NeedsHeld new := by
  unfold stateFailures Terminal.NeedsHeld
  by_cases h : r.cfg.configured = true ∧ r.link.state ≠ .held
  · rw [if_pos h, ← and_assoc, and_iff_right h]
    simp only [List.append_eq_nil_iff, ite_singleton_eq_nil, not_or]
    exact and_assoc.trans and_rotate
  · rw [if_neg h, ← and_assoc]
    exact iff_of_true rfl fun hn => h hn.1

/-! ### CONFLICT (R22, R23) -/

theorem Sector.mem_boundTo {s : Sector} {c : CarrierNo} {t : TermNo} :
    t ∈ s.boundTo c ↔ (s.term t).cfg.configured = true ∧ (s.term t).cfg.carrier = c := by
  simp [Sector.boundTo, mem_allTerminals, Sector.bound]

/-- A home slot of the new configuration is another configured terminal's of the carrier, or REENTRY there (R22). -/
def Sector.HomeClash (s : Sector) (t : TermNo) (new : TermConfig) : Prop :=
  new.configured = true ∧
  ((s.term t).cfg.configured = false ∨ new.carrier ≠ (s.term t).cfg.carrier ∨ new.homeSlots ≠ (s.term t).cfg.homeSlots) ∧
  ∃ slot ∈ new.homeSlots, (s.car new.carrier).cfg.baseKind slot = .reentry ∨
    ∃ v, v ≠ t ∧ (s.term v).cfg.configured = true ∧ (s.term v).cfg.carrier = new.carrier ∧ slot ∈ (s.term v).cfg.homeSlots

/-- The profile checks run: the set names a profile field, or sets configured to yes (R23). -/
abbrev Judged (es : List FieldEntry) (new : TermConfig) : Prop :=
  (∃ e ∈ es, e.code = 6) ∨ (∃ e ∈ es, e.code = 7) ∨ (∃ e ∈ es, e.code = 8) ∨
  ((∃ e ∈ es, e.code = 1) ∧ new.configured = true)

/-- The profile checks run at a configured record, and one of its three profiles is disabled (R23). -/
def Sector.HasDisabledProfile (s : Sector) (es : List FieldEntry) (new : TermConfig) : Prop :=
  Judged es new ∧ new.configured = true ∧ ∃ p ∈ [new.floor, new.ceiling, new.reentry], (s.profile p).enabled = false

theorem profileCheckRuns_iff {es : List FieldEntry} {new : TermConfig} : profileCheckRuns es new = true ↔ Judged es new := by
  simp only [profileCheckRuns, Bool.or_eq_true, Bool.and_eq_true, names_iff, or_assoc, Judged]

theorem homeCheckRuns_iff {old new : TermConfig} :
    homeCheckRuns old new = true ↔ new.configured = true ∧
      (old.configured = false ∨ new.carrier ≠ old.carrier ∨ new.homeSlots ≠ old.homeSlots) := by
  simp only [homeCheckRuns, Bool.and_eq_true, Bool.or_eq_true, Bool.not_eq_true', decide_eq_true_eq, or_assoc]

theorem Sector.slotClash_iff {s : Sector} {t : TermNo} {c : CarrierNo} {slot : SlotNo} :
    s.slotClash t c slot = true ↔ (s.car c).cfg.baseKind slot = .reentry ∨
      ∃ v, v ≠ t ∧ (s.term v).cfg.configured = true ∧ (s.term v).cfg.carrier = c ∧ slot ∈ (s.term v).cfg.homeSlots := by
  simp only [Sector.slotClash, Bool.or_eq_true, List.any_eq_true, Bool.and_eq_true, decide_eq_true_eq, List.contains_iff_mem,
    Sector.mem_boundTo]
  rw [or_comm]
  exact or_congr_right (exists_congr fun v => ⟨fun ⟨⟨hc, hk⟩, hv, hs⟩ => ⟨hv, hc, hk, hs⟩,
    fun ⟨hv, hc, hk, hs⟩ => ⟨⟨hc, hk⟩, hv, hs⟩⟩)

theorem Sector.homeClash_iff {s : Sector} {t : TermNo} {new : TermConfig} :
    (homeCheckRuns (s.term t).cfg new && new.homeSlots.any (s.slotClash t new.carrier)) = true ↔ s.HomeClash t new := by
  simp only [Bool.and_eq_true, homeCheckRuns_iff, List.any_eq_true, Sector.slotClash_iff, and_assoc, Sector.HomeClash]

theorem Sector.disabledProfiles_eq_nil {s : Sector} {new : TermConfig} :
    s.disabledProfiles new = [] ↔ ¬ ∃ p ∈ [new.floor, new.ceiling, new.reentry], (s.profile p).enabled = false := by
  simp [Sector.disabledProfiles]

/-- A check fails exactly when it runs and what it looks for is found: the field it then names does not matter here. -/
theorem Sector.conflictFailures_eq_nil {s : Sector} {t : TermNo} {es : List FieldEntry} {new : TermConfig} :
    s.conflictFailures t es new = [] ↔ ¬ (s.HomeClash t new ∨ s.HasDisabledProfile es new) := by
  unfold Sector.conflictFailures
  dsimp only
  rw [List.append_eq_nil_iff, not_or]
  refine and_congr ?home ?profiles
  case home =>
    rw [ite_singleton_eq_nil, Sector.homeClash_iff]
  case profiles =>
    have hruns : (profileCheckRuns es new && new.configured) = true ↔ Judged es new ∧ new.configured = true := by
      rw [Bool.and_eq_true, profileCheckRuns_iff]
    by_cases hrun : Judged es new ∧ new.configured = true
    · have hfails : ¬ s.HasDisabledProfile es new ↔ s.disabledProfiles new = [] := by
        rw [Sector.disabledProfiles_eq_nil, Sector.HasDisabledProfile, ← and_assoc, and_iff_right hrun]
      rw [if_pos (hruns.2 hrun), hfails]
      cases hl : s.disabledProfiles new with
      | nil => exact iff_of_true rfl rfl
      | cons x l =>
        refine iff_of_false ?_ (List.cons_ne_nil x l)
        dsimp only
        split
        · exact List.cons_ne_nil _ _
        · split
          · exact List.cons_ne_nil _ _
          · next hn => exact fun h => hn (List.isEmpty_iff.2 h)
    · rw [if_neg (mt hruns.1 hrun)]
      exact iff_of_true rfl fun ⟨hjudged, hconfigured, _⟩ => hrun ⟨hjudged, hconfigured⟩

/-! ### IN-USE (R23) -/

/-- The profile checks run at a terminal in ADMITTING, SERVING or FADING, and its current or pending profile would lie outside
the new bounds (R23). -/
def Terminal.UsesOutside (r : Terminal) (es : List FieldEntry) (new : TermConfig) : Prop :=
  Judged es new ∧ (r.link.state = .admitting ∨ r.link.state = .serving ∨ r.link.state = .fading) ∧
  ((r.ladder.current < new.floor ∨ new.ceiling < r.ladder.current) ∨
    ∃ p, r.ladder.pending = some p ∧ (p.target < new.floor ∨ new.ceiling < p.target))

theorem LinkState.usesProfile_iff {l : LinkState} : l.usesProfile = true ↔ l = .admitting ∨ l = .serving ∨ l = .fading := by
  cases l <;> decide

theorem TermConfig.outside_iff {k : TermConfig} {p : ProfileNo} : k.outside p = true ↔ p < k.floor ∨ k.ceiling < p := by
  simp only [TermConfig.outside, Bool.or_eq_true, decide_eq_true_eq]

theorem inUseFailures_eq_nil {r : Terminal} {es : List FieldEntry} {new : TermConfig} :
    inUseFailures r es new = [] ↔ ¬ r.UsesOutside es new := by
  unfold inUseFailures Terminal.UsesOutside
  cases r.ladder.pending with
  | none => simp [profileCheckRuns_iff, LinkState.usesProfile_iff, TermConfig.outside_iff]
  | some p => simp [profileCheckRuns_iff, LinkState.usesProfile_iff, TermConfig.outside_iff]

/-! ### The checks in their order -/

section Checks
variable {s : Sector} {t : TermNo} {es : List FieldEntry}

theorem Sector.writeCheck_badValue (hfits : ¬ (s.term t).cfg.Fits es) : (s.writeCheck t es).1 = .badValue := by
  obtain ⟨x, l, hx⟩ := List.exists_cons_of_ne_nil (rangeFailures_eq_nil.not.2 hfits)
  simp only [Sector.writeCheck, hx]

theorem Sector.writeCheck_wrongState (hfits : (s.term t).cfg.Fits es)
    (hwrong : (s.term t).NeedsHeld ((s.term t).cfg.withFields es)) : (s.writeCheck t es).1 = .wrongState := by
  obtain ⟨x, l, hx⟩ := List.exists_cons_of_ne_nil (stateFailures_eq_nil.not.2 (not_not_intro hwrong))
  simp only [Sector.writeCheck, rangeFailures_eq_nil.2 hfits, hx]

theorem Sector.writeCheck_conflict (hfits : (s.term t).cfg.Fits es)
    (hwrong : ¬ (s.term t).NeedsHeld ((s.term t).cfg.withFields es))
    (hconf : s.HomeClash t ((s.term t).cfg.withFields es) ∨ s.HasDisabledProfile es ((s.term t).cfg.withFields es)) :
    (s.writeCheck t es).1 = .conflict := by
  obtain ⟨x, l, hx⟩ := List.exists_cons_of_ne_nil (Sector.conflictFailures_eq_nil.not.2 (not_not_intro hconf))
  simp only [Sector.writeCheck, rangeFailures_eq_nil.2 hfits, stateFailures_eq_nil.2 hwrong, hx]

theorem Sector.writeCheck_inUse (hfits : (s.term t).cfg.Fits es)
    (hwrong : ¬ (s.term t).NeedsHeld ((s.term t).cfg.withFields es))
    (hconf : ¬ (s.HomeClash t ((s.term t).cfg.withFields es) ∨ s.HasDisabledProfile es ((s.term t).cfg.withFields es)))
    (hused : (s.term t).UsesOutside es ((s.term t).cfg.withFields es)) : (s.writeCheck t es).1 = .inUse := by
  obtain ⟨x, l, hx⟩ := List.exists_cons_of_ne_nil (inUseFailures_eq_nil.not.2 (not_not_intro hused))
  simp only [Sector.writeCheck, rangeFailures_eq_nil.2 hfits, stateFailures_eq_nil.2 hwrong,
    Sector.conflictFailures_eq_nil.2 hconf, hx]

theorem Sector.writeCheck_done (hfits : (s.term t).cfg.Fits es)
    (hwrong : ¬ (s.term t).NeedsHeld ((s.term t).cfg.withFields es))
    (hconf : ¬ (s.HomeClash t ((s.term t).cfg.withFields es) ∨ s.HasDisabledProfile es ((s.term t).cfg.withFields es)))
    (hused : ¬ (s.term t).UsesOutside es ((s.term t).cfg.withFields es)) : (s.writeCheck t es).1 = .done := by
  simp only [Sector.writeCheck, rangeFailures_eq_nil.2 hfits, stateFailures_eq_nil.2 hwrong,
    Sector.conflictFailures_eq_nil.2 hconf, inUseFailures_eq_nil.2 hused]

end Checks

/-- Each status is found exactly when its check fails and those before it pass. -/
theorem Sector.writeCheck_iff (s : Sector) (t : TermNo) (es : List FieldEntry) :
    let r := s.term t
    let new := r.cfg.withFields es
    let status := (s.writeCheck t es).1
    (status = .badValue ↔ ¬ r.cfg.Fits es) ∧
    (status = .wrongState ↔ r.cfg.Fits es ∧ r.NeedsHeld new) ∧
    (status = .conflict ↔ r.cfg.Fits es ∧ ¬ r.NeedsHeld new ∧ (s.HomeClash t new ∨ s.HasDisabledProfile es new)) ∧
    (status = .inUse ↔ r.cfg.Fits es ∧ ¬ r.NeedsHeld new ∧ ¬ s.HomeClash t new ∧ ¬ s.HasDisabledProfile es new ∧
      r.UsesOutside es new) ∧
    (status = .done ↔ r.cfg.Fits es ∧ ¬ r.NeedsHeld new ∧ ¬ s.HomeClash t new ∧ ¬ s.HasDisabledProfile es new ∧
      ¬ r.UsesOutside es new) := by
  intro r new
  by_cases hfits : r.cfg.Fits es
  · by_cases hwrong : r.NeedsHeld new
    · simp [Sector.writeCheck_wrongState hfits hwrong, hfits, hwrong]
    · by_cases hconf : s.HomeClash t new ∨ s.HasDisabledProfile es new
      · have hnot (p : Prop) : ¬ (¬ s.HomeClash t new ∧ ¬ s.HasDisabledProfile es new ∧ p) := fun h =>
          hconf.elim h.1 h.2.1
        simp [Sector.writeCheck_conflict hfits hwrong hconf, hfits, hwrong, hconf, hnot]
      · have hpair : ¬ s.HomeClash t new ∧ ¬ s.HasDisabledProfile es new := not_or.1 hconf
        by_cases hused : r.UsesOutside es new
        · simp [Sector.writeCheck_inUse hfits hwrong hconf hused, hfits, hwrong, hpair, hused]
        · simp [Sector.writeCheck_done hfits hwrong hconf hused, hfits, hwrong, hpair, hused]
  · simp [Sector.writeCheck_badValue hfits, hfits]

/-! ### The effect of an accepted write on the ladder (R23) -/

theorem Terminal.rebound_ladder (es : List FieldEntry) (r : Terminal) :
    (r.rebound es).ladder =
      if profileCheckRuns es r.cfg && (decide (r.link.state = .called) || decide (r.link.state = .trimming)) &&
          r.cfg.outside r.ladder.current then { r.ladder with current := r.cfg.reentry } else r.ladder := by
  rw [Terminal.rebound, apply_ite Terminal.ladder]

/-- A current profile outside the new bounds becomes the re-entry profile in CALLED and TRIMMING, when the profile checks run. -/
theorem Terminal.configure_ladder (es : List FieldEntry) (new : TermConfig) (r : Terminal) :
    (r.configure es new).ladder =
      if Judged es new ∧ (r.link.state = .called ∨ r.link.state = .trimming) ∧
          (r.ladder.current < new.floor ∨ new.ceiling < r.ladder.current)
        then { r.ladder with current := new.reentry } else r.ladder := by
  rw [Terminal.configure, Terminal.rebound_ladder]
  simp only [Bool.and_eq_true, Bool.or_eq_true, decide_eq_true_eq, profileCheckRuns_iff, TermConfig.outside_iff, and_assoc]
  rfl

theorem Sector.examineAdmission_ladder (s : Sector) (t : TermNo) :
    ((s.examineAdmission t).term t).ladder = (s.term t).ladder := by
  unfold Sector.examineAdmission
  dsimp only
  split
  · rw [Sector.term_modTerm, if_pos rfl]
  · rfl

/-- An accepted write that keeps configured changes the ladder as the configuration alone does: slots, the re-entry queue and
the admission leave it. -/
theorem Sector.writeTerminal_ladder (s : Sector) (t : TermNo) (es : List FieldEntry) (new : TermConfig)
    (hc : (s.term t).cfg.configured = new.configured) :
    ((s.writeTerminal t es new).term t).ladder = ((s.term t).configure es new).ladder := by
  unfold Sector.writeTerminal
  dsimp only
  rw [if_pos hc]
  have hmoved : ((allCarriers.foldl (moveSlots t (s.term t).cfg new) (s.modTerm t (Terminal.configure es new))).term t).ladder =
      ((s.term t).configure es new).ladder := by
    rw [foldl_moveSlots_term, Sector.term_modTerm, if_pos rfl]
  generalize allCarriers.foldl (moveSlots t (s.term t).cfg new) (s.modTerm t (Terminal.configure es new)) = a at hmoved ⊢
  have hplaced : ((if (a.term t).link.state = .called then a.modRes new.carrier (Scheduler.reclass t new.cls) else a).term t) =
      a.term t := by
    split <;> rfl
  split
  · rw [Sector.examineAdmission_ladder, hplaced, hmoved]
  · rw [hplaced, hmoved]

/-! ### The request at one terminal (R169, R170) -/

/-- A group row answers a TERMINAL selector's request after its one application. -/
theorem State.serveGroup_terminal {s : State} {r : Request} {code : Nat} {t : TermNo} {one : Application}
    (plan : Request → Selector → GroupPlan) (answer : Request → State → TermNo → State × Status → Reply)
    (blank : Request → List Byte) (h : s.headIs r code) (ht : r.selectsTerminal t)
    (hp : plan r (.terminal t) = .apply one) :
    s.serveGroup code plan answer blank = State.respond s (one s t).1 r (answer r s t (one s t)) := by
  obtain ⟨rest, hb⟩ := State.headIs_buffer h
  obtain ⟨-, hc, hl, hn⟩ := h
  simp only [State.serveGroup, hb, hc, hn, not_lt.2 hl, Request.selector?_terminal ht, State.beginGroup, hp, if_true, if_false]

/-- WRITE-TERMINAL at one terminal, its field set in form: one application, and its answer. -/
theorem exec_writeTerminal_terminal {s : State} {r : Request} {t : TermNo} {es : List FieldEntry} (h : s.headIs r 2)
    (ht : r.selectsTerminal t) (he : fieldSet termWidth r.body = some es) :
    exec .writeTerminal s = .next (State.respond s (writeOne es s t).1 r (writeAnswer r s t (writeOne es s t))) := by
  have hp : writePlan r (.terminal t) = .apply (writeOne es) := by simp only [writePlan, he]
  exact congrArg Host.Outcome.next (State.serveGroup_terminal writePlan writeAnswer noTermField h ht hp)

theorem writeOne_status (es : List FieldEntry) (s : State) (t : TermNo) :
    (writeOne es s t).2 = (s.sector.writeCheck t es).1 := by
  unfold writeOne
  dsimp only
  split
  · next h => exact h.symm
  · rfl

theorem writeOne_refused {es : List FieldEntry} {s : State} {t : TermNo} (h : (s.sector.writeCheck t es).1 ≠ .done) :
    (writeOne es s t).1 = s := by
  simp only [writeOne, h, if_false]

theorem writeOne_sector {es : List FieldEntry} {s : State} {t : TermNo} (h : (s.sector.writeCheck t es).1 = .done) :
    (writeOne es s t).1.sector = s.sector.writeTerminal t es ((s.sector.term t).cfg.withFields es) := by
  simp only [writeOne, h, if_true, State.event_sector]

/-! ### The statement -/

/-- Settles O17: the status by the checks in their order, and the one application that the request's answer follows. -/
theorem writeTerminalChecks : Obligations.WriteTerminalChecks := by
  intro t es s x old new named outside fits wrong clash judged disabled used status
  obtain ⟨hbad, hwrong, hconf, huse, hdone⟩ := s.sector.writeCheck_iff t es
  refine ⟨hbad, hwrong, hconf, huse, hdone, fun r h ht he => ?_⟩
  have hans := (writeOne_only es s t).answered r (writeAnswer r s t (writeOne es s t))
  rw [show (writeAnswer r s t (writeOne es s t)).status = status from writeOne_status es s t] at hans
  refine ⟨_, _, exec_writeTerminal_terminal h ht he, hans, fun hn => ?refused, fun hd hold hnew => ?accepted⟩
  case refused =>
    rw [writeOne_refused hn]
    exact State.respond_onlyAnswered s r _
  case accepted =>
    rw [State.respond_sector, writeOne_sector hd]
    exact (Sector.writeTerminal_ladder s.sector t es new (hold.trans hnew.symm)).trans (Terminal.configure_ladder es new x)

end Sys2Proof.Machine
end

section
/-! SUPPORT. LOAD-PROFILE (R123): the range checks of its nine-byte body, the terminal that keeps an entry in use, and how the
request is answered. -/

namespace Sys2Proof.Machine

/-! ### The values of one byte (Table 7.1) -/

theorem be8_toNat (b : Byte) : be8 b.toNat = [b] := by
  simp only [be8, beBytes, List.nil_append, BitVec.ofNat_toNat, BitVec.setWidth_eq]

theorem be8_terminal (t : TermNo) : be8 t.val = [BitVec.ofNat 8 t.val] := rfl

theorem profileByte_eq_some {b : Byte} {p : ProfileNo} : profileByte b = some p ↔ p.val = b.toNat := by
  unfold profileByte
  split
  · rw [Option.some_inj, Fin.ext_iff, eq_comm]
  · next hb => exact iff_of_false (by simp) fun h => hb (h ▸ p.isLt)

theorem flagByte_lt {b : Byte} {x : Bool} (h : flagByte b = some x) : b.toNat < 2 := by
  unfold flagByte at h
  split at h
  · next h0 => subst h0; decide
  · split at h
    · next h1 => subst h1; decide
    · cases h

/-- A flag byte in its range is yes exactly when it is 1. -/
theorem flagByte_of_lt {b : Byte} (h : b.toNat < 2) : flagByte b = some (decide (b = 1)) := by
  have hb : b = 0 ∨ b = 1 := by bv_omega
  rcases hb with rfl | rfl <;> rfl

theorem Modulation.ofCode_eq_some {n : Nat} {x : Modulation} : Modulation.ofCode n = some x ↔ x.code = n := by
  refine ⟨fun h => ?_, fun h => ?_⟩
  · unfold Modulation.ofCode at h
    split at h <;> cases h <;> rfl
  · subst h
    cases x <;> rfl

theorem Modulation.code_lt (x : Modulation) : x.code < 7 := by cases x <;> decide

theorem Modulation.exists_code {n : Nat} (h : n < 7) : ∃ x : Modulation, x.code = n := by
  interval_cases n
  exacts [⟨.qpsk, rfl⟩, ⟨.psk8, rfl⟩, ⟨.qam16, rfl⟩, ⟨.qam32, rfl⟩, ⟨.qam64, rfl⟩, ⟨.qam128, rfl⟩, ⟨.qam256, rfl⟩]

theorem CodeRate.ofCode_eq_some {n : Nat} {x : CodeRate} : CodeRate.ofCode n = some x ↔ x.code = n := by
  refine ⟨fun h => ?_, fun h => ?_⟩
  · unfold CodeRate.ofCode at h
    split at h <;> cases h <;> rfl
  · subst h
    cases x <;> rfl

theorem CodeRate.code_lt (x : CodeRate) : x.code < 5 := by cases x <;> decide

theorem CodeRate.exists_code {n : Nat} (h : n < 5) : ∃ x : CodeRate, x.code = n := by
  interval_cases n
  exacts [⟨.half, rfl⟩, ⟨.twoThirds, rfl⟩, ⟨.threeQuarters, rfl⟩, ⟨.fiveSixths, rfl⟩, ⟨.nineTenths, rfl⟩]

/-! ### The body (check 2 of R123) -/

section Body
variable {i en m cr snr up down hold room : Byte}

/-- Every value of a LOAD-PROFILE body lies in its range, and the down margin below the up margin (check 2 of R123). -/
abbrev ProfileFits (i en m cr snr up down hold room : Byte) : Prop :=
  i.toNat < 8 ∧ en.toNat < 2 ∧ m.toNat < 7 ∧ cr.toNat < 5 ∧ snr.toNat ≤ 100 ∧ down.toInt < up.toInt ∧
  1 ≤ hold.toNat ∧ hold.toNat ≤ 63 ∧ room.toNat ≤ 63

/-- The entry that a body's last eight bytes spell, its modulation and code rate decoded. -/
abbrev profileOf (en snr up down hold room : Byte) (modulation : Modulation) (rate : CodeRate) : Profile :=
  { enabled := decide (en = 1), modulation := modulation, codeRate := rate, requiredSnr := snr.toNat
    upMargin := up.toInt, downMargin := down.toInt, stepUpHold := hold.toNat, neededHeadroom := room.toNat }

/-- What a body gives was in range: each of the four decoded bytes, and the rest by the check that follows them. -/
theorem fits_of_parseProfile {y : ProfileNo × Profile} (h : parseProfile [i, en, m, cr, snr, up, down, hold, room] = some y) :
    ProfileFits i en m cr snr up down hold room := by
  simp only [parseProfile] at h
  split at h
  · next p enabled modulation rate hi hen hm hcr =>
    split at h
    · next hrest =>
      exact ⟨profileByte_eq_some.1 hi ▸ p.isLt, flagByte_lt hen, Modulation.ofCode_eq_some.1 hm ▸ modulation.code_lt,
        CodeRate.ofCode_eq_some.1 hcr ▸ rate.code_lt, hrest⟩
    · cases h
  · cases h

theorem parseProfile_eq_none (h : ¬ ProfileFits i en m cr snr up down hold room) :
    parseProfile [i, en, m, cr, snr, up, down, hold, room] = none :=
  Option.eq_none_iff_forall_ne_some.2 fun _ hy => h (fits_of_parseProfile hy)

/-- A body in range gives its index and its eight values. -/
theorem parseProfile_eq_some {p : ProfileNo} (h : ProfileFits i en m cr snr up down hold room) (hp : p.val = i.toNat) :
    ∃ modulation rate, modulation.code = m.toNat ∧ rate.code = cr.toNat ∧
      parseProfile [i, en, m, cr, snr, up, down, hold, room] =
        some (p, profileOf en snr up down hold room modulation rate) := by
  obtain ⟨-, hen, hm, hcr, hrest⟩ := h
  obtain ⟨modulation, hmod⟩ := Modulation.exists_code hm
  obtain ⟨rate, hrate⟩ := CodeRate.exists_code hcr
  refine ⟨modulation, rate, hmod, hrate, ?_⟩
  simp only [parseProfile, profileByte_eq_some.2 hp, flagByte_of_lt hen, Modulation.ofCode_eq_some.2 hmod,
    CodeRate.ofCode_eq_some.2 hrate, hrest, and_self, if_true]

end Body

/-! ### The terminal that keeps an entry in use (checks 3 and 4 of R123) -/

section Users
variable {s : Sector} {p : ProfileNo} {t : TermNo}

/-- A configured terminal in ADMITTING, SERVING or FADING has entry `p` as its current profile or its pending target. -/
def Sector.Uses (s : Sector) (p : ProfileNo) (t : TermNo) : Prop :=
  (s.term t).cfg.configured = true ∧
  ((s.term t).link.state = .admitting ∨ (s.term t).link.state = .serving ∨ (s.term t).link.state = .fading) ∧
  ((s.term t).ladder.current = p ∨ ∃ q, (s.term t).ladder.pending = some q ∧ q.target = p)

/-- A configured terminal has entry `p` as its floor, ceiling or re-entry profile. -/
def Sector.Bounds (s : Sector) (p : ProfileNo) (t : TermNo) : Prop :=
  (s.term t).cfg.configured = true ∧
  ((s.term t).cfg.floor = p ∨ (s.term t).cfg.ceiling = p ∨ (s.term t).cfg.reentry = p)

theorem Terminal.usesNow_iff {r : Terminal} :
    r.usesNow p = true ↔ (r.link.state = .admitting ∨ r.link.state = .serving ∨ r.link.state = .fading) ∧
      (r.ladder.current = p ∨ ∃ q, r.ladder.pending = some q ∧ q.target = p) := by
  unfold Terminal.usesNow
  cases r.ladder.pending with
  | none => simp [LinkState.usesProfile_iff]
  | some q => simp [LinkState.usesProfile_iff]

theorem Sector.uses_iff : s.Uses p t ↔ (s.term t).cfg.configured = true ∧ (s.term t).usesNow p = true := by
  rw [Terminal.usesNow_iff]; rfl

theorem Sector.bounds_iff : s.Bounds p t ↔ (s.term t).cfg.configured = true ∧ (s.term t).bounds p = true := by
  simp only [Sector.Bounds, Terminal.bounds, Bool.or_eq_true, decide_eq_true_eq, or_assoc]

/-- A search of the configured terminals finds the lowest that meets the test. -/
theorem Sector.find_configured_eq_some {q : TermNo → Bool} :
    s.configuredTerms.find? q = some t ↔ ((s.term t).cfg.configured = true ∧ q t = true) ∧
      ∀ v < t, ¬ ((s.term v).cfg.configured = true ∧ q v = true) := by
  rw [Sector.configuredTerms, allTerminals, List.find?_filter, ← Fin.find?_eq_find?_finRange, Fin.find?_eq_some_iff]
  simp only [← Bool.and_eq_true, Bool.not_eq_true, Bool.decide_eq_true]

theorem Sector.find_configured_eq_none {q : TermNo → Bool} :
    s.configuredTerms.find? q = none ↔ ∀ v, ¬ ((s.term v).cfg.configured = true ∧ q v = true) := by
  simp only [List.find?_eq_none, Sector.configuredTerms, List.mem_filter, mem_allTerminals, true_and, not_and]

theorem Sector.profileUser_of_uses (hu : s.Uses p t) (hlow : ∀ v < t, ¬ s.Uses p v) : s.profileUser p = some t := by
  simp only [Sector.uses_iff] at hu hlow
  simp only [Sector.profileUser, Sector.find_configured_eq_some.2 ⟨hu, hlow⟩]

/-- The bounds are examined when no terminal uses the entry. -/
theorem Sector.profileUser_of_unused (hu : ∀ v, ¬ s.Uses p v) :
    s.profileUser p = s.configuredTerms.find? fun t => (s.term t).bounds p := by
  simp only [Sector.uses_iff] at hu
  simp only [Sector.profileUser, Sector.find_configured_eq_none.2 hu]

theorem Sector.profileUser_of_bounds (hu : ∀ v, ¬ s.Uses p v) (hb : s.Bounds p t) (hlow : ∀ v < t, ¬ s.Bounds p v) :
    s.profileUser p = some t := by
  simp only [Sector.bounds_iff] at hb hlow
  rw [Sector.profileUser_of_unused hu, Sector.find_configured_eq_some.2 ⟨hb, hlow⟩]

theorem Sector.profileUser_eq_none (hu : ∀ v, ¬ s.Uses p v) (hb : ∀ v, ¬ s.Bounds p v) : s.profileUser p = none := by
  simp only [Sector.bounds_iff] at hb
  rw [Sector.profileUser_of_unused hu, Sector.find_configured_eq_none.2 hb]

end Users

/-! ### What the owner answers, and how the answer leaves the part (R123, R169, R170) -/

section Taken
variable {s : State} {r : Request} {p : ProfileNo} {x : Profile}

theorem State.loadProfileRequest_badValue (hb : parseProfile r.body = none) :
    State.loadProfileRequest r () s = (s, .plain .badValue) := by
  simp only [State.loadProfileRequest, hb]

/-- Disabling an enabled entry is refused for the terminal that keeps it in use. -/
theorem State.loadProfileRequest_inUse {t : TermNo} (hb : parseProfile r.body = some (p, x))
    (hon : (s.sector.profile p).enabled = true) (hoff : x.enabled = false) (hu : s.sector.profileUser p = some t) :
    State.loadProfileRequest r () s = (s, { status := .inUse, body := be8 p.val ++ be8 t.val }) := by
  simp only [State.loadProfileRequest, hb, hon, hoff, hu, Bool.not_false, Bool.and_self, if_true]

/-- The entry is written when it is not disabled by the body, or when no terminal keeps it in use. -/
theorem State.loadProfileRequest_done (hb : parseProfile r.body = some (p, x))
    (h : (s.sector.profile p).enabled = true → x.enabled = false → s.sector.profileUser p = none) :
    State.loadProfileRequest r () s = (s.onSector fun z => z.setProfile p x, { status := .done, body := be8 p.val }) := by
  have huser : (if (s.sector.profile p).enabled && !x.enabled then s.sector.profileUser p else none) = none := by
    simpa only [ite_eq_right_iff, Bool.and_eq_true, Bool.not_eq_true', and_imp] using h
  simp only [State.loadProfileRequest, hb, huser]

theorem exec_loadProfile (s : State) : exec .loadProfile s = .next (s.serve 6 Request.sector? State.loadProfileRequest) := rfl

theorem Request.sector?_eq_none (h : ¬ r.selectsSector) : r.sector? = none := if_neg h

theorem exec_loadProfile_badSelector (h : s.headIs r 6) (hr : ¬ r.selectsSector) :
    ∃ u, exec .loadProfile s = .next u ∧ Answered s u r .badSelector [] ∧ OnlyAnswered s u := by
  rw [exec_loadProfile, State.serve_badSelector _ _ _ h (Request.sector?_eq_none hr)]
  exact ⟨_, rfl, State.respond_answered s s r _ rfl rfl rfl, State.respond_onlyAnswered s r _⟩

/-- A refusal of the owner is answered, and nothing else changes. -/
theorem exec_loadProfile_refused {a : Status} {body : List Byte} (h : s.headIs r 6) (hr : r.selectsSector)
    (ho : State.loadProfileRequest r () s = (s, { status := a, body := body })) :
    ∃ u, exec .loadProfile s = .next u ∧ Answered s u r a body ∧ OnlyAnswered s u := by
  rw [exec_loadProfile, State.serve_head _ _ _ h (Request.sector?_eq hr), ho]
  exact ⟨_, rfl, State.respond_answered s s r _ rfl rfl rfl, State.respond_onlyAnswered s r _⟩

/-- An accepted request writes the one entry, and of the sector only the Profile Table changes. -/
theorem exec_loadProfile_written {body : List Byte} (h : s.headIs r 6) (hr : r.selectsSector)
    (ho : State.loadProfileRequest r () s = (s.onSector fun z => z.setProfile p x, { status := .done, body := body })) :
    ∃ u, exec .loadProfile s = .next u ∧ Answered s u r .done body ∧ u.sector.profile p = x ∧
      (∀ q, q ≠ p → u.sector.profile q = s.sector.profile q) ∧
      OnlyAnswered s { u with sector := s.sector } ∧ u.sector = { s.sector with profiles := u.sector.profiles } := by
  rw [exec_loadProfile, State.serve_head _ _ _ h (Request.sector?_eq hr), ho]
  have hentry (q : ProfileNo) : (s.sector.setProfile p x).profile q = if q = p then x else s.sector.profile q :=
    Sector.profile_setProfile s.sector p q x
  refine ⟨_, rfl, State.respond_answered s (s.onSector fun z => z.setProfile p x) r _ rfl rfl rfl, ?_, ?_, ?_, rfl⟩
  · exact (hentry p).trans (if_pos rfl)
  · exact fun q hq => (hentry q).trans (if_neg hq)
  · exact ⟨rfl, rfl, rfl, rfl, rfl, rfl, rfl, rfl, rfl, rfl, rfl, rfl⟩

end Taken

/-! ### The statement -/

/-- Settles O15: the body in range or not, then the terminal that keeps the entry in use, and else the entry written. -/
theorem loadProfileChecksAndWrites : Obligations.LoadProfileChecksAndWrites := by
  refine ⟨fun r s => exec_loadProfile_badSelector, ?_⟩
  intro r s i en m cr snr up down hold room h hr hb valid
  refine ⟨fun hbad => ?badValue, ?fits⟩
  case badValue =>
    exact exec_loadProfile_refused h hr (State.loadProfileRequest_badValue (hb ▸ parseProfile_eq_none hbad))
  case fits =>
    intro hfits p hp term uses bounds disables
    obtain ⟨modulation, rate, hmod, hrate, hparse⟩ := parseProfile_eq_some hfits hp
    rw [← hb] at hparse
    have hindex : be8 p.val = [i] := by rw [hp, be8_toNat]
    have hzero : decide (en = 1) = false ↔ en = 0 := by
      obtain ⟨-, hen, -⟩ := hfits
      rw [decide_eq_false_iff_not]
      bv_omega
    have inUse (t : TermNo) (hd : disables) (hu : s.sector.profileUser p = some t) :
        ∃ u, exec .loadProfile s = .next u ∧ Answered s u r .inUse [i, BitVec.ofNat 8 t.val] ∧ OnlyAnswered s u := by
      have ho := State.loadProfileRequest_inUse hparse hd.1 (hzero.2 hd.2) hu
      rw [hindex, be8_terminal] at ho
      exact exec_loadProfile_refused h hr ho
    refine ⟨fun t hd hu hlow => inUse t hd (Sector.profileUser_of_uses hu hlow),
      fun t hd hu hbound hlow => inUse t hd (Sector.profileUser_of_bounds hu hbound hlow), fun hfree => ?_⟩
    have hunused (hon : (s.sector.profile p).enabled = true) (hoff : decide (en = 1) = false) :
        s.sector.profileUser p = none :=
      hfree.elim (fun hn => absurd ⟨hon, hzero.1 hoff⟩ hn)
        fun hn => Sector.profileUser_eq_none (fun v => (hn v).1) fun v => (hn v).2
    have ho := State.loadProfileRequest_done hparse hunused
    rw [hindex] at ho
    obtain ⟨u, hexec, hans, hwritten⟩ := exec_loadProfile_written h hr ho
    exact ⟨u, modulation, rate, hexec, hans, hmod, hrate, hwritten⟩

end Sys2Proof.Machine
end

section
/-! SUPPORT. What a command can do, said once: the operations of the link side a command is made of (`Sector.Op`), and what it
leaves of the rest of the state (`State.Did`), so that every invariant is derived from these and no proof goes through the
commands again. -/

namespace Sys2Proof.Machine

/-! ### The operations of the link side -/

/-- The events of the link side that are no write of configuration and no reset (R34 to R165). -/
inductive Sector.Event (s : Sector) : Sector → Prop
  | discardFrame (t : TermNo) (f : TermCounters → TermCounters) : Event s (s.countTerm t f)
  | offer (t : TermNo) (bytes : List Byte) (arrival : FrameNo) : Event s (s.offerFrame t bytes arrival)
  | pass (t : TermNo) (bytes : List Byte) : Event s (s.passThrough t bytes)
  | recovery (c : CarrierNo) : Event s (s.recoveryEnd c)
  | reclaim (c : CarrierNo) (slot : SlotNo) : Event s (Sector.reclaimSlot c s slot)
  | lend (t : TermNo) : Event s (s.lendCompare t)
  | warm (t : TermNo) : Event s (s.warmCompare t)
  | fade (t : TermNo) : Event s (s.fadeExpiry t)
  | guard (t : TermNo) : Event s (s.guardEnd t)
  | admitWait (t : TermNo) : Event s (s.admitExpiry t)
  | effective (f : FrameNo) (t : TermNo) : Event s (s.effectiveReached f t)
  | apply (f : FrameNo) (t : TermNo) : Event s (s.applyReached f t)
  | settle (t : TermNo) : Event s (s.modTerm t Terminal.settleEnd)
  | yieldEnd (t : TermNo) : Event s (s.modHold t HoldFields.yieldEnd)
  | age (t : TermNo) : Event s (s.ageDiscard t)
  | lost (c : CarrierNo) : Event s (s.carrierLost c)
  | found (c : CarrierNo) : Event s (s.carrierFound c)
  | outcome (c : CarrierNo) (u : FrameNo) (slot : SlotNo) (o : SlotResult) : Event s (s.slotOutcome c u slot o)
  | listClose (c : CarrierNo) (g : FrameNo) : Event s (s.listClose c g)
  | lsv (f : FrameNo) (t : TermNo) : Event s (s.lsvFrame f t)
  | rng (c : CarrierNo) : Event s (s.rngFrame c)
  | pld (c : CarrierNo) (f : FrameNo) : Event s (s.pldFrame c f)
  | hfs (c : CarrierNo) : Event s (s.hfsFrame c)
  | release (t : TermNo) (h : (s.term t).cfg.configured = true) : Event s (s.releaseTerm t)
  | hold (t : TermNo) (h : (s.term t).cfg.configured = true) : Event s (s.hold t)
  | force (t : TermNo) (named : LinkState) (h : (s.term t).cfg.configured = true) : Event s (s.force t named)
  | permit (t : TermNo) (h : (s.term t).cfg.configured = true) : Event s (s.permitTerm t)
  | flush (t : TermNo) (h : (s.term t).cfg.configured = true) : Event s (s.flush t)
  | restart (c : CarrierNo) : Event s (s.carrierRestart c)

/-- The operations on the link side: an event, the CSP's work at a frame start, a write of settings, an emptying of the event
sets, a sector reset, and a WRITE-TERMINAL of the field set `w`, when there is one. -/
inductive Sector.Op (w : Option (List FieldEntry)) (s : Sector) : Sector → Prop
  | event {s' : Sector} (h : s.Event s') : Op w s s'
  | csp (c : CarrierNo) (f : FrameNo) : Op w s (s.cspFrame c f)
  | profile (p : ProfileNo) (x : Profile) : Op w s (s.setProfile p x)
  | readEvents : Op w s (s.note fun _ => {})
  | lowMark (n : Nat) : Op w s { s with storeLowMark := n }
  | writeCarrier (c : CarrierNo) (es : List FieldEntry) (h : (s.carrierCheck c es).1 = .done) :
      Op w s (s.writeCarrier c ((s.car c).cfg.withFields es))
  | sectorReset : Op w s s.sectorReset
  | writeTerminal (t : TermNo) (es : List FieldEntry) (hw : w = some es) (h : (s.writeCheck t es).1 = .done) :
      Op w s (s.writeTerminal t es ((s.term t).cfg.withFields es))

/-- Operations one after another. -/
abbrev Sector.Ops (w : Option (List FieldEntry)) : Sector → Sector → Prop := Relation.ReflTransGen (Sector.Op w)

/-- What every operation keeps, a row of operations keeps. -/
theorem Sector.Ops.keep {w : Option (List FieldEntry)} {P : Sector → Prop} (h : ∀ s s', Sector.Op w s s' → P s → P s')
    {s s' : Sector} (hs : Sector.Ops w s s') (hp : P s) : P s' := by
  induction hs with
  | refl => exact hp
  | tail _ hop ih => exact h _ _ hop ih

theorem Sector.Ops.ofEvent {w : Option (List FieldEntry)} {s s' : Sector} (h : s.Event s') : Sector.Ops w s s' :=
  .single (.event h)

/-- A configured terminal's request on its link state keeps what the link side's events keep. -/
theorem Sector.Event.keeps {s s' : Sector} (h : s.Event s') : s.Keeps s' := by
  cases h with
  | discardFrame t f => exact .modTerm s t _ rfl rfl
  | offer t bytes arrival => exact Sector.offerFrame_keeps ..
  | pass t bytes => exact Sector.passThrough_keeps ..
  | recovery c => exact Sector.recoveryEnd_keeps ..
  | reclaim c slot => exact Sector.reclaimSlot_keeps ..
  | lend t => exact Sector.lendCompare_keeps ..
  | warm t => exact Sector.warmCompare_keeps ..
  | fade t => exact Sector.fadeExpiry_keeps ..
  | guard t => exact Sector.guardEnd_keeps ..
  | admitWait t => exact Sector.admitExpiry_keeps ..
  | effective f t => exact Sector.effectiveReached_keeps ..
  | apply f t => exact Sector.applyReached_keeps ..
  | settle t => exact Sector.settleEnd_keeps ..
  | yieldEnd t => exact .modTerm s t _ rfl (HoldFields.yieldEnd_queue _)
  | age t => exact Sector.ageDiscard_keeps ..
  | lost c => exact Sector.carrierLost_keeps ..
  | found c => exact Sector.carrierFound_keeps ..
  | outcome c u slot o => exact Sector.slotOutcome_keeps ..
  | listClose c g => exact Sector.listClose_keeps ..
  | lsv f t => exact Sector.lsvFrame_keeps ..
  | rng c => exact Sector.rngFrame_keeps ..
  | pld c f => exact Sector.pldFrame_keeps ..
  | hfs c => exact Sector.hfsFrame_keeps ..
  | release t _ => exact Sector.releaseTerm_keeps ..
  | hold t _ => exact Sector.hold_keeps ..
  | force t named _ => exact Sector.force_keeps ..
  | permit t _ => exact Sector.permitTerm_keeps ..
  | flush t _ => exact Sector.flush_keeps ..
  | restart c => exact Sector.carrierRestart_keeps ..

/-! ### What is left of the rest of the state -/

/-- From `s` to `m` operations of the link side were made; the FCL counters, the request buffer and the MGU counters but for the
notices are as they were, and at most one Tag Map entry other than 0 and 4095 was set. -/
structure State.Worked (w : Option (List FieldEntry)) (s m : State) : Prop where
  ops : Sector.Ops w s.sector m.sector
  fcl : m.fcl = s.fcl
  buffer : m.mgu.buffer = s.mgu.buffer
  counts : { m.mgu.ctr with notices := 0 } = { s.mgu.ctr with notices := 0 }
  tags : m.tagMap = s.tagMap ∨ ∃ tag : Tag, tag ≠ 0 ∧ tag ≠ 4095 ∧ ∃ e, m.tagMap = Table.write none s.tagMap tag e

/-- What a command makes of `s`, power-on apart. -/
inductive State.Did (w : Option (List FieldEntry)) (s : State) : State → Prop
  | worked {u : State} (h : s.Worked w u) : Did w s u
  | received (bytes : List Byte) (ok : Bool) : Did w s (s.frameReceived bytes ok)
  | upstream {m : State} (h : s.Worked w m) (t : TermNo) (payload : List (List Byte)) : Did w s (m.upstream t payload)
  | answered {m : State} (h : s.Worked w m) (hb : s.mgu.buffer ≠ []) (r : Request) (a : Reply) :
      Did w s (State.respond s m r a)
  | closed {m : State} (h : s.Worked w m) (hb : s.mgu.buffer ≠ []) (r : Request) (g : GroupTaking) :
      Did w s (m.closeGroup r g)

section
variable {w : Option (List FieldEntry)} {s m : State}

theorem State.Worked.rfl' (s : State) : s.Worked w s := ⟨.refl, rfl, rfl, rfl, .inl rfl⟩

/-- Operations that leave the rest of the state but for the notices. -/
theorem OnlyLinkSide.worked (h : OnlyLinkSide s m) (hops : Sector.Ops w s.sector m.sector) : s.Worked w m := by
  obtain ⟨-, -, -, htags, hfcl, -, hbuf, -, -, -, hctr, -, -⟩ := h
  exact ⟨hops, hfcl, hbuf, hctr, .inl htags⟩

theorem State.event_worked {f : Sector → Sector} (h : s.sector.Event (f s.sector)) : s.Worked w (s.event f) :=
  (State.event_only s f).worked (by rw [State.event_sector]; exact .ofEvent h)

theorem State.event_did {f : Sector → Sector} (h : s.sector.Event (f s.sector)) : s.Did w (s.event f) :=
  .worked (State.event_worked h)

/-! ### Frame starts -/

/-- Rows of operations follow one another in a fold. -/
theorem Sector.Ops.foldl {α : Type} {f : State → α → State} (h : ∀ (s : State) (x : α), Sector.Ops w s.sector (f s x).sector)
    (l : List α) (s : State) : Sector.Ops w s.sector (l.foldl f s).sector := by
  induction l generalizing s with
  | nil => exact .refl
  | cons x l ih => exact (h s x).trans (ih _)

theorem State.frameBlock_ops (c : CarrierNo) (f : FrameNo) (s : State) (b : Block) :
    Sector.Ops w s.sector (s.frameBlock c f b).sector := by
  cases b with
  | csp => rw [State.frameBlock, State.event_sector]; exact .single (.csp c f)
  | lsv =>
    refine Sector.Ops.foldl (fun x t => ?_) _ s
    rw [State.event_sector]
    exact .ofEvent (.lsv f t)
  | rng => rw [State.frameBlock, State.event_sector]; exact .ofEvent (.rng c)
  | pld => rw [State.frameBlock, State.event_sector]; exact .ofEvent (.pld c f)
  | hfs => rw [State.frameBlock, State.event_sector]; exact .ofEvent (.hfs c)

theorem State.frameStart_did (c : CarrierNo) (f : FrameNo) (order : List Block) : s.Did w (s.frameStart c f order) :=
  .worked ((State.frameStart_only s c f order).worked (Sector.Ops.foldl (State.frameBlock_ops c f) _ s))

/-! ### Received frames, outcomes and records -/

theorem State.slotOutcome_did (c : CarrierNo) (u : FrameNo) (slot : SlotNo) (o : SlotResult) :
    s.Did w (s.slotOutcome c u slot o) := by
  have h : s.Worked w (s.event fun x => x.slotOutcome c u slot o) := State.event_worked (.outcome c u slot o)
  unfold State.slotOutcome
  dsimp only
  split
  · exact .upstream h _ _
  · exact .worked h

theorem State.takeRecord_did (bytes : List Byte) : s.Did w (s.takeRecord bytes) := by
  unfold State.takeRecord
  split
  · exact .worked (.rfl' s)
  · exact State.frameStart_did _ _ _
  · exact State.event_did (.lost _)
  · exact State.event_did (.found _)
  · exact State.slotOutcome_did _ _ _ _
  · exact State.event_did (.listClose _ _)

/-! ### Requests with one owner -/

/-- What the owner of a request keeps, the taking of the request answers. -/
theorem State.serve_did {α : Type} {code : Nat} {pick : Request → Option α} {own : Request → α → State → State × Reply}
    {blank : Request → List Byte} (h : ∀ r x, s.Worked w (own r x s).1) : s.Did w (s.serve code pick own blank) := by
  have hne {r : Request} (hr : s.mgu.buffer.head? = some r) : s.mgu.buffer ≠ [] := by
    intro hb; rw [hb] at hr; cases hr
  obtain hs | ⟨r, a, hr, hs⟩ | ⟨r, x, hr, -, hs⟩ := State.serve_cases s code pick own blank <;> rw [hs]
  · exact .worked (.rfl' s)
  · exact .answered (.rfl' s) (hne hr) r a
  · exact .answered (h r x) (hne hr) r _

theorem emptyBody_worked {α : Type} {own : α → State → State × Reply} (h : ∀ x, s.Worked w (own x s).1) (r : Request) (x : α) :
    s.Worked w (emptyBody own r x s).1 := by
  unfold emptyBody
  split
  · exact h x
  · exact .rfl' s

theorem State.serveUnknown_did : s.Did w s.serveUnknown := by
  unfold State.serveUnknown
  split
  · exact .worked (.rfl' s)
  · next hb =>
    split
    · exact .answered (.rfl' s) (by rw [hb]; exact List.cons_ne_nil _ _) _ _
    · exact .worked (.rfl' s)

/-- A tag that a request may set is neither 0 nor 4095 (R2, R3). -/
theorem bindable_fixed {n : Nat} {tag : Tag} (h : bindable n = some tag) : tag ≠ 0 ∧ tag ≠ 4095 := by
  unfold bindable at h
  split at h
  · next hn =>
    split at h
    · cases h
    · next h0 =>
      cases h
      constructor <;> intro e <;> have := congrArg Fin.val e <;> simp at this <;> omega
  · cases h

theorem State.setTag_worked {tag : Tag} {n : Nat} (h : bindable n = some tag) (e : Option TermNo) : s.Worked w (s.setTag tag e) :=
  ⟨.refl, rfl, rfl, rfl, .inr ⟨tag, (bindable_fixed h).1, (bindable_fixed h).2, e, rfl⟩⟩

theorem State.bindTagRequest_worked (r : Request) (t : TermNo) : s.Worked w (State.bindTagRequest r t s).1 := by
  unfold State.bindTagRequest
  split
  · exact .rfl' s
  · next tag h =>
    obtain ⟨n, -, hn⟩ := Option.bind_eq_some_iff.1 h
    split
    · exact State.setTag_worked hn _
    · exact .rfl' s

theorem State.unbindTagRequest_worked (r : Request) (t : TermNo) : s.Worked w (State.unbindTagRequest r t s).1 := by
  unfold State.unbindTagRequest
  split
  · exact .rfl' s
  · next tag h =>
    obtain ⟨n, -, hn⟩ := Option.bind_eq_some_iff.1 h
    split
    · exact .rfl' s
    · split
      · exact State.setTag_worked hn _
      · exact .rfl' s

theorem State.readTagRequest_worked (r : Request) (t : TermNo) : s.Worked w (State.readTagRequest r t s).1 := by
  unfold State.readTagRequest
  split
  · exact .rfl' s
  · split <;> exact .rfl' s

theorem State.loadProfileRequest_worked (r : Request) (x : Unit) : s.Worked w (State.loadProfileRequest r x s).1 := by
  unfold State.loadProfileRequest
  split
  · exact .rfl' s
  · dsimp only
    split
    · exact .rfl' s
    · exact ⟨.single (.profile _ _), rfl, rfl, rfl, .inl rfl⟩

theorem State.writeCarrierRequest_worked (r : Request) (c : CarrierNo) : s.Worked w (State.writeCarrierRequest r c s).1 := by
  refine (State.writeCarrierRequest_only r c s).worked ?_
  unfold State.writeCarrierRequest
  split
  · exact .refl
  · dsimp only
    split
    · next es _ h => rw [State.event_sector]; exact .single (.writeCarrier c es h)
    · exact .refl

theorem State.carrierRestartRequest_worked (c : CarrierNo) : s.Worked w (s.carrierRestartRequest c).1 := by
  refine (State.carrierRestartRequest_only c s).worked ?_
  unfold State.carrierRestartRequest
  split
  · exact .refl
  · rw [State.event_sector]; exact .ofEvent (.restart c)

theorem State.setNoticesRequest_worked (r : Request) (x : Unit) : s.Worked w (State.setNoticesRequest r x s).1 := by
  unfold State.setNoticesRequest
  split
  · exact .rfl' s
  · next n _ =>
    have h := (State.noticeTest_only { s with mgu := { s.mgu with enables := n, noticeDest := r.source } }).worked (w := w)
      (by rw [State.noticeTest_sector])
    exact ⟨h.ops, h.fcl, h.buffer, h.counts, h.tags⟩

/-- Operations of the link side with which the notice-outstanding flag is cleared (R174, R178). -/
theorem State.cleared_worked {x : Sector} (h : Sector.Ops w s.sector x) :
    s.Worked w { s with sector := x, mgu := { s.mgu with outstanding := false } } :=
  ⟨h, rfl, rfl, rfl, .inl rfl⟩

theorem State.readEventsRequest_worked (x : Unit) : s.Worked w (State.readEventsRequest x s).1 := by
  unfold State.readEventsRequest
  exact State.cleared_worked (.single .readEvents)

theorem State.sectorResetRequest_worked (x : Unit) : s.Worked w (State.sectorResetRequest x s).1 := by
  unfold State.sectorResetRequest
  exact State.cleared_worked (.single .sectorReset)

theorem State.setSectorField_worked (e : FieldEntry) : s.Worked w (s.setSectorField e) := by
  unfold State.setSectorField
  split
  · exact ⟨.refl, rfl, rfl, rfl, .inl rfl⟩
  · split
    · exact ⟨.single (.lowMark _), rfl, rfl, rfl, .inl rfl⟩
    · exact .rfl' s

theorem State.setSectorField_tagMap (e : FieldEntry) : (s.setSectorField e).tagMap = s.tagMap := by
  unfold State.setSectorField
  split
  · rfl
  · split <;> rfl

theorem State.setSectorFields_worked (es : List FieldEntry) :
    s.Worked w (es.foldl State.setSectorField s) ∧ (es.foldl State.setSectorField s).tagMap = s.tagMap := by
  induction es generalizing s with
  | nil => exact ⟨.rfl' s, rfl⟩
  | cons e es ih =>
    have h := State.setSectorField_worked (w := w) (s := s) e
    obtain ⟨g, ht⟩ := ih (s := s.setSectorField e)
    have htag := ht.trans (State.setSectorField_tagMap e)
    exact ⟨⟨h.ops.trans g.ops, g.fcl.trans h.fcl, g.buffer.trans h.buffer, g.counts.trans h.counts, .inl htag⟩, htag⟩

theorem State.setSectorRequest_worked (r : Request) (x : Unit) : s.Worked w (State.setSectorRequest r x s).1 := by
  unfold State.setSectorRequest
  split
  · exact .rfl' s
  · split
    · exact .rfl' s
    · exact (State.setSectorFields_worked _).1

/-! ### Group requests -/

/-- An application that is made of operations of the link side. -/
def Application.works (w : Option (List FieldEntry)) (one : Application) : Prop :=
  ∀ (s : State) (t : TermNo), OnlyLinkSide s (one s t).1 ∧ Sector.Ops w s.sector (one s t).1.sector

theorem applyLink_works {refuses : Terminal → Bool} {act : Sector → TermNo → Sector}
    (h : ∀ (x : Sector) (t : TermNo), (x.term t).cfg.configured = true → x.Event (act x t)) :
    Application.works w (applyLink refuses act) := by
  refine fun s t => ⟨applyLink_only refuses act s t, ?_⟩
  unfold applyLink
  dsimp only
  split
  · next hc => rw [State.event_sector]; exact .ofEvent (h _ t hc.1)
  · exact .refl

theorem writeOne_works (es : List FieldEntry) : Application.works (some es) (writeOne es) := by
  refine fun s t => ⟨writeOne_only es s t, ?_⟩
  unfold writeOne
  dsimp only
  split
  · next h => rw [State.event_sector]; exact .single (.writeTerminal t es rfl h)
  · exact .refl

theorem applyEach_ops {one : Application} (h : one.works w) (l : List TermNo) (s : State) :
    Sector.Ops w s.sector (applyEach one l s).1.sector := by
  induction l generalizing s with
  | nil => exact .refl
  | cons t l ih => exact (h s t).2.trans (ih _)

theorem State.advance_did {one : Application} (h : one.works w) (hb : s.mgu.buffer ≠ []) (r : Request) (g : GroupTaking) :
    s.Did w (s.advance r one g) := by
  let begun : State := { s with shares := s.shares.tail, mgu := { s.mgu with taking := some g } }
  have hx : begun.Worked w (applyEach one (g.next s.shares) begun).1 :=
    (applyEach_only one (fun x t => (h x t).1) _ begun).worked (applyEach_ops h _ begun)
  have hw : s.Worked w (applyEach one (g.next s.shares) begun).1 := ⟨hx.ops, hx.fcl, hx.buffer, hx.counts, hx.tags⟩
  unfold State.advance
  dsimp only
  split
  · exact .closed hw hb r _
  · exact .worked ⟨hw.ops, hw.fcl, hw.buffer, hw.counts, hw.tags⟩

/-- A group row whose applications are made of operations of the link side. -/
theorem State.serveGroup_did {code : Nat} {plan : Request → Selector → GroupPlan}
    {answer : Request → State → TermNo → State × Status → Reply} {blank : Request → List Byte}
    (h : ∀ r rest sel one, s.mgu.buffer = r :: rest → plan r sel = .apply one → one.works w) :
    s.Did w (s.serveGroup code plan answer blank) := by
  unfold State.serveGroup
  split
  · exact .worked (.rfl' s)
  · next r rest hb =>
    have hne : s.mgu.buffer ≠ [] := by rw [hb]; exact List.cons_ne_nil _ _
    split
    · split
      · split
        · exact .answered (.rfl' s) hne r _
        · split
          · exact .answered (.rfl' s) hne r _
          · next sel _ =>
            unfold State.beginGroup
            split
            · exact .answered (.rfl' s) hne r _
            · next one hp =>
              have hone := h r rest _ one hb hp
              split
              · exact .answered ((hone s _).1.worked (hone s _).2) hne r _
              · exact State.advance_did hone hne r _
              · exact State.advance_did hone hne r _
      · next g _ =>
        split
        · next one hp =>
          obtain ⟨sel, -, hp⟩ := Option.map_eq_some_iff.1 hp
          exact State.advance_did (h r rest sel one hb hp) hne r g
        · exact .worked (.rfl' s)
        · exact .worked (.rfl' s)
    · exact .worked (.rfl' s)

theorem emptyPlan_apply {one two : Application} {r : Request} {sel : Selector} (h : emptyPlan one r sel = .apply two) :
    two = one := by
  unfold emptyPlan at h
  split at h
  · cases h; rfl
  · cases h

theorem forcePlan_apply {one : Application} {r : Request} {sel : Selector} (h : forcePlan r sel = .apply one) :
    ∃ named, one = forceOne named := by
  unfold forcePlan at h
  split at h
  · split at h
    · cases h; exact ⟨_, rfl⟩
    · cases h
  · cases h
  · cases h

theorem writePlan_apply {one : Application} {r : Request} {sel : Selector} (h : writePlan r sel = .apply one) :
    ∃ es, fieldSet termWidth r.body = some es ∧ one = writeOne es := by
  unfold writePlan at h
  split at h
  · cases h
  · next es hes =>
    refine ⟨es, hes, ?_⟩
    split at h
    · cases h; rfl
    · split at h <;> cases h; rfl
    · split at h <;> cases h; rfl

theorem State.linkRow_did {code : Nat} {one : Application} {answer : Request → State → TermNo → State × Status → Reply}
    (h : one.works w) : s.Did w (s.serveGroup code (emptyPlan one) answer) :=
  State.serveGroup_did fun _ _ _ _ _ hp => emptyPlan_apply hp ▸ h

end

/-! ### The commands -/

/-- The field set of the WRITE-TERMINAL at the head of the buffer, when that is what the command takes. -/
def State.writes (s : State) (i : Instr) : Option (List FieldEntry) :=
  match i, s.mgu.buffer with
  | .writeTerminal, r :: _ => fieldSet termWidth r.body
  | _, _ => none

/-- What a command does: power-on, or operations of the link side with what `State.Did` says of the rest. -/
theorem exec_did {i : Instr} {s u : State} (h : exec i s = .next u) :
    (∃ straps, i = .powerOnReset straps ∧ u = s.repower straps) ∨ s.Did (s.writes i) u := by
  cases i <;> cases h
  case powerOnReset straps => exact .inl ⟨straps, rfl, rfl⟩
  all_goals right
  case frameReceived bytes ok => exact .received bytes ok
  case unknownRequest => exact State.serveUnknown_did
  case readTerminal => exact State.serve_did (emptyBody_worked fun x => .rfl' s)
  case writeTerminal =>
    refine State.serveGroup_did fun r rest sel one hb hp => ?_
    obtain ⟨es, hes, rfl⟩ := writePlan_apply hp
    have : s.writes .writeTerminal = some es := by unfold State.writes; rw [hb]; exact hes
    rw [this]
    exact writeOne_works es
  case bindTag => exact State.serve_did State.bindTagRequest_worked
  case unbindTag => exact State.serve_did State.unbindTagRequest_worked
  case readTag => exact State.serve_did State.readTagRequest_worked
  case loadProfile => exact State.serve_did State.loadProfileRequest_worked
  case readProfile => exact State.serve_did (emptyBody_worked fun x => .rfl' s)
  case writeCarrier => exact State.serve_did State.writeCarrierRequest_worked
  case readCarrier => exact State.serve_did (emptyBody_worked fun x => .rfl' s)
  case release => exact State.linkRow_did (applyLink_works fun _ t h => .release t h)
  case hold => exact State.linkRow_did (applyLink_works fun _ t h => .hold t h)
  case forceState =>
    refine State.serveGroup_did fun r rest sel one _ hp => ?_
    obtain ⟨named, rfl⟩ := forcePlan_apply hp
    exact applyLink_works fun _ t h => .force t named h
  case permit => exact State.linkRow_did (applyLink_works fun _ t h => .permit t h)
  case flushHeld => exact State.linkRow_did (applyLink_works fun _ t h => .flush t h)
  case readQueue => exact State.serve_did (emptyBody_worked fun x => .rfl' s)
  case readEvents => exact State.serve_did (emptyBody_worked State.readEventsRequest_worked)
  case setNotices => exact State.serve_did State.setNoticesRequest_worked
  case readCounters => exact State.serve_did (emptyBody_worked fun x => .rfl' s)
  case setSector => exact State.serve_did State.setSectorRequest_worked
  case sectorReset => exact State.serve_did (emptyBody_worked State.sectorResetRequest_worked)
  case carrierRestart => exact State.serve_did (emptyBody_worked State.carrierRestartRequest_worked)
  case discardedRecord bytes => exact State.takeRecord_did bytes
  case frameStart c f order => exact State.frameStart_did c f order
  case recoveryPeriodReached c => exact State.event_did (.recovery c)
  case reclaim c slot => exact State.event_did (.reclaim c slot)
  case lendCompare t => exact State.event_did (.lend t)
  case warmCompare t => exact State.event_did (.warm t)
  case fadeTimerExpiry t => exact State.event_did (.fade t)
  case guardExpiry t => exact State.event_did (.guard t)
  case admitWaitExpiry t => exact State.event_did (.admitWait t)
  case effectiveFrameReached t => exact State.event_did (.effective _ t)
  case applyFrameReached t => exact State.event_did (.apply _ t)
  case settleCountEnd t => exact State.event_did (.settle t)
  case yieldCountEnd t => exact State.event_did (.yieldEnd t)
  case ageDiscard t => exact State.event_did (.age t)
  case carrierLost c => exact State.event_did (.lost c)
  case carrierFound c => exact State.event_did (.found c)
  case slotOutcome c u slot o =>
    split
    · exact State.slotOutcome_did c u slot o
    · exact .worked (.rfl' s)
  case listClose c g => exact State.event_did (.listClose c g)

/-- What a step does: nothing on an empty queue, else its front command on the state with the queue's rest. -/
theorem step_cases {s u : State} (h : step s = .next u) :
    u = s ∨ ∃ i rest, s.pending = i :: rest ∧ exec i { s with pending := rest } = .next u := by
  unfold step at h
  split at h
  · cases h; exact .inl rfl
  · next i rest hp => exact .inr ⟨i, rest, hp, h⟩

end Sys2Proof.Machine
end

section
/-! SUPPORT. Received frames (R5 to R8, R168) and the invariants that the records of `Sector.Keeps`, `Sector.Stays` and
`Sector.FrameMoved` already hold: counts, fixed tags, windows, canonical form, pools. -/

namespace Sys2Proof.Machine

/-! ### The outcomes of a received frame (Table 1.2) -/

/-- The FCL counters after a frame received that ends in outcome `i` of the seven (R5). -/
def FclCounters.took (i : Fin 7) (k : FclCounters) : FclCounters :=
  let n := { k with received := k.received + 1 }
  match i with
  | 0 => { n with untagged := n.untagged + 1 }
  | 1 => { n with diverted := n.diverted + 1 }
  | 2 => { n with length := n.length + 1 }
  | 3 => { n with unknownTag := n.unknownTag + 1 }
  | 4 => { n with passedThrough := n.passedThrough + 1 }
  | 5 => { n with handedToHfs := n.handedToHfs + 1 }
  | 6 => { n with stateDiscards := n.stateDiscards + 1 }

/-- Every outcome keeps the sum of R5. -/
theorem FclCounters.took_balanced (i : Fin 7) {k : FclCounters} (h : k.balanced) : (k.took i).balanced := by
  unfold FclCounters.balanced at h ⊢
  fin_cases i <;> (simp only [FclCounters.took]; rw [h]; ring)

theorem FclCounters.took_outcomes (i : Fin 7) (k : FclCounters) :
    (k.took i).outcomes = k.outcomes.set i (k.outcomes.getD i 0 + 1) := by
  fin_cases i <;> rfl

theorem FclCounters.took_other (i : Fin 7) (k : FclCounters) :
    (k.took i).checkErrors = k.checkErrors ∧ (k.took i).received = k.received + 1 ∧
    (k.took i).upstreamSent = k.upstreamSent ∧ (k.took i).upstreamNoTag = k.upstreamNoTag ∧
    (k.took i).upstreamFormat = k.upstreamFormat := by
  fin_cases i <;> exact ⟨rfl, rfl, rfl, rfl, rfl⟩

theorem FclCounters.took_diverted : ∀ {i : Fin 7}, i ≠ 1 → ∀ k : FclCounters, (k.took i).diverted = k.diverted
  | 0, _, _ => rfl
  | 1, h, _ => absurd rfl h
  | 2, _, _ => rfl
  | 3, _, _ => rfl
  | 4, _, _ => rfl
  | 5, _, _ => rfl
  | 6, _, _ => rfl

/-! ### The judgement of a received frame (R5 to R8) -/

theorem State.frameReceived_wrong (s : State) (bytes : List Byte) :
    s.frameReceived bytes false = s.countFcl fun k => { k with checkErrors := k.checkErrors + 1 } := rfl

theorem carriesTag_iff {bytes : List Byte} :
    carriesTag bytes = true ↔ 16 ≤ bytes.length ∧ bytesAt bytes 12 2 = [0x81, 0x00] := by
  simp only [carriesTag, Bool.and_eq_true, decide_eq_true_eq]

/-- The state with the FCL counters after a frame received that ends in outcome `i`. -/
def State.took (s : State) (i : Fin 7) : State := s.countFcl (FclCounters.took i)

theorem State.frameReceived_untagged {s : State} {bytes : List Byte} (h : carriesTag bytes = false) :
    s.frameReceived bytes true = s.took 0 := by
  unfold State.frameReceived
  rw [if_pos rfl, h]
  rfl

theorem State.frameReceived_diverted {s : State} {bytes : List Byte} (h : carriesTag bytes = true) (ht : tagOf bytes = 4095) :
    s.frameReceived bytes true = { s.took 1 with mgu := s.mgu.admitFrame bytes } := by
  unfold State.frameReceived
  rw [if_pos rfl, h, if_pos rfl, if_pos ht]
  rfl

theorem State.frameReceived_traffic {s : State} {bytes : List Byte} (h : carriesTag bytes = true) (ht : tagOf bytes ≠ 4095) :
    s.frameReceived bytes true = (s.countFcl fun k => { k with received := k.received + 1 }).trafficFrame bytes := by
  unfold State.frameReceived
  rw [if_pos rfl, h, if_pos rfl, if_neg ht]

theorem untag_length {bytes : List Byte} (h : 16 ≤ bytes.length) : (untag bytes).length + 4 = bytes.length := by
  unfold untag
  rw [List.length_append, List.length_take, List.length_drop]
  omega

section
variable {s : State} {bytes : List Byte} (hl : 16 ≤ bytes.length) (hb : bytesAt bytes 12 2 = [0x81, 0x00]) (ht : tagOf bytes ≠ 4095)
include hl hb ht

theorem State.frameReceived_long (h : 2048 < bytes.length) : s.frameReceived bytes true = s.took 2 := by
  have hu := untag_length hl
  rw [State.frameReceived_traffic (carriesTag_iff.2 ⟨hl, hb⟩) ht]
  unfold State.trafficFrame
  dsimp only
  rw [if_pos (by unfold checkLength; omega)]
  rfl

theorem State.frameReceived_unknown (h : bytes.length ≤ 2048)
    (hn : ∀ t, s.tagEntry (tagOf bytes) = some t → (s.sector.term t).cfg.configured = false) :
    s.frameReceived bytes true = s.took 3 := by
  have hu := untag_length hl
  rw [State.frameReceived_traffic (carriesTag_iff.2 ⟨hl, hb⟩) ht]
  unfold State.trafficFrame
  dsimp only
  rw [if_neg (by unfold checkLength; omega)]
  split
  · rfl
  · next t he =>
    rw [State.countFcl_sector, hn t he]
    rfl

theorem State.frameReceived_decided {t : TermNo} (h : bytes.length ≤ 2048) (he : s.tagEntry (tagOf bytes) = some t)
    (hc : (s.sector.term t).cfg.configured = true) :
    s.frameReceived bytes true =
      (s.countFcl fun k => { k with received := k.received + 1 }).decideFrame t (sealFrame (padFrame (untag bytes))) := by
  have hu := untag_length hl
  have he' : (s.countFcl fun k => { k with received := k.received + 1 }).tagEntry (tagOf bytes) = some t := he
  rw [State.frameReceived_traffic (carriesTag_iff.2 ⟨hl, hb⟩) ht]
  unfold State.trafficFrame
  dsimp only
  rw [if_neg (by unfold checkLength; omega), he']
  dsimp only
  rw [State.countFcl_sector, if_pos hc]

end

/-- What the decision for a frame gives: an outcome counted, and one event of the link side (Table 1.1). -/
theorem State.decideFrame_cases (s : State) (t : TermNo) (body : List Byte) :
    ∃ i : Fin 7, i ≠ 1 ∧ ∃ f : Sector → Sector, s.sector.Event (f s.sector) ∧
      (s.countFcl fun k => { k with received := k.received + 1 }).decideFrame t body = (s.took i).event f := by
  unfold State.decideFrame
  split
  · exact ⟨6, by decide, _, .discardFrame t _, rfl⟩
  · exact ⟨5, by decide, _, .offer t _ _, rfl⟩
  · exact ⟨4, by decide, _, .pass t _, rfl⟩

/-- A received frame whose check sequence is right ends in one outcome: diverted to the MGU, or another with one event of the link
side, which may change nothing. -/
theorem State.frameReceived_event (s : State) (bytes : List Byte) :
    s.frameReceived bytes true = { s.took 1 with mgu := s.mgu.admitFrame bytes } ∨
    ∃ i : Fin 7, i ≠ 1 ∧ ∃ f, s.frameReceived bytes true = (s.took i).event f ∧ ∀ w, Sector.Ops w s.sector (f s.sector) := by
  have quiet {i : Fin 7} (hi : i ≠ 1) (h : s.frameReceived bytes true = s.took i) :
      ∃ i : Fin 7, i ≠ 1 ∧ ∃ f, s.frameReceived bytes true = (s.took i).event f ∧ ∀ w, Sector.Ops w s.sector (f s.sector) :=
    ⟨i, hi, id, h.trans (if_pos rfl).symm, fun w => .refl⟩
  cases hc : carriesTag bytes with
  | false => exact .inr (quiet (by decide) (State.frameReceived_untagged hc))
  | true =>
    by_cases ht : tagOf bytes = 4095
    · exact .inl (State.frameReceived_diverted hc ht)
    · right
      obtain ⟨hl, hb⟩ := carriesTag_iff.1 hc
      by_cases hlong : 2048 < bytes.length
      · exact quiet (i := 2) (by decide) (State.frameReceived_long hl hb ht hlong)
      · by_cases hn : ∀ t, s.tagEntry (tagOf bytes) = some t → (s.sector.term t).cfg.configured = false
        · exact quiet (i := 3) (by decide) (State.frameReceived_unknown hl hb ht (not_lt.1 hlong) hn)
        · push Not at hn
          obtain ⟨t, he, hcfg⟩ := hn
          have hd := State.frameReceived_decided hl hb ht (not_lt.1 hlong) he (Bool.eq_true_of_not_eq_false hcfg)
          obtain ⟨i, hi, f, hf, hu⟩ := State.decideFrame_cases s t (sealFrame (padFrame (untag bytes)))
          exact ⟨i, hi, f, hd.trans hu, fun w => .ofEvent hf⟩

theorem State.frameReceived_cases (s : State) (bytes : List Byte) :
    s.frameReceived bytes true = { s.took 1 with mgu := s.mgu.admitFrame bytes } ∨
    ∃ i : Fin 7, i ≠ 1 ∧ OnlyLinkSide (s.took i) (s.frameReceived bytes true) ∧
      ∀ w, Sector.Ops w s.sector (s.frameReceived bytes true).sector := by
  refine (s.frameReceived_event bytes).imp_right fun ⟨i, hi, f, hu, hops⟩ => ⟨i, hi, ?_, fun w => ?_⟩
  · rw [hu]
    exact State.event_only _ f
  · rw [hu, State.event_sector]
    exact hops w

/-- A management frame is misaddressed, short, dropped for want of room, or admitted at the tail of the buffer (R168). -/
theorem Mgu.admitFrame_cases (m : Mgu) (bytes : List Byte) :
    m.admitFrame bytes = { m with ctr := { m.ctr with misaddressed := m.ctr.misaddressed + 1 } } ∨
    m.admitFrame bytes = { m with ctr := { m.ctr with shortFrames := m.ctr.shortFrames + 1 } } ∨
    m.admitFrame bytes = { m with ctr := { m.ctr with dropped := m.ctr.dropped + 1 } } ∨
    (m.buffer.length < 4 ∧ ∃ r, m.admitFrame bytes =
      { m with buffer := m.buffer ++ [r], ctr := { m.ctr with admitted := m.ctr.admitted + 1 } }) := by
  unfold Mgu.admitFrame
  dsimp only
  split
  · exact .inl rfl
  · split
    · exact .inr (.inl rfl)
    · split
      · exact .inr (.inr (.inl rfl))
      · next h => exact .inr (.inr (.inr ⟨not_le.1 h, _, rfl⟩))

/-! ### The upstream path (R13, R14) -/

/-- A payload frame is counted in one of the three upstream counters, and at most a frame is handed to the Network Port. -/
theorem State.upstreamFrame_cases (tag : Option Nat) (s : State) (p : List Byte) :
    ∃ n l, s.upstreamFrame tag p = { s with fcl := n, npTraffic := l } ∧
      { n with upstreamSent := 0, upstreamNoTag := 0, upstreamFormat := 0 } =
      { s.fcl with upstreamSent := 0, upstreamNoTag := 0, upstreamFormat := 0 } := by
  unfold State.upstreamFrame
  split
  · exact ⟨_, s.npTraffic, rfl, rfl⟩
  · split
    · exact ⟨_, _, rfl, rfl⟩
    · exact ⟨_, s.npTraffic, rfl, rfl⟩

/-- The payload of a burst changes the upstream counters and what was handed to the Network Port, and nothing else. -/
theorem State.upstream_cases (s : State) (t : TermNo) (payload : List (List Byte)) :
    ∃ n l, s.upstream t payload = { s with fcl := n, npTraffic := l } ∧
      { n with upstreamSent := 0, upstreamNoTag := 0, upstreamFormat := 0 } =
      { s.fcl with upstreamSent := 0, upstreamNoTag := 0, upstreamFormat := 0 } := by
  unfold State.upstream
  generalize (s.sector.term t).cfg.homeTag = tag
  induction payload generalizing s with
  | nil => exact ⟨s.fcl, s.npTraffic, rfl, rfl⟩
  | cons p payload ih =>
    obtain ⟨n, l, h, hn⟩ := State.upstreamFrame_cases tag s p
    obtain ⟨n', l', h', hn'⟩ := ih (s.upstreamFrame tag p)
    rw [List.foldl_cons, h']
    rw [h] at hn' ⊢
    exact ⟨n', l', rfl, hn'.trans hn⟩

/-- Counters that differ at most in the upstream counters balance alike, and count the same frames diverted. -/
theorem FclCounters.butUpstream {a b : FclCounters}
    (h : { a with upstreamSent := 0, upstreamNoTag := 0, upstreamFormat := 0 } =
      ({ b with upstreamSent := 0, upstreamNoTag := 0, upstreamFormat := 0 } : FclCounters)) :
    (b.balanced → a.balanced) ∧ a.diverted = b.diverted := by
  cases a; cases b
  simp only [FclCounters.mk.injEq] at h
  obtain ⟨-, h₂, h₃, h₄, h₅, h₆, h₇, h₈, h₉, -⟩ := h
  subst h₂ h₃ h₄ h₅ h₆ h₇ h₈ h₉
  exact ⟨id, rfl⟩

/-! ### Frame and request counts (R5, R168, R173) -/

theorem State.Did.balanced {w : Option (List FieldEntry)} {s u : State} (h : s.Did w u) (hs : s.fcl.balanced) : u.fcl.balanced := by
  cases h with
  | worked h => rw [h.fcl]; exact hs
  | received bytes ok =>
    cases ok with
    | false => exact hs
    | true =>
      obtain h | ⟨i, -, ⟨-, -, -, -, hfcl, -⟩, -⟩ := s.frameReceived_cases bytes
      · rw [h]; exact FclCounters.took_balanced 1 hs
      · rw [hfcl]; exact FclCounters.took_balanced i hs
  | @upstream m h t payload =>
    obtain ⟨n, l, hu, hn⟩ := m.upstream_cases t payload
    rw [hu]
    exact (FclCounters.butUpstream hn).1 (by rw [h.fcl]; exact hs)
  | answered h _ r a => rw [State.respond_fcl, h.fcl]; exact hs
  | @closed m h _ r g =>
    have hm : (m.closeGroup r g).fcl = m.fcl := rfl
    rw [hm, h.fcl]
    exact hs

/-- The counts of R173, apart from the state: a buffer of so many places, the MGU counters, and the frames diverted. -/
def MguCounters.agree (places : Nat) (k : MguCounters) (diverted : Counter) : Prop :=
  places ≤ 4 ∧ BitVec.ofNat 32 places = k.admitted - k.responses ∧
  diverted = k.admitted + k.dropped + k.misaddressed + k.shortFrames

theorem State.mguBalanced_iff (s : State) : s.mguBalanced ↔ s.mgu.ctr.agree s.mgu.buffer.length s.fcl.diverted := Iff.rfl

/-- The notices play no part in the counts. -/
theorem MguCounters.agree_notices {a b : MguCounters} (h : { a with notices := 0 } = ({ b with notices := 0 } : MguCounters))
    {n : Nat} {d : Counter} : a.agree n d ↔ b.agree n d := by
  cases a; cases b
  simp only [MguCounters.mk.injEq] at h
  obtain ⟨h₁, h₂, h₃, h₄, h₅, -⟩ := h
  subst h₁ h₂ h₃ h₄ h₅
  exact Iff.rfl

/-- A response returns one place to the buffer. -/
theorem MguCounters.agree_responded {k : MguCounters} {n : Nat} {d : Counter} (x : Status) (hn : n ≠ 0) (h : k.agree n d) :
    (k.responded x).agree (n - 1) d := by
  obtain ⟨hle, hplaces, hd⟩ := h
  refine ⟨by omega, ?_, hd⟩
  have hsub : BitVec.ofNat 32 (n - 1) = BitVec.ofNat 32 n - 1 := by
    have : n < 2 ^ 32 := by omega
    bv_omega
  change BitVec.ofNat 32 (n - 1) = k.admitted - (k.responses + 1)
  rw [hsub, hplaces]
  ring

theorem State.Worked.agree {w : Option (List FieldEntry)} {s m : State} (h : s.Worked w m) (hs : s.mguBalanced) :
    m.mgu.ctr.agree s.mgu.buffer.length m.fcl.diverted := by
  rw [h.fcl]
  exact (MguCounters.agree_notices h.counts).2 hs

theorem Mgu.admitFrame_agree {m : Mgu} {d : Counter} (bytes : List Byte) (h : m.ctr.agree m.buffer.length d) :
    (m.admitFrame bytes).ctr.agree (m.admitFrame bytes).buffer.length (d + 1) := by
  obtain ⟨hle, hplaces, hd⟩ := h
  obtain hm | hm | hm | ⟨hroom, r, hm⟩ := m.admitFrame_cases bytes <;> rw [hm]
  · exact ⟨hle, hplaces, by rw [hd]; ring⟩
  · exact ⟨hle, hplaces, by rw [hd]; ring⟩
  · exact ⟨hle, hplaces, by rw [hd]; ring⟩
  · have hlen : (m.buffer ++ [r]).length = m.buffer.length + 1 := List.length_append
    refine ⟨by dsimp only; omega, ?_, by rw [hd]; ring⟩
    dsimp only
    rw [hlen, show BitVec.ofNat 32 (m.buffer.length + 1) = BitVec.ofNat 32 m.buffer.length + 1 from by bv_omega, hplaces]
    ring

theorem State.Did.mguBalanced {w : Option (List FieldEntry)} {s u : State} (h : s.Did w u) (hs : s.mguBalanced) :
    u.mguBalanced := by
  have answer {m : State} (hm : s.Worked w m) (hb : s.mgu.buffer ≠ []) (x : Status) :
      (m.mgu.ctr.responded x).agree (m.mgu.buffer.drop 1).length m.fcl.diverted := by
    rw [List.length_drop, hm.buffer]
    exact MguCounters.agree_responded x (fun h0 => hb (List.length_eq_zero_iff.1 h0)) (hm.agree hs)
  cases h with
  | worked h => rw [State.mguBalanced_iff, h.buffer]; exact h.agree hs
  | received bytes ok =>
    cases ok with
    | false => exact hs
    | true =>
      obtain h | ⟨i, hi, ⟨-, -, -, -, hfcl, -, hbuf, -, -, -, hctr, -⟩, -⟩ := s.frameReceived_cases bytes
      · rw [h]; exact Mgu.admitFrame_agree bytes hs
      · rw [State.mguBalanced_iff, hfcl, hbuf]
        refine (MguCounters.agree_notices hctr).2 ?_
        change s.mgu.ctr.agree s.mgu.buffer.length (s.fcl.took i).diverted
        rw [FclCounters.took_diverted hi]
        exact hs
  | @upstream m h t payload =>
    obtain ⟨n, l, hu, hn⟩ := m.upstream_cases t payload
    rw [hu, State.mguBalanced_iff]
    change m.mgu.ctr.agree m.mgu.buffer.length n.diverted
    rw [(FclCounters.butUpstream hn).2, h.buffer]
    exact h.agree hs
  | answered h hb r a => exact answer h hb a.status
  | closed h hb r g =>
    refine (MguCounters.agree_notices ?_).2 (answer h hb (groupReply g.results).status)
    rfl

theorem State.repower_mguBalanced (s : State) (straps : Fin 64) : (s.repower straps).mguBalanced := by
  have h : ({} : MguCounters).agree 0 0 := ⟨by decide, by decide, by decide⟩
  exact h

/-- What power-on gives and every command keeps, every step keeps. -/
theorem step_keeps_of {P : State → Prop} (hp : ∀ (s : State) (rest : List Instr), P s → P { s with pending := rest })
    (hpower : ∀ (s : State) (straps : Fin 64), P (s.repower straps))
    (hdid : ∀ (w : Option (List FieldEntry)) (s u : State), s.Did w u → P s → P u) {s u : State} (hs : P s)
    (h : step s = .next u) : P u := by
  obtain rfl | ⟨i, rest, -, h⟩ := step_cases h
  · exact hs
  · obtain ⟨straps, -, rfl⟩ | h := exec_did h
    · exact hpower _ straps
    · exact hdid _ _ _ h (hp s rest hs)

/-- Settles O53: no outcome of a frame, admission or response upsets the sums. -/
theorem frameAndRequestCountsAreKept : Obligations.FrameAndRequestCountsAreKept :=
  ⟨fun _ _ => step_keeps_of (P := fun s => s.fcl.balanced) (fun _ _ => id) (fun _ _ => rfl) fun _ _ _ h => h.balanced,
   fun _ _ => step_keeps_of (P := State.mguBalanced) (fun _ _ => id) State.repower_mguBalanced fun _ _ _ h => h.mguBalanced⟩

/-! ### What operations of the link side keep, by the three records -/

/-- An operation keeps what writes keep, moves one carrier's window, or is a sector reset. -/
theorem Sector.Op.cases {w : Option (List FieldEntry)} {s s' : Sector} (h : Sector.Op w s s') :
    s.Stays s' ∨ (∃ c f, Sector.FrameMoved c f s s') ∨ s' = s.sectorReset := by
  cases h with
  | event h => exact .inl h.keeps.stays
  | csp c f => exact .inr (.inl ⟨c, f, Sector.cspFrame_moved s c f⟩)
  | profile p x => exact .inl (Sector.setProfile_stays s p x)
  | readEvents => exact .inl (Sector.Keeps.note s _).stays
  | lowMark n => exact .inl ⟨fun _ => rfl, fun _ => rfl, id, rfl, rfl, [], (List.append_nil _).symm⟩
  | writeCarrier c es _ => exact .inl (Sector.writeCarrier_stays s c _)
  | sectorReset => exact .inr (.inr rfl)
  | writeTerminal t es _ _ => exact .inl (Sector.writeTerminal_stays s t es _)

theorem Carrier.windowed_of {j k : Carrier} (hf : j.frames = k.frames)
    (hr : j.calendar.map Row.frame = k.calendar.map Row.frame) (h : k.windowed) : j.windowed := by
  have hl : j.lastFrame = k.lastFrame := congrArg Prod.fst hf
  unfold Carrier.windowed
  rw [hr, hl]
  exact h

theorem Sector.Op.windowed {w : Option (List FieldEntry)} {s s' : Sector} (h : Sector.Op w s s')
    (hs : ∀ c, (s.car c).windowed) (d : CarrierNo) : (s'.car d).windowed := by
  obtain h | ⟨c, f, h⟩ | rfl := h.cases
  · exact Carrier.windowed_of (h.frames d) (h.rows d) (hs d)
  · by_cases hd : d = c
    · subst hd
      have hl : (s'.car d).lastFrame = f := congrArg Prod.fst h.counted
      unfold Carrier.windowed
      rw [hl]
      exact h.window
    · exact Carrier.windowed_of (h.others d hd) (h.rows d hd) (hs d)
  · obtain ⟨hf, hr, -⟩ := s.sectorReset_stays
    exact Carrier.windowed_of (hf d) (hr d) (hs d)

theorem Sector.Op.canonical {w : Option (List FieldEntry)} {s s' : Sector} (h : Sector.Op w s s') (hs : s.canonical) :
    s'.canonical := by
  obtain h | ⟨c, f, h⟩ | rfl := h.cases
  · exact h.canonical hs
  · exact h.canonical hs
  · obtain ⟨-, -, hc, -⟩ := s.sectorReset_stays
    exact hc hs

theorem Sector.Op.poolsWhole {w : Option (List FieldEntry)} {s s' : Sector} (h : Sector.Op w s s') (hs : s.poolsWhole) :
    s'.poolsWhole := by
  obtain h | ⟨c, f, h⟩ | rfl := h.cases
  · exact h.poolsWhole hs
  · exact ⟨h.descriptors.trans hs.1, h.blocks.trans hs.2⟩
  · obtain ⟨-, -, -, hp⟩ := s.sectorReset_stays
    exact hp

/-- The link side after a command is reached by operations. -/
theorem State.Did.ops {w : Option (List FieldEntry)} {s u : State} (h : s.Did w u) : Sector.Ops w s.sector u.sector := by
  cases h with
  | worked h => exact h.ops
  | received bytes ok =>
    cases ok with
    | false => exact .refl
    | true =>
      obtain h | ⟨i, -, -, h⟩ := s.frameReceived_cases bytes
      · rw [h]; exact .refl
      · exact h w
  | @upstream m h t payload =>
    obtain ⟨n, l, hu, -⟩ := m.upstream_cases t payload
    rw [hu]
    exact h.ops
  | answered h _ r a => exact h.ops
  | closed h _ r g => exact h.ops

/-- The Tag Map after a command is as it was, or one entry other than 0 and 4095 was set. -/
theorem State.Did.tags {w : Option (List FieldEntry)} {s u : State} (h : s.Did w u) :
    u.tagMap = s.tagMap ∨ ∃ tag : Tag, tag ≠ 0 ∧ tag ≠ 4095 ∧ ∃ e, u.tagMap = Table.write none s.tagMap tag e := by
  cases h with
  | worked h => exact h.tags
  | received bytes ok =>
    left
    cases ok with
    | false => rfl
    | true =>
      obtain h | ⟨i, -, ⟨-, -, -, htag, -⟩, -⟩ := s.frameReceived_cases bytes
      · rw [h]; rfl
      · exact htag
  | @upstream m h t payload =>
    obtain ⟨n, l, hu, -⟩ := m.upstream_cases t payload
    rw [hu]
    exact h.tags
  | answered h _ r a => exact h.tags
  | closed h _ r g => exact h.tags

/-- The link side right after power-on, what was handed to the modem kept (R177). -/
def Sector.powerOn (out : List MlOut) : Sector := { mlOut := out }

theorem State.repower_sector (s : State) (straps : Fin 64) : (s.repower straps).sector = Sector.powerOn s.sector.mlOut := rfl

theorem Sector.powerOn_term (out : List MlOut) (t : TermNo) : (Sector.powerOn out).term t = Terminal.powerOn := rfl

theorem Sector.powerOn_car (out : List MlOut) (c : CarrierNo) : (Sector.powerOn out).car c = {} := by
  unfold Sector.car Sector.powerOn
  exact Vector.getElem_replicate _

theorem Sector.powerOn_windowed (out : List MlOut) (c : CarrierNo) : ((Sector.powerOn out).car c).windowed := by
  rw [Sector.powerOn_car]
  exact emptyCalendar_frames 0

theorem emptyCalendar_wf (f : FrameNo) {r : Row} (h : r ∈ emptyCalendar f) : Table.wf .empty r.cells = true := by
  obtain ⟨i, -, rfl⟩ := List.mem_map.1 h
  exact Table.wf_nil _

theorem Sector.powerOn_canonical (out : List MlOut) : (Sector.powerOn out).canonical := by
  refine ⟨Table.wf_nil _, fun c => ?_⟩
  rw [Sector.powerOn_car]
  exact ⟨Table.wf_nil _, fun r => emptyCalendar_wf 0⟩

theorem Sector.powerOn_poolsWhole (out : List MlOut) : (Sector.powerOn out).poolsWhole := by
  have hsum {f : TermNo → Nat} (h : ∀ t, f t = 0) : (allTerminals.map f).sum = 0 := by
    rw [funext h, List.map_const', List.sum_replicate, smul_zero]
  exact ⟨congrArg (4096 + ·) (hsum fun _ => rfl), congrArg (8192 + ·) (hsum fun _ => rfl)⟩

/-- What power-on gives and every operation keeps, every step keeps of the link side. -/
theorem step_keeps_sector {P : Sector → Prop} (hpower : ∀ out, P (Sector.powerOn out))
    (hop : ∀ (w : Option (List FieldEntry)) (s s' : Sector), Sector.Op w s s' → P s → P s') {s u : State} (hs : P s.sector)
    (h : step s = .next u) : P u.sector :=
  step_keeps_of (P := fun s => P s.sector) (fun _ _ => id) (fun s _ => hpower s.sector.mlOut)
    (fun w _ _ h hs => Sector.Ops.keep (hop w) h.ops hs) hs h

theorem State.Did.tagsFixed {w : Option (List FieldEntry)} {s u : State} (h : s.Did w u) (hs : s.tagsFixed) : u.tagsFixed := by
  unfold State.tagsFixed State.tagEntry at *
  obtain h | ⟨tag, h0, hm, e, h⟩ := h.tags <;> rw [h]
  · exact hs
  · rw [Table.read_write_other _ _ _ h0.symm, Table.read_write_other _ _ _ hm.symm]
    exact hs

/-- Settles O54: only tags a request may bind are set, and a window is moved whole. -/
theorem fixedTagsAndWindowAreKept : Obligations.FixedTagsAndWindowAreKept :=
  ⟨fun _ _ => step_keeps_of (P := State.tagsFixed) (fun _ _ => id) (fun _ _ => ⟨rfl, rfl⟩) fun _ _ _ h => h.tagsFixed,
   fun _ _ => step_keeps_sector (P := fun s => ∀ c, (s.car c).windowed) Sector.powerOn_windowed
     fun _ _ _ h hs c => h.windowed hs c⟩

/-- Settles O55: every table is changed by writes that keep its form. -/
theorem canonicalFormIsKept : Obligations.CanonicalFormIsKept := by
  intro s u ⟨htags, hsector⟩ h
  refine ⟨step_keeps_of (P := fun s => Table.wf none s.tagMap = true) (fun _ _ => id) (fun _ _ => Table.wf_nil _) ?_ htags h,
    step_keeps_sector Sector.powerOn_canonical (fun _ _ _ h => h.canonical) hsector h⟩
  intro w s u h hs
  obtain h | ⟨tag, -, -, e, h⟩ := h.tags <;> rw [h]
  · exact hs
  · exact Table.wf_write none tag e hs

/-- Settles O56: what leaves a queue returns to the pools, and what joins one is taken from them. -/
theorem poolsStayWhole : Obligations.PoolsStayWhole := fun _ _ =>
  step_keeps_sector Sector.powerOn_poolsWhole fun _ _ _ h => h.poolsWhole

end Sys2Proof.Machine
end

section
/-! SUPPORT. The queue of commands, power-on, and the state after reset (R177). -/

namespace Sys2Proof.Machine

/-- Every command is carried out: no meaning ends in a fault or a refusal. -/
theorem exec_next (i : Instr) (s : State) : ∃ u, exec i s = .next u := by
  cases i <;> exact ⟨_, rfl⟩

/-- Settles O1: the two equations of `step`, and that every arm answers. -/
theorem stepExecutesFrontCommand : Obligations.StepExecutesFrontCommand := by
  refine ⟨fun c rest s h => ?_, exec_next, fun s h => ?_⟩
  · unfold step; rw [h]
  · unfold step; rw [h]

/-! ### Power-on -/

theorem emptyCalendar_zero :
    emptyCalendar 0 = (List.range 16).map fun i => { frame := BitVec.ofNat 16 i, filled := false, cells := [] } := by
  unfold emptyCalendar
  simp only [zero_add]

/-- Every counter is 0 in a list of so many power-on counters. -/
theorem eq_zero_of_mem_replicate {n : Nat} {x : Counter} (h : x ∈ List.replicate n (0 : Counter)) : x = 0 := List.eq_of_mem_replicate h

theorem Sector.powerOn_counters (out : List MlOut) (c : CarrierNo) :
    ∀ x ∈ ((Sector.powerOn out).car c).counterList, x = 0 := by
  rw [Sector.powerOn_car]
  exact fun x => eq_zero_of_mem_replicate (n := 39)

theorem Sector.powerOn_profile (out : List MlOut) (p : ProfileNo) : (Sector.powerOn out).profile p = {} := by
  unfold Sector.profile Sector.powerOn
  exact Vector.getElem_replicate _

/-- Settles O2: the power-on values, block by block. -/
theorem powerOnResetValues : Obligations.PowerOnResetValues := by
  intro straps s
  refine ⟨s.repower straps, rfl, ⟨rfl, rfl, rfl, rfl, rfl⟩, rfl, fun tag => rfl, fun x => eq_zero_of_mem_replicate (n := 39), ?terms, ?cars,
    ?profiles, rfl, rfl, rfl, rfl, rfl, rfl, rfl, rfl, rfl, rfl⟩
  case terms =>
    rw [State.repower_sector]
    intro t
    rw [Sector.powerOn_term]
    exact ⟨rfl, rfl, rfl, rfl, rfl, rfl, rfl, fun x => eq_zero_of_mem_replicate (n := 25)⟩
  case cars =>
    rw [State.repower_sector]
    intro c
    have hctr := Sector.powerOn_counters s.sector.mlOut c
    rw [Sector.powerOn_car] at hctr ⊢
    exact ⟨rfl, rfl, rfl, rfl, emptyCalendar_zero, fun x => rfl, rfl, rfl, rfl, rfl, rfl, rfl, rfl, hctr⟩
  case profiles => rw [State.repower_sector]; exact fun p => Sector.powerOn_profile _ p

/-! ### The invariants at power-on -/

theorem Sector.powerOn_ascending (out : List MlOut) : (Sector.powerOn out).events.ascending := ⟨.nil, .nil, .nil, .nil, .nil⟩

theorem Sector.powerOn_allScheduled (out : List MlOut) : (Sector.powerOn out).allScheduled := by
  refine ⟨fun c => ?_, fun t _ => rfl⟩
  have hnone {α : Type} {P : α → Prop} : ∀ e ∈ ([] : List α), P e := fun _ h => absurd h List.not_mem_nil
  unfold Sector.scheduled Sector.bound
  rw [Sector.powerOn_car]
  refine ⟨List.Pairwise.nil, List.nodup_nil, hnone, List.nodup_nil, hnone, fun t => ?queue, List.Pairwise.nil, Nat.zero_le 8,
    Nat.le_of_ble_eq_true rfl, fun t => ?ranging⟩
  case queue =>
    rw [Sector.powerOn_term]
    exact ⟨fun ⟨e, h, _⟩ => absurd h List.not_mem_nil, fun ⟨h, _⟩ => absurd h Bool.false_ne_true⟩
  case ranging =>
    rw [Sector.powerOn_term]
    exact ⟨fun h => absurd h List.not_mem_nil, fun ⟨h, _⟩ => absurd h Bool.false_ne_true⟩

/-- Settles O60: reset is power-on with all straps 0. -/
theorem invariantsHoldAtReset : Obligations.InvariantsHoldAtReset :=
  ⟨by decide, ⟨by decide, by decide, by decide⟩, ⟨rfl, rfl⟩, Sector.powerOn_windowed [], ⟨Table.wf_nil _, Sector.powerOn_canonical []⟩,
    Sector.powerOn_poolsWhole [], Sector.powerOn_ascending [], Sector.powerOn_allScheduled []⟩

end Sys2Proof.Machine
end

section
/-! SUPPORT. The schedules (R90 to R92) and the event sets (R174): what an operation that changes no link state keeps of them
(`Sector.Calm`), and what leaving and entering a link state makes of them. -/

namespace Sys2Proof.Machine

/-! ### The plan of a scheduler -/

/-- What R90 to R92 speak of: the entries but for their last profiles, the next place, and the ranging set. -/
def Scheduler.plan (q : Scheduler) : List (TermNo × Fin 4 × Nat) × Nat × List TermNo :=
  (q.queue.map fun e => (e.terminal, e.cls, e.stamp), q.nextOrder, q.ranging)

/-- A queue and a ranging set as R90 to R92 say, for the terminals that are to stand in them. -/
structure Scheduler.Planned (size : Nat) (cls : TermNo → Fin 4) (called trimming : TermNo → Prop) (q : Scheduler) : Prop where
  ordered : q.queue.Pairwise fun a b => a.cls < b.cls ∨ (a.cls = b.cls ∧ a.stamp < b.stamp)
  stamps : (q.queue.map QueueEntry.stamp).Nodup
  next : ∀ e ∈ q.queue, e.stamp < q.nextOrder
  terminals : (q.queue.map QueueEntry.terminal).Nodup
  classes : ∀ e ∈ q.queue, e.cls = cls e.terminal
  entered : ∀ t, (∃ e ∈ q.queue, e.terminal = t) ↔ called t
  ascending : q.ranging.Pairwise (· < ·)
  room : q.ranging.length ≤ 8
  size : size ≤ 8
  ranging : ∀ t, t ∈ q.ranging ↔ trimming t

theorem Sector.scheduled_iff (s : Sector) (c : CarrierNo) : s.scheduled c ↔
    (s.car c).res.Planned (s.car c).cfg.rangingSize (fun t => (s.term t).cfg.cls)
      (fun t => s.bound c t = true ∧ (s.term t).link.state = .called)
      (fun t => s.bound c t = true ∧ (s.term t).link.state = .trimming) := by
  constructor
  · rintro ⟨h₁, h₂, h₃, h₄, h₅, h₆, h₇, h₈, h₉, h₁₀⟩
    exact ⟨h₁, h₂, h₃, h₄, h₅, h₆, h₇, h₈, h₉, h₁₀⟩
  · rintro ⟨h₁, h₂, h₃, h₄, h₅, h₆, h₇, h₈, h₉, h₁₀⟩
    exact ⟨h₁, h₂, h₃, h₄, h₅, h₆, h₇, h₈, h₉, h₁₀⟩

section Planned
variable {size : Nat} {cls : TermNo → Fin 4} {called trimming : TermNo → Prop} {q : Scheduler}
  (h : q.Planned size cls called trimming)
include h

/-- The terminals that are to stand in the queue and the set may be told otherwise. -/
theorem Scheduler.Planned.congr {size' : Nat} {cls' : TermNo → Fin 4} {called' trimming' : TermNo → Prop} (hsize : size' ≤ 8)
    (hcls : ∀ t, called t → cls' t = cls t) (hc : ∀ t, called' t ↔ called t) (ht : ∀ t, trimming' t ↔ trimming t) :
    q.Planned size' cls' called' trimming' where
  ordered := h.ordered
  stamps := h.stamps
  next := h.next
  terminals := h.terminals
  classes e he := (h.classes e he).trans (hcls _ ((h.entered _).1 ⟨e, he, rfl⟩)).symm
  entered t := (h.entered t).trans (hc t).symm
  ascending := h.ascending
  room := h.room
  size := hsize
  ranging t := (h.ranging t).trans (ht t).symm

/-- Schedulers of one plan are planned alike. -/
theorem Scheduler.Planned.of_plan {p : Scheduler} (hp : p.plan = q.plan) : p.Planned size cls called trimming := by
  obtain ⟨hq, hn, hr⟩ : (p.queue.map fun e => (e.terminal, e.cls, e.stamp)) = (q.queue.map fun e => (e.terminal, e.cls, e.stamp)) ∧
      p.nextOrder = q.nextOrder ∧ p.ranging = q.ranging := by
    have h₁ := congrArg Prod.fst hp
    have h₂ := congrArg (fun x => x.2.1) hp
    have h₃ := congrArg (fun x => x.2.2) hp
    exact ⟨h₁, h₂, h₃⟩
  have hmem {R : TermNo × Fin 4 × Nat → Prop} (hR : ∀ e ∈ q.queue, R (e.terminal, e.cls, e.stamp)) :
      ∀ e ∈ p.queue, R (e.terminal, e.cls, e.stamp) := by
    intro e he
    have : (e.terminal, e.cls, e.stamp) ∈ q.queue.map fun e => (e.terminal, e.cls, e.stamp) := hq ▸ List.mem_map.2 ⟨e, he, rfl⟩
    obtain ⟨x, hx, hxe⟩ := List.mem_map.1 this
    exact hxe ▸ hR x hx
  have hmap {β : Type} (g : TermNo × Fin 4 × Nat → β) :
      p.queue.map (fun e => g (e.terminal, e.cls, e.stamp)) = q.queue.map fun e => g (e.terminal, e.cls, e.stamp) := by
    have := congrArg (List.map g) hq
    simpa only [List.map_map, Function.comp_def] using this
  exact
    { ordered := by
        have := h.ordered
        have hpair := (List.pairwise_map (f := fun e : QueueEntry => (e.terminal, e.cls, e.stamp))
          (R := fun a b : TermNo × Fin 4 × Nat => a.2.1 < b.2.1 ∨ (a.2.1 = b.2.1 ∧ a.2.2 < b.2.2))).2 this
        rw [← hq] at hpair
        exact List.pairwise_map.1 hpair
      stamps := by
        have := hmap fun x => x.2.2
        exact this ▸ h.stamps
      next := by rw [hn]; exact hmem (R := fun x => x.2.2 < q.nextOrder) h.next
      terminals := by
        have := hmap fun x => x.1
        exact this ▸ h.terminals
      classes := hmem (R := fun x => x.2.1 = cls x.1) h.classes
      entered := by
        intro t
        have hterm := hmap fun x => x.1
        rw [← h.entered t]
        have key (l : List QueueEntry) : (∃ e ∈ l, e.terminal = t) ↔ t ∈ l.map fun e => e.terminal := List.mem_map.symm
        rw [key, key, hterm]
      ascending := hr ▸ h.ascending
      room := hr ▸ h.room
      size := h.size
      ranging := hr ▸ h.ranging }

/-- The entry of `t` is removed (R91). -/
theorem Scheduler.Planned.leaveQueue (t : TermNo) :
    ({ q with queue := q.queue.filter fun e => decide (e.terminal ≠ t) } : Scheduler).Planned size cls
      (fun u => called u ∧ u ≠ t) trimming where
  ordered := h.ordered.filter _
  stamps := h.stamps.sublist (List.filter_sublist.map _)
  next e he := h.next e (List.mem_of_mem_filter he)
  terminals := h.terminals.sublist (List.filter_sublist.map _)
  classes e he := h.classes e (List.mem_of_mem_filter he)
  entered u := by
    rw [← h.entered u]
    simp only [List.mem_filter, decide_eq_true_eq]
    constructor
    · rintro ⟨e, ⟨he, hne⟩, rfl⟩
      exact ⟨⟨e, he, rfl⟩, hne⟩
    · rintro ⟨⟨e, he, rfl⟩, hne⟩
      exact ⟨e, ⟨he, hne⟩, rfl⟩
  ascending := h.ascending
  room := h.room
  size := h.size
  ranging := h.ranging

/-- Terminal `t` is removed from the ranging set (R92). -/
theorem Scheduler.Planned.leaveRanging (t : TermNo) :
    ({ q with ranging := q.ranging.filter fun x => decide (x ≠ t) } : Scheduler).Planned size cls called
      (fun u => trimming u ∧ u ≠ t) where
  ordered := h.ordered
  stamps := h.stamps
  next := h.next
  terminals := h.terminals
  classes := h.classes
  entered := h.entered
  ascending := h.ascending.filter _
  room := (List.length_filter_le _ _).trans h.room
  size := h.size
  ranging u := by
    rw [← h.ranging u, List.mem_filter, decide_eq_true_eq]

/-- A terminal joins the ranging set where it has room (R92, R96). -/
theorem Scheduler.Planned.joinRanging (t : TermNo) (hroom : q.ranging.length < size) :
    ({ q with ranging := insertNo t q.ranging } : Scheduler).Planned size cls called (fun u => trimming u ∨ u = t) where
  ordered := h.ordered
  stamps := h.stamps
  next := h.next
  terminals := h.terminals
  classes := h.classes
  entered := h.entered
  ascending := pairwise_insertNo h.ascending
  room := by
    have hlen (l : List TermNo) : (insertNo t l).length ≤ l.length + 1 := by
      induction l with
      | nil => exact Nat.le_refl 1
      | cons y l ih =>
        unfold insertNo
        split
        · exact Nat.le_refl _
        · split
          · exact Nat.le_succ _
          · exact Nat.succ_le_succ ih
    have := hlen q.ranging
    have := h.size
    dsimp only
    omega
  size := h.size
  ranging u := by
    rw [mem_insertNo, h.ranging u, or_comm]

/-- The head is taken from the queue (R96). -/
theorem Scheduler.Planned.takeHead {e : QueueEntry} {l : List QueueEntry} (hq : q.queue = e :: l) :
    ({ q with queue := l } : Scheduler).Planned size cls (fun u => called u ∧ u ≠ e.terminal) trimming := by
  obtain ⟨ho, hs, hn, ht, hc, he, ha, hr, hz, hm⟩ := h
  rw [hq] at ho hs hn ht hc he
  have hne (x : QueueEntry) (hx : x ∈ l) : x.terminal ≠ e.terminal := by
    rw [List.map_cons, List.nodup_cons] at ht
    exact fun hxe => ht.1 (hxe ▸ List.mem_map_of_mem hx)
  refine ⟨(List.pairwise_cons.1 ho).2, (List.nodup_cons.1 hs).2, fun x hx => hn x (List.mem_cons_of_mem _ hx),
    (List.nodup_cons.1 ht).2, fun x hx => hc x (List.mem_cons_of_mem _ hx), fun u => ?_, ha, hr, hz, hm⟩
  rw [← he u]
  constructor
  · rintro ⟨x, hx, rfl⟩
    exact ⟨⟨x, List.mem_cons_of_mem _ hx, rfl⟩, hne x hx⟩
  · rintro ⟨⟨x, hx, rfl⟩, hxe⟩
    rcases List.mem_cons.1 hx with rfl | hx
    · exact absurd rfl hxe
    · exact ⟨x, hx, rfl⟩

end Planned

theorem enqueue_perm (e : QueueEntry) (l : List QueueEntry) : (enqueue e l).Perm (e :: l) := by
  induction l with
  | nil => exact .refl _
  | cons x l ih =>
    unfold enqueue
    split
    · exact .refl _
    · exact (ih.cons x).trans (.swap e x l)

theorem mem_enqueue {e x : QueueEntry} {l : List QueueEntry} : x ∈ enqueue e l ↔ x = e ∨ x ∈ l := by
  rw [(enqueue_perm e l).mem_iff, List.mem_cons]

/-- An entry put in its place keeps the order of R90, when its acceptance number is none of the others'. -/
theorem pairwise_enqueue {e : QueueEntry} {l : List QueueEntry}
    (h : l.Pairwise fun a b => a.cls < b.cls ∨ (a.cls = b.cls ∧ a.stamp < b.stamp)) (hs : ∀ x ∈ l, x.stamp ≠ e.stamp) :
    (enqueue e l).Pairwise fun a b => a.cls < b.cls ∨ (a.cls = b.cls ∧ a.stamp < b.stamp) := by
  have before_iff (x : QueueEntry) : e.before x = true ↔ e.cls < x.cls ∨ (e.cls = x.cls ∧ e.stamp < x.stamp) := by
    simp only [QueueEntry.before, Bool.or_eq_true, Bool.and_eq_true, decide_eq_true_eq]
  induction l with
  | nil => exact List.pairwise_singleton _ e
  | cons x l ih =>
    obtain ⟨hx, hl⟩ := List.pairwise_cons.1 h
    unfold enqueue
    split
    · next hb =>
      rw [before_iff] at hb
      refine List.pairwise_cons.2 ⟨fun y hy => ?_, h⟩
      rcases List.mem_cons.1 hy with rfl | hy
      · exact hb
      · have := hx y hy
        omega
    · next hb =>
      rw [before_iff] at hb
      refine List.pairwise_cons.2 ⟨fun y hy => ?_, ih hl fun y hy => hs y (List.mem_cons_of_mem _ hy)⟩
      rcases mem_enqueue.1 hy with rfl | hy
      · have := hs x List.mem_cons_self
        omega
      · exact hx y hy

/-- A new entry with the next acceptance number (R38, R90). -/
theorem Scheduler.Planned.join {size : Nat} {cls : TermNo → Fin 4} {called trimming : TermNo → Prop} {q : Scheduler}
    (h : q.Planned size cls called trimming) {t : TermNo} (ht : ¬ called t) (p : ProfileNo) :
    ({ q with queue := enqueue { terminal := t, cls := cls t, lastProfile := p, stamp := q.nextOrder } q.queue
              nextOrder := q.nextOrder + 1 } : Scheduler).Planned size cls (fun u => called u ∨ u = t) trimming where
  ordered := pairwise_enqueue h.ordered fun x hx => (h.next x hx).ne
  stamps := by
    refine (((enqueue_perm _ q.queue).map QueueEntry.stamp).nodup_iff).2 (List.nodup_cons.2 ⟨fun hm => ?_, h.stamps⟩)
    obtain ⟨x, hx, he⟩ := List.mem_map.1 hm
    exact (h.next x hx).ne he
  next e he := by
    rcases mem_enqueue.1 he with rfl | he
    · exact Nat.lt_succ_self _
    · exact (h.next e he).trans (Nat.lt_succ_self _)
  terminals := by
    refine (((enqueue_perm _ q.queue).map QueueEntry.terminal).nodup_iff).2 (List.nodup_cons.2 ⟨fun hm => ?_, h.terminals⟩)
    obtain ⟨x, hx, he⟩ := List.mem_map.1 hm
    exact ht ((h.entered t).1 ⟨x, hx, he⟩)
  classes e he := by
    rcases mem_enqueue.1 he with rfl | he
    · rfl
    · exact h.classes e he
  entered u := by
    rw [← h.entered u]
    constructor
    · rintro ⟨e, he, rfl⟩
      rcases mem_enqueue.1 he with rfl | he
      · exact .inr rfl
      · exact .inl ⟨e, he, rfl⟩
    · rintro (⟨e, he, rfl⟩ | rfl)
      · exact ⟨e, mem_enqueue.2 (.inr he), rfl⟩
      · exact ⟨_, mem_enqueue.2 (.inl rfl), rfl⟩
  ascending := h.ascending
  room := h.room
  size := h.size
  ranging := h.ranging

/-- A CALLED terminal's entry takes its new class and keeps its acceptance number (R26). -/
theorem Scheduler.Planned.reclass {size : Nat} {cls cls' : TermNo → Fin 4} {called trimming : TermNo → Prop} {q : Scheduler}
    (h : q.Planned size cls called trimming) {t : TermNo} (ht : called t) (hcls : ∀ u, u ≠ t → cls' u = cls u) :
    (q.reclass t (cls' t)).Planned size cls' called trimming := by
  have hl := h.leaveQueue t
  obtain ⟨e₀, he₀, hte₀⟩ := (h.entered t).2 ht
  unfold Scheduler.reclass
  split
  · next hnone =>
    rw [List.find?_eq_none] at hnone
    exact absurd (decide_eq_true hte₀) (hnone e₀ he₀)
  · next e hsome =>
    have hte : e.terminal = t := by simpa only [decide_eq_true_eq] using List.find?_some hsome
    have hmem : e ∈ q.queue := List.mem_of_find?_eq_some hsome
    have hother (x : QueueEntry) (hx : x ∈ q.queue.filter fun x => decide (x.terminal ≠ t)) : x.stamp ≠ e.stamp := by
      obtain ⟨hxq, hxt⟩ := List.mem_filter.1 hx
      intro hs
      have := List.inj_on_of_nodup_map h.stamps hxq hmem hs
      subst this
      exact of_decide_eq_true hxt hte
    exact
      { ordered := pairwise_enqueue (e := { e with cls := cls' t }) hl.ordered hother
        stamps := by
          refine (((enqueue_perm _ _).map QueueEntry.stamp).nodup_iff).2 (List.nodup_cons.2 ⟨fun hm => ?_, hl.stamps⟩)
          obtain ⟨x, hx, he⟩ := List.mem_map.1 hm
          exact hother x hx he
        next := fun x hx => by
          rcases mem_enqueue.1 hx with rfl | hx
          · exact h.next e hmem
          · exact hl.next x hx
        terminals := by
          refine (((enqueue_perm _ _).map QueueEntry.terminal).nodup_iff).2 (List.nodup_cons.2 ⟨fun hm => ?_, hl.terminals⟩)
          obtain ⟨x, hx, he⟩ := List.mem_map.1 hm
          exact of_decide_eq_true (List.mem_filter.1 hx).2 (he.trans hte)
        classes := fun x hx => by
          rcases mem_enqueue.1 hx with rfl | hx
          · exact congrArg cls' hte.symm
          · exact (hl.classes x hx).trans (hcls _ (of_decide_eq_true (List.mem_filter.1 hx).2)).symm
        entered := fun u => by
          constructor
          · rintro ⟨x, hx, rfl⟩
            rcases mem_enqueue.1 hx with rfl | hx
            · exact (h.entered _).1 ⟨e, hmem, rfl⟩
            · exact ((hl.entered _).1 ⟨x, hx, rfl⟩).1
          · intro hu
            by_cases hut : u = t
            · exact ⟨_, mem_enqueue.2 (.inl rfl), hte.trans hut.symm⟩
            · obtain ⟨x, hx, hxu⟩ := (hl.entered u).2 ⟨hu, hut⟩
              exact ⟨x, mem_enqueue.2 (.inr hx), hxu⟩
        ascending := h.ascending
        room := h.room
        size := h.size
        ranging := h.ranging }

/-! ### Additions to the event sets (R174) -/

section
variable {e : EventSets} (h : e.ascending)
include h

theorem EventSets.addStateChange_ascending (t : TermNo) : (e.addStateChange t).ascending := by
  obtain ⟨h₁, h₂, h₃, h₄, h₅⟩ := h
  exact ⟨pairwise_insertNo h₁, h₂, h₃, h₄, h₅⟩

theorem EventSets.addCarrier_ascending (c : CarrierNo) : (e.addCarrier c).ascending := by
  obtain ⟨h₁, h₂, h₃, h₄, h₅⟩ := h
  exact ⟨h₁, pairwise_insertNo h₂, h₃, h₄, h₅⟩

theorem EventSets.addRangeFail_ascending (t : TermNo) : (e.addRangeFail t).ascending := by
  obtain ⟨h₁, h₂, h₃, h₄, h₅⟩ := h
  exact ⟨h₁, h₂, pairwise_insertNo h₃, h₄, h₅⟩

theorem EventSets.addStorm_ascending (c : CarrierNo) : (e.addStorm c).ascending := by
  obtain ⟨h₁, h₂, h₃, h₄, h₅⟩ := h
  exact ⟨h₁, h₂, h₃, pairwise_insertNo h₄, h₅⟩

theorem EventSets.addListFull_ascending (c : CarrierNo) : (e.addListFull c).ascending := by
  obtain ⟨h₁, h₂, h₃, h₄, h₅⟩ := h
  exact ⟨h₁, h₂, h₃, h₄, pairwise_insertNo h₅⟩

end

theorem insertNo_length {n : Nat} (x : Fin n) (l : List (Fin n)) : insertNo x l = l ∨ (insertNo x l).length = l.length + 1 := by
  induction l with
  | nil => exact .inr rfl
  | cons y l ih =>
    unfold insertNo
    split
    · exact .inr rfl
    · split
      · exact .inl rfl
      · rcases ih with h | h
        · exact .inl (congrArg (y :: ·) h)
        · exact .inr (congrArg (· + 1) h)

theorem insertNo_isEmpty {n : Nat} (x : Fin n) (l : List (Fin n)) : (insertNo x l).isEmpty = false := by
  cases l with
  | nil => rfl
  | cons y l =>
    unfold insertNo
    split
    · rfl
    · split <;> rfl

/-- How much stands in the event sets. -/
def EventSets.size (e : EventSets) : Nat :=
  e.stateChange.length + e.carrier.length + e.rangeFail.length + e.storm.length + e.listFull.length + e.storeLow.toNat +
    e.storeExhausted.toNat

/-- Event sets to which entries were added, if anything. -/
structure EventSets.Grown (e e' : EventSets) : Prop where
  tidy : e.ascending → e'.ascending
  more : e' = e ∨ e.size < e'.size
  within : ∀ n, e.enabledNonempty n = true → e'.enabledNonempty n = true

theorem EventSets.Grown.rfl' (e : EventSets) : e.Grown e := ⟨id, .inl rfl, fun _ => id⟩

theorem EventSets.Grown.trans {a b c : EventSets} (h : a.Grown b) (g : b.Grown c) : a.Grown c where
  tidy x := g.tidy (h.tidy x)
  more := by
    rcases g.more with hg | hg
    · rw [hg]; exact h.more
    · rcases h.more with hh | hh
      · rw [← hh]; exact .inr hg
      · exact .inr (hh.trans hg)
  within n x := g.within n (h.within n x)

section
variable (e : EventSets)

theorem EventSets.addStateChange_grown (t : TermNo) : e.Grown (e.addStateChange t) := by
  refine ⟨fun h => EventSets.addStateChange_ascending h t, ?_, fun n => ?_⟩ <;> unfold EventSets.addStateChange
  · rcases insertNo_length t e.stateChange with h | h
    · exact .inl (by rw [h])
    · exact .inr (by unfold EventSets.size; dsimp only; omega)
  · unfold EventSets.enabledNonempty
    simp only [insertNo_isEmpty, Bool.or_eq_true, Bool.and_eq_true]
    tauto

theorem EventSets.addCarrier_grown (c : CarrierNo) : e.Grown (e.addCarrier c) := by
  refine ⟨fun h => EventSets.addCarrier_ascending h c, ?_, fun n => ?_⟩ <;> unfold EventSets.addCarrier
  · rcases insertNo_length c e.carrier with h | h
    · exact .inl (by rw [h])
    · exact .inr (by unfold EventSets.size; dsimp only; omega)
  · unfold EventSets.enabledNonempty
    simp only [insertNo_isEmpty, Bool.or_eq_true, Bool.and_eq_true]
    tauto

theorem EventSets.addRangeFail_grown (t : TermNo) : e.Grown (e.addRangeFail t) := by
  refine ⟨fun h => EventSets.addRangeFail_ascending h t, ?_, fun n => ?_⟩ <;> unfold EventSets.addRangeFail
  · rcases insertNo_length t e.rangeFail with h | h
    · exact .inl (by rw [h])
    · exact .inr (by unfold EventSets.size; dsimp only; omega)
  · unfold EventSets.enabledNonempty
    simp only [insertNo_isEmpty, Bool.or_eq_true, Bool.and_eq_true]
    tauto

theorem EventSets.addStorm_grown (c : CarrierNo) : e.Grown (e.addStorm c) := by
  refine ⟨fun h => EventSets.addStorm_ascending h c, ?_, fun n => ?_⟩ <;> unfold EventSets.addStorm
  · rcases insertNo_length c e.storm with h | h
    · exact .inl (by rw [h])
    · exact .inr (by unfold EventSets.size; dsimp only; omega)
  · unfold EventSets.enabledNonempty
    simp only [insertNo_isEmpty, Bool.or_eq_true, Bool.and_eq_true]
    tauto

theorem EventSets.addListFull_grown (c : CarrierNo) : e.Grown (e.addListFull c) := by
  refine ⟨fun h => EventSets.addListFull_ascending h c, ?_, fun n => ?_⟩ <;> unfold EventSets.addListFull
  · rcases insertNo_length c e.listFull with h | h
    · exact .inl (by rw [h])
    · exact .inr (by unfold EventSets.size; dsimp only; omega)
  · unfold EventSets.enabledNonempty
    simp only [insertNo_isEmpty, Bool.or_eq_true, Bool.and_eq_true]
    tauto

theorem EventSets.addStoreLow_grown : e.Grown e.addStoreLow := by
  unfold EventSets.addStoreLow
  refine ⟨id, ?_, fun n => ?_⟩
  · cases h : e.storeLow with
    | false => exact .inr (by unfold EventSets.size; dsimp only; rw [h, Bool.toNat_false, Bool.toNat_true]; omega)
    | true => exact .inl (by rw [← h])
  · unfold EventSets.enabledNonempty
    simp only [Bool.or_eq_true, Bool.and_eq_true]
    tauto

theorem EventSets.addStoreExhausted_grown : e.Grown e.addStoreExhausted := by
  unfold EventSets.addStoreExhausted
  refine ⟨id, ?_, fun n => ?_⟩
  · cases h : e.storeExhausted with
    | false => exact .inr (by unfold EventSets.size; dsimp only; rw [h, Bool.toNat_false, Bool.toNat_true]; omega)
    | true => exact .inl (by rw [← h])
  · unfold EventSets.enabledNonempty
    simp only [Bool.or_eq_true, Bool.and_eq_true]
    tauto

end

/-! ### What changes no link state and no plan -/

/-- From `s` to `s'` configuration, settings, link states and plans are as they were, and event sets in ascending order stay so. -/
structure Sector.Calm (s s' : Sector) : Prop where
  cfg : ∀ t, (s'.term t).cfg = (s.term t).cfg
  settings : ∀ c, (s'.car c).cfg = (s.car c).cfg
  state : ∀ t, (s'.term t).link.state = (s.term t).link.state
  plan : ∀ c, (s'.car c).res.plan = (s.car c).res.plan
  grown : s.events.Grown s'.events

theorem Sector.Calm.rfl' (s : Sector) : s.Calm s := ⟨fun _ => rfl, fun _ => rfl, fun _ => rfl, fun _ => rfl, .rfl' _⟩

theorem Sector.Calm.trans {a b c : Sector} (h : a.Calm b) (g : b.Calm c) : a.Calm c where
  cfg t := (g.cfg t).trans (h.cfg t)
  settings x := (g.settings x).trans (h.settings x)
  state t := (g.state t).trans (h.state t)
  plan x := (g.plan x).trans (h.plan x)
  grown := h.grown.trans g.grown

theorem Sector.Calm.modTerm (s : Sector) (t : TermNo) (f : Terminal → Terminal) (hc : (f (s.term t)).cfg = (s.term t).cfg)
    (hs : (f (s.term t)).link.state = (s.term t).link.state) : s.Calm (s.modTerm t f) where
  cfg u := by
    rw [Sector.term_modTerm]; split
    · next h => rw [hc, h]
    · rfl
  settings _ := rfl
  state u := by
    rw [Sector.term_modTerm]; split
    · next h => rw [hs, h]
    · rfl
  plan _ := rfl
  grown := .rfl' _

theorem Sector.Calm.modCar (s : Sector) (c : CarrierNo) (f : Carrier → Carrier) (hc : (f (s.car c)).cfg = (s.car c).cfg)
    (hp : (f (s.car c)).res.plan = (s.car c).res.plan) : s.Calm (s.modCar c f) where
  cfg _ := rfl
  settings d := by
    rw [Sector.car_modCar]; split
    · next h => rw [hc, h]
    · rfl
  state _ := rfl
  plan d := by
    rw [Sector.car_modCar]; split
    · next h => rw [hp, h]
    · rfl
  grown := .rfl' _

theorem Sector.Calm.note (s : Sector) (f : EventSets → EventSets) (h : s.events.Grown (f s.events)) :
    s.Calm (s.note f) := ⟨fun _ => rfl, fun _ => rfl, fun _ => rfl, fun _ => rfl, h⟩

/-- A sector with the same records, carriers and event sets. -/
theorem Sector.Calm.same {s s' : Sector} (ht : s'.terms = s.terms) (hc : s'.cars = s.cars) (he : s'.events = s.events) : s.Calm s' := by
  have hterm (t : TermNo) : s'.term t = s.term t := by unfold Sector.term; rw [ht]
  have hcar (c : CarrierNo) : s'.car c = s.car c := by unfold Sector.car; rw [hc]
  exact ⟨fun t => by rw [hterm], fun c => by rw [hcar], fun t => by rw [hterm], fun c => by rw [hcar], he ▸ .rfl' _⟩

theorem Sector.Calm.countHfs (s : Sector) (f : HfsCounters → HfsCounters) : s.Calm (s.countHfs f) := .same rfl rfl rfl

theorem Sector.Calm.countRes (s : Sector) (c : CarrierNo) (f : ResCounters → ResCounters) : s.Calm (s.countRes c f) :=
  .modCar s c _ rfl rfl

theorem Sector.Calm.countRng (s : Sector) (c : CarrierNo) (f : RngCounters → RngCounters) : s.Calm (s.countRng c f) :=
  .modCar s c _ rfl rfl

theorem Sector.Calm.countPld (s : Sector) (f : PldCounters → PldCounters) : s.Calm (s.countPld f) := .same rfl rfl rfl

theorem Sector.Calm.handOut (s : Sector) (l : List MlOut) : s.Calm (s.handOut l) := .same rfl rfl rfl

theorem Sector.Calm.giveBack (s : Sector) (q : List HeldFrame) : s.Calm (s.giveBack q) := .same rfl rfl rfl

theorem Sector.Calm.foldl {α : Type} (f : Sector → α → Sector) (h : ∀ (s : Sector) (a : α), s.Calm (f s a)) (l : List α) (s : Sector) :
    s.Calm (l.foldl f s) := by
  induction l generalizing s with
  | nil => exact .rfl' s
  | cons a l ih => exact (h s a).trans (ih _)

theorem Sector.Calm.foldlPair {β : Type} (f : Sector × Nat → β → Sector × Nat)
    (h : ∀ (a : Sector × Nat) (x : β), a.1.Calm (f a x).1) (l : List β) (a : Sector × Nat) : a.1.Calm (l.foldl f a).1 := by
  induction l generalizing a with
  | nil => exact .rfl' a.1
  | cons x l ih => exact (h a x).trans (ih _)

theorem Sector.Calm.ite {s a b : Sector} {p : Prop} [Decidable p] (ha : s.Calm a) (hb : s.Calm b) : s.Calm (if p then a else b) := by
  split
  · exact ha
  · exact hb

section
variable {s a : Sector} (h : s.Calm a)
include h

theorem Sector.Calm.andTerm {t : TermNo} {f : Terminal → Terminal} (hc : (f (a.term t)).cfg = (a.term t).cfg)
    (hs : (f (a.term t)).link.state = (a.term t).link.state) : s.Calm (a.modTerm t f) := h.trans (.modTerm a t f hc hs)

theorem Sector.Calm.andCar {c : CarrierNo} {f : Carrier → Carrier} (hc : (f (a.car c)).cfg = (a.car c).cfg)
    (hp : (f (a.car c)).res.plan = (a.car c).res.plan) : s.Calm (a.modCar c f) := h.trans (.modCar a c f hc hp)

theorem Sector.Calm.andHfs (f : HfsCounters → HfsCounters) : s.Calm (a.countHfs f) := h.trans (.countHfs a f)

theorem Sector.Calm.andPld (f : PldCounters → PldCounters) : s.Calm (a.countPld f) := h.trans (.countPld a f)

end

theorem Sector.Calm.andState {s a before : Sector} {t : TermNo} (h : s.Calm a) : s.Calm (Sector.noteStateChange before a t) := by
  unfold Sector.noteStateChange
  exact .ite h (h.trans (.note a _ (EventSets.addStateChange_grown _ t)))

end Sys2Proof.Machine
end

section
/-! SUPPORT. What changes no link state and no plan (`Sector.Calm`), block by block. -/

namespace Sys2Proof.Machine

/-! ### The Held-Frame Store -/

theorem Sector.noteStoreLow_calm (s : Sector) (n : Nat) : s.Calm (s.noteStoreLow n) := by
  unfold Sector.noteStoreLow
  exact .ite (.trans (.ite (.countHfs _ _) (.rfl' _)) (.note _ _ (EventSets.addStoreLow_grown _))) (.rfl' _)

theorem Sector.appendFrame_calm (s : Sector) (t : TermNo) (bytes : List Byte) (a : FrameNo) : s.Calm (s.appendFrame t bytes a) := by
  unfold Sector.appendFrame
  have htaken : s.Calm { s with freeDescriptors := s.freeDescriptors - 1
                                freeBlocks := s.freeBlocks - blocksFor (frameLength bytes) } := .same rfl rfl rfl
  have hheld := htaken.trans (.modTerm _ t (fun r =>
    { r with hold := { r.hold with queue := r.hold.queue ++ [{ bytes := bytes, arrival := a, age := 0 }] } }) rfl rfl)
  exact .trans (.andHfs (hheld.andTerm rfl rfl) _) (Sector.noteStoreLow_calm _ _)

theorem Sector.arrivalQuota_calm (s : Sector) (t : TermNo) : s.Calm (s.arrivalQuota t) := .andHfs (.modTerm s t _ rfl rfl) _

theorem Sector.arrivalPool_calm (s : Sector) (t : TermNo) : s.Calm (s.arrivalPool t) :=
  .trans (.andHfs (.modTerm s t _ rfl rfl) _) (.note _ _ (EventSets.addStoreExhausted_grown _))

theorem Sector.dropOldestHead_calm (s : Sector) (t : TermNo) : s.Calm (s.dropOldestHead t) := by
  unfold Sector.dropOldestHead
  have h : s.Calm ((s.giveBack ((s.term t).hold.queue.take 1)).modHold t fun h => { h with queue := h.queue.drop 1 }) :=
    .andTerm (.giveBack s _) rfl rfl
  exact .ite (.andHfs (.andTerm h rfl rfl) _) (.andHfs (.andTerm h rfl rfl) _)

theorem Sector.makeRoom_calm (t : TermNo) (bytes : List Byte) (a : FrameNo) (n : Nat) (s : Sector) :
    s.Calm (s.makeRoom t bytes a n) := by
  induction n generalizing s with
  | zero => exact .ite (Sector.appendFrame_calm s t bytes a) (.andTerm (Sector.arrivalPool_calm s t) rfl rfl)
  | succ n ih => exact .ite (Sector.appendFrame_calm s t bytes a) ((Sector.dropOldestHead_calm s t).trans (ih _))

theorem Sector.offerFrame_calm (s : Sector) (t : TermNo) (bytes : List Byte) (a : FrameNo) : s.Calm (s.offerFrame t bytes a) := by
  unfold Sector.offerFrame
  refine .ite (Sector.arrivalQuota_calm s t) (.ite (Sector.appendFrame_calm s t bytes a) ?_)
  split
  · exact .ite (Sector.arrivalQuota_calm s t) (Sector.arrivalPool_calm s t)
  · exact Sector.makeRoom_calm t bytes a _ s

theorem Sector.emptyQueue_calm (s : Sector) (t : TermNo) : s.Calm (s.emptyQueue t) := by
  unfold Sector.emptyQueue
  exact .andTerm (.giveBack s _) rfl rfl

theorem Sector.flush_calm (s : Sector) (t : TermNo) : s.Calm (s.flush t) := by
  unfold Sector.flush
  exact .andHfs (.andTerm (Sector.emptyQueue_calm s t) rfl rfl) _

theorem Sector.discardHeldQueue_calm (s : Sector) (t : TermNo) : s.Calm (s.discardHeldQueue t) := by
  unfold Sector.discardHeldQueue
  exact .andHfs (.andTerm (Sector.emptyQueue_calm s t) rfl rfl) _

theorem Sector.ageDiscard_calm (s : Sector) (t : TermNo) : s.Calm (s.ageDiscard t) :=
  .ite (.rfl' s) (.andHfs (.andTerm (.andTerm (.giveBack s _) rfl rfl) rfl rfl) _)

theorem Sector.ageQueue_calm (s : Sector) (t : TermNo) : s.Calm (s.ageQueue t) :=
  .trans (.modTerm s t _ rfl rfl) (Sector.ageDiscard_calm _ t)

theorem Sector.takePauseFlag_calm (s : Sector) (t : TermNo) (x : Bool) : s.Calm (s.takePauseFlag t x) := by
  unfold Sector.takePauseFlag
  exact .modTerm s t _ rfl rfl

theorem Sector.releaseFrames_calm (s : Sector) (c : CarrierNo) (t : TermNo) (n : Nat) : s.Calm (s.releaseFrames c t n) :=
  .trans (.andHfs (.andTerm (.andTerm (.giveBack s _) rfl rfl) rfl rfl) _) (.handOut _ _)

theorem releaseVisit_calm (c : CarrierNo) (a : Sector × Nat) (t : TermNo) : a.1.Calm (releaseVisit c a t).1 := by
  unfold releaseVisit
  dsimp only
  split
  · split
    · exact .rfl' _
    · dsimp only
      exact .andCar (Sector.releaseFrames_calm _ c t _) rfl rfl
  · exact .rfl' _

theorem Sector.hfsFrame_calm (s : Sector) (c : CarrierNo) : s.Calm (s.hfsFrame c) :=
  .trans (.trans (.foldl _ Sector.ageQueue_calm _ s) (.foldl _ (fun x t => .modTerm x t _ rfl rfl) _ _))
    (.foldlPair (releaseVisit c) (releaseVisit_calm c) _ (_, _))

/-! ### The Profile Ladder -/

theorem Sector.makePending_calm (s : Sector) (t : TermNo) (p : ProfileNo) (d : Direction) : s.Calm (s.makePending t p d) := by
  unfold Sector.makePending
  exact .andTerm (.ite (.countPld s _) (.rfl' s)) rfl rfl

theorem Sector.applyPending_calm (s : Sector) (t : TermNo) (p : PendingProfile) : s.Calm (s.applyPending t p) := by
  unfold Sector.applyPending
  dsimp only
  split <;> exact .andPld (.andTerm (.modTerm s t _ rfl rfl) rfl rfl) _

theorem Sector.applyReached_calm (f : FrameNo) (s : Sector) (t : TermNo) : s.Calm (s.applyReached f t) := by
  unfold Sector.applyReached
  split
  · split
    · exact .ite (Sector.applyPending_calm s t _) (.rfl' s)
    · exact .rfl' s
  · exact .rfl' s

theorem Sector.setStepUp_calm (s : Sector) (t : TermNo) (n : Nat) : s.Calm (s.setStepUp t n) := by
  unfold Sector.setStepUp
  exact .modTerm s t _ rfl rfl

theorem Sector.judgeStepDown_calm (s : Sector) (t : TermNo) (m : Int) : s.Calm (s.judgeStepDown t m) := by
  have hz := Sector.setStepUp_calm s t 0
  have hp (p : ProfileNo) (f : PldCounters → PldCounters) : s.Calm (((s.setStepUp t 0).makePending t p .stepDown).countPld f) :=
    .andPld (hz.trans (Sector.makePending_calm _ t p .stepDown)) f
  unfold Sector.judgeStepDown
  refine .ite ?_ ?_
  · split
    · exact .ite (hz.andTerm rfl rfl) hz
    · exact hz
  · dsimp only
    split
    · exact .ite hz (hp _ _)
    · exact hp _ _

theorem Sector.judgeStepUp_calm (s : Sector) (t : TermNo) (m : Int) (x : Report) : s.Calm (s.judgeStepUp t m x) := by
  unfold Sector.judgeStepUp
  dsimp only
  split
  · exact Sector.setStepUp_calm s t 0
  · refine .ite (.ite (.andPld ?_ _) (Sector.setStepUp_calm s t _)) (Sector.setStepUp_calm s t 0)
    exact (Sector.setStepUp_calm s t 0).trans (Sector.makePending_calm _ t _ _)

theorem Sector.ladderDecision_calm (s : Sector) (t : TermNo) (x : Report) : s.Calm (s.ladderDecision t x) :=
  .ite (Sector.judgeStepDown_calm s t _) (.ite (.rfl' s) (Sector.judgeStepUp_calm s t _ x))

theorem Sector.completeReport_calm (s : Sector) (t : TermNo) (x : Report) : s.Calm (s.completeReport t x) := by
  unfold Sector.completeReport
  have h : s.Calm ((s.modLadder t fun l => { l with assembly := [], report := some x }).countPld
    fun k => { k with reportsCompleted := k.reportsCompleted + 1 }) := .andPld (.modTerm s t _ rfl rfl) _
  exact .ite (h.trans (Sector.ladderDecision_calm _ t x)) h

theorem Sector.breakAssembly_calm (s : Sector) (t : TermNo) : s.Calm (s.breakAssembly t) :=
  .ite (.rfl' s) (.andPld (.andTerm (.modTerm s t _ rfl rfl) rfl rfl) _)

theorem Sector.takeFragment_calm (s : Sector) (t : TermNo) (x : Fragment) : s.Calm (s.takeFragment t x) := by
  unfold Sector.takeFragment
  refine .ite (.andTerm (Sector.breakAssembly_calm s t) rfl rfl) ?_
  split
  · exact .countPld s _
  · exact Sector.completeReport_calm s t _
  · exact .modTerm s t _ rfl rfl

theorem Sector.takeSnr_calm (s : Sector) (t : TermNo) (n : Nat) : s.Calm (s.takeSnr t n) := by
  unfold Sector.takeSnr
  exact .modTerm s t _ rfl rfl

theorem Sector.fadeStepDown_calm (s : Sector) (t : TermNo) : s.Calm (s.fadeStepDown t) := by
  have hp (p : ProfileNo) (f : PldCounters → PldCounters) : s.Calm ((s.makePending t p .stepDown).countPld f) :=
    .andPld (Sector.makePending_calm s t p .stepDown) f
  unfold Sector.fadeStepDown
  dsimp only
  split
  · exact .rfl' s
  · split
    · exact .ite (.rfl' s) (hp _ _)
    · exact hp _ _

/-! ### Slots, grants, cells -/

theorem Carrier.foldl_setSlot_res (f : Carrier → SlotNo → SlotUse) (l : List SlotNo) (k : Carrier) :
    (l.foldl (fun x y => x.setSlot y (f x y)) k).res = k.res := by
  induction l generalizing k with
  | nil => rfl
  | cons y l ih => exact ih _

theorem Carrier.foldl_setCell_res (r : FrameNo) (z : Cell) (l : List SlotNo) (k : Carrier) :
    (l.foldl (fun x y => x.setCell r y z) k).res = k.res := by
  induction l generalizing k with
  | nil => rfl
  | cons y l ih => exact ih _

theorem Sector.mapSlots_calm (s : Sector) (c : CarrierNo) (f : SlotUse → SlotUse) (l : List SlotNo) :
    s.Calm (s.modCar c fun k => k.mapSlots f l) := by
  obtain ⟨hc, -⟩ := Carrier.foldl_setSlot (fun x y => f (x.slotUse y)) l (s.car c)
  exact .modCar s c _ hc (congrArg Scheduler.plan (Carrier.foldl_setSlot_res (fun x y => f (x.slotUse y)) l (s.car c)))

theorem Sector.lend_calm (s : Sector) (t : TermNo) : s.Calm (s.lend t) := Sector.mapSlots_calm s _ _ _

theorem Sector.lendingCheck_calm (s : Sector) (t : TermNo) : s.Calm (s.lendingCheck t) := .ite (Sector.lend_calm s t) (.rfl' s)

theorem Sector.startReclaim_calm (s : Sector) (t : TermNo) : s.Calm (s.startReclaim t) := by
  unfold Sector.startReclaim
  exact .andTerm (Sector.mapSlots_calm s _ _ _) rfl rfl

theorem Sector.stopReclaim_calm (s : Sector) (t : TermNo) : s.Calm (s.stopReclaim t) := by
  unfold Sector.stopReclaim
  exact .andTerm (Sector.mapSlots_calm s _ _ _) rfl rfl

theorem Sector.clearGrant_calm (s : Sector) (c : CarrierNo) (t : TermNo) (g : GrantRef) :
    s.Calm (s.modCar c fun k => k.clearGrant t g) := by
  obtain h | h := Carrier.clearGrant_eq (s.car c) t g
  · exact .modCar s c _ (by rw [h]) (by rw [h])
  · exact .modCar s c _ (by rw [h]; rfl) (by rw [h]; rfl)

theorem Sector.withdraw_calm (s : Sector) (t : TermNo) : s.Calm (s.withdraw t) := by
  unfold Sector.withdraw
  split
  · exact .rfl' s
  · exact .andCar (.andTerm (Sector.clearGrant_calm s _ _ _) rfl rfl) rfl rfl

theorem Sector.refund_calm (c : CarrierNo) (x : SlotNo) (s : Sector) (g : FrameNo × TermNo) : s.Calm (s.refund c x g) := by
  have h : s.Calm (s.countRes c fun k => { k with grantsRefunded := k.grantsRefunded + 1 }) := .modCar s c _ rfl rfl
  exact .ite (h.andTerm rfl rfl) h

theorem Sector.takeSlot_calm (c : CarrierNo) (t : TermNo) (s : Sector) (x : SlotNo) : s.Calm (s.takeSlot c t x) :=
  .trans (.modCar s c _ rfl rfl) (.foldl _ (Sector.refund_calm c x) _ _)

theorem Sector.forcedTake_calm (s : Sector) (t : TermNo) : s.Calm (s.forcedTake t) := by
  unfold Sector.forcedTake
  exact .andTerm (.foldl _ (Sector.takeSlot_calm _ t) _ s) rfl rfl

theorem Sector.clearCalendar_calm (s : Sector) (c : CarrierNo) : s.Calm (s.clearCalendar c) :=
  .trans (.modCar s c _ rfl rfl) (.foldl _ (fun x t => .ite (.modTerm x t _ rfl rfl) (.rfl' x)) _ _)

theorem Sector.examineAdmission_calm (s : Sector) (t : TermNo) : s.Calm (s.examineAdmission t) :=
  .ite (.modTerm s t _ rfl rfl) (.rfl' s)

theorem Sector.permitTerm_calm (s : Sector) (t : TermNo) : s.Calm (s.permitTerm t) :=
  .trans (.modTerm s t _ rfl rfl) (Sector.examineAdmission_calm _ t)

theorem Sector.setCause_calm (s : Sector) (t : TermNo) (x : Cause) : s.Calm (s.setCause t x) := by
  unfold Sector.setCause
  exact .modTerm s t _ rfl rfl

theorem Sector.oweHalt_calm (s : Sector) (t : TermNo) : s.Calm (s.oweHalt t) := by
  unfold Sector.oweHalt
  exact .modTerm s t _ rfl rfl

theorem Sector.oweHaltFrom_calm (s : Sector) (t : TermNo) (old : LinkState) : s.Calm (s.oweHaltFrom t old) :=
  .ite (Sector.oweHalt_calm s t) (.rfl' s)

theorem Sector.suppress_calm (s : Sector) (t : TermNo) : s.Calm (s.suppress t) := by
  unfold Sector.suppress
  exact .modTerm s t _ rfl rfl

theorem Sector.fixProfiles_calm (s : Sector) (t : TermNo) : s.Calm (s.fixProfiles t) := by
  unfold Sector.fixProfiles
  dsimp only
  split <;> exact .ite (.modTerm s t _ rfl rfl) (.andTerm (.modTerm s t _ rfl rfl) rfl rfl)

/-! ### Counts at a frame start -/

theorem Sector.lendCompare_calm (s : Sector) (t : TermNo) : s.Calm (s.lendCompare t) := by
  have h : s.Calm (s.modLink t fun l => { l with lendTaken := true }) := .modTerm s t _ rfl rfl
  unfold Sector.lendCompare
  refine .ite ?_ (.rfl' s)
  dsimp only
  split
  case h_1 | h_2 | h_3 | h_4 => exact h.trans (Sector.lend_calm _ t)
  all_goals exact h

theorem Sector.warmCompare_calm (s : Sector) (t : TermNo) : s.Calm (s.warmCompare t) := .ite (.modTerm s t _ rfl rfl) (.rfl' s)

theorem LinkFields.outageTick_state (l : LinkFields) : l.outageTick.state = l.state := by
  unfold LinkFields.outageTick; split <;> rfl

theorem LinkFields.fadeTick_state (l : LinkFields) : l.fadeTick.state = l.state := by
  unfold LinkFields.fadeTick; split <;> rfl

theorem LinkFields.guardTick_state (l : LinkFields) : l.guardTick.state = l.state := by
  unfold LinkFields.guardTick; split <;> rfl

theorem Terminal.admitTick_link (r : Terminal) : r.admitTick.link = r.link := by
  unfold Terminal.admitTick; split <;> rfl

theorem Terminal.settleEnd_link (r : Terminal) : r.settleEnd.link = r.link := by
  unfold Terminal.settleEnd; split <;> rfl

theorem Terminal.settleTick_link (r : Terminal) : r.settleTick.link = r.link := by
  unfold Terminal.settleTick; split
  · rfl
  · exact r.settleEnd_link

theorem Sector.settleEnd_calm (s : Sector) (t : TermNo) : s.Calm (s.modTerm t Terminal.settleEnd) :=
  .modTerm s t _ (Terminal.settleEnd_cfg _) (congrArg LinkFields.state (Terminal.settleEnd_link _))

theorem Sector.rngFrame_calm (s : Sector) (c : CarrierNo) : s.Calm (s.rngFrame c) :=
  .foldl _ (fun x t => .modTerm x t _ (Terminal.settleTick_cfg _) (congrArg LinkFields.state (Terminal.settleTick_link _))) _ s

theorem Sector.pldFrame_calm (s : Sector) (c : CarrierNo) (f : FrameNo) : s.Calm (s.pldFrame c f) :=
  .foldl _ (Sector.applyReached_calm f) _ s

/-! ### The Ranging Unit -/

theorem Sector.fallBack_calm (s : Sector) (c : CarrierNo) (t : TermNo) : s.Calm (s.fallBack c t) :=
  .ite (.andCar (.modTerm s t _ rfl rfl) rfl rfl) (.rfl' s)

theorem Sector.staleOutcome_calm (s : Sector) (c : CarrierNo) (t : TermNo) (o : TrimOutcome) : s.Calm (s.staleOutcome c t o) := by
  unfold Sector.staleOutcome
  split
  · have h : s.Calm (s.countRng c fun k => { k with lateTrims := k.lateTrims + 1 }) := .modCar s c _ rfl rfl
    exact .ite (h.andTerm rfl rfl) h
  · exact .modCar s c _ rfl rfl

theorem Sector.unsentOutcome_calm (s : Sector) (c : CarrierNo) (t : TermNo) : s.Calm (s.unsentOutcome c t) := by
  unfold Sector.unsentOutcome
  exact .andCar (.modTerm s t _ rfl rfl) rfl rfl

/-! ### The Re-entry Scheduler -/

theorem Sector.offerOutcome_calm (s : Sector) (c : CarrierNo) (x : OfferOutcome) : s.Calm (s.offerOutcome c x) := by
  unfold Sector.offerOutcome
  exact .modCar s c _ rfl rfl

theorem Sector.quietOffer_calm (s : Sector) (c : CarrierNo) : s.Calm (s.quietOffer c) := by
  unfold Sector.quietOffer
  exact .andCar (Sector.offerOutcome_calm s c _) rfl rfl

theorem Sector.collision_calm (s : Sector) (c : CarrierNo) : s.Calm (s.collision c) := by
  unfold Sector.collision
  exact .andCar (Sector.offerOutcome_calm s c _) rfl rfl

theorem Sector.backoff_calm (s : Sector) (c : CarrierNo) : s.Calm (s.backoff c) := by
  have h (e : Nat) : s.Calm (s.modRes c fun q => { q with exponent := e }) := .modCar s c _ rfl rfl
  unfold Sector.backoff
  refine .ite (.ite (.trans ((h _).andCar rfl rfl) (.note _ _ (EventSets.addStorm_grown _ c))) (h _)) (.rfl' s)

theorem Sector.grantTo_calm (s : Sector) (c : CarrierNo) (r : FrameNo) (t : TermNo) (x : SlotNo) : s.Calm (s.grantTo c r t x) := by
  unfold Sector.grantTo
  exact .andCar (.andTerm (.modCar s c _ rfl rfl) rfl rfl) rfl rfl

theorem grantMember_calm (c : CarrierNo) (r : FrameNo) (a : Sector × Nat) (t : TermNo) : a.1.Calm (grantMember c r a t).1 := by
  unfold grantMember
  split
  · exact .rfl' _
  · split
    · split
      · exact .rfl' _
      · dsimp only
        exact .andCar (Sector.grantTo_calm a.1 c r t _) rfl rfl
    · exact .rfl' _

theorem Sector.setLastProfile_calm (s : Sector) (c : CarrierNo) (t : TermNo) (p : ProfileNo) :
    s.Calm (s.modRes c (Scheduler.setLastProfile t p)) := by
  refine .modCar s c _ rfl ?_
  unfold Scheduler.plan Scheduler.setLastProfile
  dsimp only
  rw [List.map_map]
  refine congrArg (·, _) (List.map_congr_left fun e _ => ?_)
  dsimp only [Function.comp]
  split <;> rfl

/-! ### The Carrier Controller -/

theorem Sector.setCarrierState_calm (s : Sector) (c : CarrierNo) (x : CarrierState) : s.Calm (s.setCarrierState c x) := by
  have h : s.Calm (s.modCar c fun k => { k with state := x }) := .modCar s c _ rfl rfl
  exact .ite h (h.trans (.note _ _ (EventSets.addCarrier_grown _ c)))

theorem Sector.recoveryEnd_calm (s : Sector) (c : CarrierNo) : s.Calm (s.recoveryEnd c) :=
  .ite (Sector.setCarrierState_calm s c _) (.rfl' s)

theorem Sector.recoveryFrame_calm (s : Sector) (c : CarrierNo) : s.Calm (s.recoveryFrame c) :=
  .ite (.trans (.modCar s c _ rfl rfl) (Sector.recoveryEnd_calm _ c)) (.rfl' s)

theorem Sector.carrierFound_calm (s : Sector) (c : CarrierNo) : s.Calm (s.carrierFound c) := by
  have h : s.Calm (s.countCsp c fun k => { k with carrierFound := k.carrierFound + 1 }) := .modCar s c _ rfl rfl
  exact .ite (.andCar (h.trans (Sector.setCarrierState_calm _ c _)) rfl rfl) h

theorem Sector.reclaimSlot_calm (c : CarrierNo) (s : Sector) (x : SlotNo) : s.Calm (s.reclaimSlot c x) := by
  unfold Sector.reclaimSlot
  split
  · exact .ite (.trans (.andTerm (.modCar s c _ rfl rfl) rfl rfl) (Sector.examineAdmission_calm _ _)) (.rfl' s)
  all_goals exact .rfl' s

theorem Sector.stray_calm (s : Sector) (c : CarrierNo) (o : SlotResult) : s.Calm (s.stray c o) := by
  unfold Sector.stray
  exact .modCar s c _ rfl rfl

/-! ### The Directive Composer -/

theorem Sector.sendHalt_calm (s : Sector) (c : CarrierNo) (t : TermNo) : s.Calm (s.sendHalt c t).1 := by
  unfold Sector.sendHalt
  dsimp only
  exact .andCar (.modTerm s t _ rfl rfl) rfl rfl

theorem Sector.sendAdmission_calm (s : Sector) (c : CarrierNo) (g : FrameNo) (t : TermNo) : s.Calm (s.sendAdmission c g t).1 := by
  unfold Sector.sendAdmission
  dsimp only
  exact .andCar (.modTerm s t _ rfl rfl) rfl rfl

theorem Sector.sendProfile_calm (s : Sector) (c : CarrierNo) (g : FrameNo) (t : TermNo) (p : PendingProfile) :
    s.Calm (s.sendProfile c g t p).1 := by
  unfold Sector.sendProfile
  dsimp only
  exact .andCar (.modTerm s t _ rfl rfl) rfl rfl

theorem Sector.sendGrant_calm (s : Sector) (c : CarrierNo) (t : TermNo) (x : GrantRef) : s.Calm (s.sendGrant c t x).1 := by
  unfold Sector.sendGrant
  dsimp only
  exact .andCar (.modTerm s t _ rfl rfl) rfl rfl

theorem Draft.place_calm (d : Draft) (c : CarrierNo) (k : Rank) (t : TermNo) {x : Sector × Directive} (h : d.sector.Calm x.1) :
    d.sector.Calm (d.place c k t x).sector := by
  unfold Draft.place
  split
  · exact .rfl' _
  · dsimp only
    exact .andCar h rfl rfl

theorem Draft.reach_calm (c : CarrierNo) (g : FrameNo) (k : Rank) (d : Draft) (t : TermNo) :
    d.sector.Calm (d.reach c g k t).sector := by
  have hprofile (k : Rank) (p : PendingProfile) := d.place_calm c k t (Sector.sendProfile_calm d.sector c g t p)
  unfold Draft.reach
  split
  · exact .rfl' _
  · split
    · cases k with
      | halt => exact d.place_calm c _ t (Sector.sendHalt_calm _ c t)
      | admission => exact d.place_calm c _ t (Sector.sendAdmission_calm _ c g t)
      | stepDown => dsimp only; split <;> [exact hprofile _ _; exact .rfl' _]
      | stepUp => dsimp only; split <;> [exact hprofile _ _; exact .rfl' _]
      | grant =>
        dsimp only
        split
        · unfold Draft.judgeGrant
          split
          · split
            · exact .rfl' _
            · exact d.place_calm c _ t (Sector.sendGrant_calm _ c t _)
          · dsimp only
            exact .andCar (Sector.withdraw_calm _ t) rfl rfl
        · exact .rfl' _
    · exact .rfl' _

theorem Draft.foldl_calm {α : Type} (f : Draft → α → Draft) (h : ∀ (d : Draft) (x : α), d.sector.Calm (f d x).sector) (l : List α)
    (d : Draft) : d.sector.Calm (l.foldl f d).sector := by
  induction l generalizing d with
  | nil => exact .rfl' _
  | cons x l ih => exact (h d x).trans (ih _)

theorem Draft.rank_calm (c : CarrierNo) (g : FrameNo) (d : Draft) (k : Rank) : d.sector.Calm (d.rank c g k).sector :=
  Draft.foldl_calm _ (Draft.reach_calm c g k) _ d

theorem Sector.noteFull_calm (s : Sector) (c : CarrierNo) : s.Calm (s.noteFull c) := by
  unfold Sector.noteFull
  exact .trans (.modCar s c _ rfl rfl) (.note _ _ (EventSets.addListFull_grown _ c))

theorem Sector.compose_calm (s : Sector) (c : CarrierNo) (g : FrameNo) : s.Calm (s.compose c g).1 := by
  unfold Sector.compose
  have h := Draft.foldl_calm _ (Draft.rank_calm c g) allRanks { sector := s, body := [], want := false }
  generalize allRanks.foldl (Draft.rank c g) { sector := s, body := [], want := false } = d at h ⊢
  have hl : s.Calm (d.sector.withdrawLeft c) := h.trans (.foldl _ Sector.withdraw_calm _ _)
  exact .ite (hl.trans (Sector.noteFull_calm _ c)) hl

theorem Sector.listClose_calm (s : Sector) (c : CarrierNo) (g : FrameNo) : s.Calm (s.listClose c g) := by
  have h : s.Calm (s.countDcp c fun n => { n with listCloses := n.listCloses + 1 }) := .modCar s c _ rfl rfl
  exact .ite (.trans (h.trans (Sector.compose_calm _ c g)) (.handOut _ _)) (.trans (h.andCar rfl rfl) (.handOut _ _))

end Sys2Proof.Machine
end

section
/-! SUPPORT. What the link supervisor's moves make of the schedules (R34 to R43, R90 to R92): a terminal that leaves its state
leaves the queue and the set, and one that enters CALLED joins the queue. -/

namespace Sys2Proof.Machine

/-! ### The schedules of given link states -/

/-- Every carrier's queue and set are as they ought to be were `x` the terminals' link states (R17, R90 to R92). -/
structure Sector.PlannedAs (s : Sector) (x : TermNo → LinkState) : Prop where
  planned : ∀ c, (s.car c).res.Planned (s.car c).cfg.rangingSize (fun t => (s.term t).cfg.cls)
    (fun t => s.bound c t = true ∧ x t = .called) (fun t => s.bound c t = true ∧ x t = .trimming)
  spare : ∀ t, (s.term t).cfg.configured = false → x t = .held

/-- The link states of the terminals. -/
def Sector.states (s : Sector) (t : TermNo) : LinkState := (s.term t).link.state

theorem Sector.allScheduled_iff (s : Sector) : s.allScheduled ↔ s.PlannedAs s.states := by
  constructor
  · rintro ⟨h, hspare⟩
    exact ⟨fun c => (Sector.scheduled_iff s c).1 (h c), hspare⟩
  · rintro ⟨h, hspare⟩
    exact ⟨fun c => (Sector.scheduled_iff s c).2 (h c), hspare⟩

/-- The schedules are right but for `t`, which is configured and stands in no queue and no set. -/
structure Sector.OutOf (s : Sector) (t : TermNo) : Prop where
  configured : (s.term t).cfg.configured = true
  planned : s.PlannedAs (Function.update s.states t .dark)

/-- A state in which a terminal waits for a grant of the scheduler: CALLED or TRIMMING. -/
def LinkState.waits (x : LinkState) : Prop := x = .called ∨ x = .trimming

/-- The schedules stay right where link states change only among those that do not wait, at configured terminals. -/
theorem Sector.PlannedAs.congr {s s' : Sector} {x y : TermNo → LinkState} (h : s.PlannedAs x)
    (hc : ∀ t, (s'.term t).cfg = (s.term t).cfg) (hk : ∀ c, (s'.car c).cfg = (s.car c).cfg)
    (hp : ∀ c, (s'.car c).res.plan = (s.car c).res.plan)
    (hx : ∀ t, y t = x t ∨ (s.term t).cfg.configured = true ∧ ¬ (x t).waits ∧ ¬ (y t).waits) : s'.PlannedAs y := by
  have hbound (c : CarrierNo) (t : TermNo) : s'.bound c t = s.bound c t := by unfold Sector.bound; rw [hc]
  constructor
  · intro c
    refine ((h.planned c).of_plan (hp c)).congr (hk c ▸ (h.planned c).size) (fun t _ => by rw [hc]) (fun t => ?_) fun t => ?_
    all_goals
      rw [hbound]
      refine and_congr_right fun _ => ?_
      obtain he | ⟨-, hn, hn'⟩ := hx t
      · rw [he]
      · unfold LinkState.waits at hn hn'
        simp only [not_or] at hn hn'
        simp only [hn, hn']
  · intro t ht
    rw [hc] at ht
    obtain he | ⟨hconf, -⟩ := hx t
    · rw [he]; exact h.spare t ht
    · rw [ht] at hconf; cases hconf

/-- Schedules right but for `t` are right when `t` does not wait. -/
theorem Sector.OutOf.allScheduled {s : Sector} {t : TermNo} (h : s.OutOf t) (ht : ¬ (s.term t).link.state.waits) : s.allScheduled := by
  rw [Sector.allScheduled_iff]
  refine h.planned.congr (fun _ => rfl) (fun _ => rfl) (fun _ => rfl) fun u => ?_
  by_cases hu : u = t
  · subst hu
    rw [Function.update_self]
    exact .inr ⟨h.configured, by unfold LinkState.waits; decide, ht⟩
  · exact .inl (Function.update_of_ne hu _ _).symm

/-- The schedules are right for all but `t` when they are right and `t` does not wait. -/
theorem Sector.OutOf.of_scheduled {s : Sector} {t : TermNo} (h : s.allScheduled) (hc : (s.term t).cfg.configured = true)
    (ht : ¬ (s.term t).link.state.waits) : s.OutOf t := by
  rw [Sector.allScheduled_iff] at h
  refine ⟨hc, h.congr (fun _ => rfl) (fun _ => rfl) (fun _ => rfl) fun u => ?_⟩
  by_cases hu : u = t
  · subst hu
    rw [Function.update_self]
    exact .inr ⟨hc, ht, by unfold LinkState.waits; decide⟩
  · exact .inl (Function.update_of_ne hu _ _)

/-! ### Operations that keep the schedules right -/

/-- From `s` to `s'` the event sets were at most added to, and schedules that are right stay so. -/
structure Sector.Lawful (s s' : Sector) : Prop where
  grown : s.events.Grown s'.events
  scheduled : s.allScheduled → s'.allScheduled

theorem Sector.Lawful.rfl' (s : Sector) : s.Lawful s := ⟨.rfl' _, id⟩

theorem Sector.Lawful.trans {a b c : Sector} (h : a.Lawful b) (g : b.Lawful c) : a.Lawful c :=
  ⟨h.grown.trans g.grown, fun x => g.scheduled (h.scheduled x)⟩

theorem Sector.Lawful.ite {s a b : Sector} {p : Prop} [Decidable p] (ha : s.Lawful a) (hb : s.Lawful b) :
    s.Lawful (if p then a else b) := by
  split
  · exact ha
  · exact hb

theorem Sector.Lawful.foldl {α : Type} {f : Sector → α → Sector} (h : ∀ (s : Sector) (a : α), s.Lawful (f s a)) (l : List α)
    (s : Sector) : s.Lawful (l.foldl f s) := by
  induction l generalizing s with
  | nil => exact .rfl' s
  | cons a l ih => exact (h s a).trans (ih _)

theorem Sector.Calm.lawful {s s' : Sector} (h : s.Calm s') : s.Lawful s' := by
  refine ⟨h.grown, fun hs => ?_⟩
  rw [Sector.allScheduled_iff] at hs ⊢
  exact hs.congr h.cfg h.settings h.plan fun t => .inl (h.state t)

/-! ### One terminal's link state set -/

/-- From `s` to `s'` terminal `t` alone changes its link state, to `x`; configuration, settings and plans stay. -/
structure Sector.Sets (t : TermNo) (x : LinkState) (s s' : Sector) : Prop where
  cfg : ∀ u, (s'.term u).cfg = (s.term u).cfg
  settings : ∀ c, (s'.car c).cfg = (s.car c).cfg
  plan : ∀ c, (s'.car c).res.plan = (s.car c).res.plan
  grown : s.events.Grown s'.events
  states : s'.states = Function.update s.states t x

theorem Sector.Calm.states {s s' : Sector} (h : s.Calm s') : s'.states = s.states := funext h.state

theorem Sector.Sets.modTerm (s : Sector) {t : TermNo} {f : Terminal → Terminal} {x : LinkState}
    (hc : (f (s.term t)).cfg = (s.term t).cfg) (hx : (f (s.term t)).link.state = x) : Sector.Sets t x s (s.modTerm t f) where
  cfg u := by
    rw [Sector.term_modTerm]; split
    · next h => rw [hc, h]
    · rfl
  settings _ := rfl
  plan _ := rfl
  grown := .rfl' _
  states := by
    funext u
    unfold Sector.states
    rw [Sector.term_modTerm]
    split
    · next h => rw [h, Function.update_self, hx]
    · next h => rw [Function.update_of_ne h]

section
variable {t : TermNo} {x y : LinkState} {a b c : Sector}

theorem Sector.Sets.calm (h : Sector.Sets t x a b) (g : b.Calm c) : Sector.Sets t x a c where
  cfg u := (g.cfg u).trans (h.cfg u)
  settings u := (g.settings u).trans (h.settings u)
  plan u := (g.plan u).trans (h.plan u)
  grown := h.grown.trans g.grown
  states := g.states.trans h.states

theorem Sector.Calm.sets (h : a.Calm b) (g : Sector.Sets t x b c) : Sector.Sets t x a c where
  cfg u := (g.cfg u).trans (h.cfg u)
  settings u := (g.settings u).trans (h.settings u)
  plan u := (g.plan u).trans (h.plan u)
  grown := h.grown.trans g.grown
  states := by rw [g.states, h.states]

theorem Sector.Sets.trans (h : Sector.Sets t x a b) (g : Sector.Sets t y b c) : Sector.Sets t y a c where
  cfg u := (g.cfg u).trans (h.cfg u)
  settings u := (g.settings u).trans (h.settings u)
  plan u := (g.plan u).trans (h.plan u)
  grown := h.grown.trans g.grown
  states := by rw [g.states, h.states, Function.update_idem]

theorem Sector.Sets.state (h : Sector.Sets t x a b) : (b.term t).link.state = x :=
  (congrFun h.states t).trans (Function.update_self ..)

theorem Sector.Sets.outOf (h : Sector.Sets t x a b) (ha : a.OutOf t) : b.OutOf t := by
  refine ⟨(congrArg TermConfig.configured (h.cfg t)).trans ha.configured, ?_⟩
  rw [h.states, Function.update_idem]
  exact ha.planned.congr h.cfg h.settings h.plan fun _ => .inl rfl

theorem Sector.Calm.outOf (h : a.Calm b) (ha : a.OutOf t) : b.OutOf t := by
  refine ⟨(congrArg TermConfig.configured (h.cfg t)).trans ha.configured, ?_⟩
  rw [h.states]
  exact ha.planned.congr h.cfg h.settings h.plan fun _ => .inl rfl

end

/-! ### Leaving a state (R36) -/

/-- Terminal `t` is configured, or is not HELD. -/
def Sector.Live (s : Sector) (t : TermNo) : Prop := (s.term t).cfg.configured = true ∨ (s.term t).link.state ≠ .held

theorem Sector.Live.configured {s : Sector} {t : TermNo} (h : s.Live t) (hs : s.allScheduled) : (s.term t).cfg.configured = true := by
  obtain h | h := h
  · exact h
  · by_contra hc
    exact h (hs.2 t (Bool.eq_false_iff.2 hc))

/-- From `s` to `a` terminal `t` is taken out of the schedules. -/
structure Sector.Leaves (t : TermNo) (s a : Sector) : Prop where
  grown : s.events.Grown a.events
  outOf : s.allScheduled → s.Live t → a.OutOf t

section
variable {t : TermNo} {x : LinkState} {s a b : Sector}

theorem Sector.Leaves.calm (h : Sector.Leaves t s a) (g : a.Calm b) : Sector.Leaves t s b :=
  ⟨h.grown.trans g.grown, fun hs hl => g.outOf (h.outOf hs hl)⟩

theorem Sector.Leaves.sets (h : Sector.Leaves t s a) (g : Sector.Sets t x a b) : Sector.Leaves t s b :=
  ⟨h.grown.trans g.grown, fun hs hl => g.outOf (h.outOf hs hl)⟩

theorem Sector.Calm.leaves (h : s.Calm a) (g : Sector.Leaves t a b) : Sector.Leaves t s b where
  grown := h.grown.trans g.grown
  outOf hs hl := g.outOf (h.lawful.scheduled hs) (by unfold Sector.Live; rw [h.cfg, h.state]; exact hl)

/-- A terminal that leaves and enters a state in which it does not wait. -/
theorem Sector.Leaves.enters (h : Sector.Leaves t s a) (g : Sector.Sets t x a b) (hl : s.Live t) (hx : ¬ x.waits) : s.Lawful b :=
  ⟨h.grown.trans g.grown, fun hs => (g.outOf (h.outOf hs hl)).allScheduled (g.state ▸ hx)⟩

theorem Sector.Leaves.of_idle (hs : s.Calm a) (hw : ¬ (s.term t).link.state.waits) : Sector.Leaves t s a :=
  ⟨hs.grown, fun h hl => hs.outOf (.of_scheduled h (hl.configured h) hw)⟩

end

/-- A change of the scheduler of carrier `c`. -/
theorem Sector.car_modRes (s : Sector) (c d : CarrierNo) (f : Scheduler → Scheduler) :
    ((s.modRes c f).car d).res = if d = c then f (s.car c).res else (s.car d).res := by
  rw [Sector.modRes_def, Sector.car_modCar]
  split <;> rfl

theorem Sector.settings_modRes (s : Sector) (c d : CarrierNo) (f : Scheduler → Scheduler) :
    ((s.modRes c f).car d).cfg = (s.car d).cfg := by
  rw [Sector.modRes_def, Sector.car_modCar]
  split
  · next h => rw [h]
  · rfl

theorem Sector.term_modRes (s : Sector) (c : CarrierNo) (f : Scheduler → Scheduler) (t : TermNo) :
    (s.modRes c f).term t = s.term t := rfl

/-- A change of one carrier's scheduler sets the schedules to other link states, those of terminals bound elsewhere excepted. -/
theorem Sector.PlannedAs.modRes {s : Sector} {x y : TermNo → LinkState} {c : CarrierNo} {f : Scheduler → Scheduler}
    (h : s.PlannedAs x)
    (hf : (f (s.car c).res).Planned (s.car c).cfg.rangingSize (fun t => (s.term t).cfg.cls)
      (fun t => s.bound c t = true ∧ y t = .called) (fun t => s.bound c t = true ∧ y t = .trimming))
    (hother : ∀ t, s.bound c t = false → y t = x t) : (s.modRes c f).PlannedAs y := by
  have hbound (d : CarrierNo) (t : TermNo) : (s.modRes c f).bound d t = s.bound d t := rfl
  constructor
  · intro d
    rw [Sector.car_modRes, Sector.settings_modRes]
    simp only [Sector.term_modRes, hbound]
    split
    · next hd => subst hd; exact hf
    · next hd =>
      have hy (t : TermNo) (ht : s.bound d t = true) : y t = x t := by
        refine hother t (Bool.eq_false_iff.2 fun hc => hd ?_)
        unfold Sector.bound at ht hc
        simp only [Bool.and_eq_true, decide_eq_true_eq] at ht hc
        exact ht.2.symm.trans hc.2
      refine (h.planned d).congr (h.planned d).size (fun _ _ => rfl) (fun t => and_congr_right fun ht => ?_)
        fun t => and_congr_right fun ht => ?_ <;> rw [hy t ht]
  · intro t ht
    have hb : s.bound c t = false := by
      unfold Sector.bound
      rw [show (s.term t).cfg.configured = false from ht]
      rfl
    rw [hother t hb]
    exact h.spare t ht

theorem Sector.bound_carrierOf {s : Sector} {t : TermNo} (h : (s.term t).cfg.configured = true) :
    s.bound (s.carrierOf t) t = true := by
  unfold Sector.bound Sector.carrierOf
  rw [h]
  exact decide_eq_true rfl

theorem Sector.update_of_unbound {s : Sector} {t u : TermNo} {x : TermNo → LinkState} {y : LinkState}
    (h : (s.term t).cfg.configured = true) (hu : s.bound (s.carrierOf t) u = false) : Function.update x t y u = x u := by
  refine Function.update_of_ne (fun he => ?_) _ _
  rw [he, Sector.bound_carrierOf h] at hu
  cases hu

theorem Sector.leaveQueue_leaves {s : Sector} {t : TermNo} (hst : (s.term t).link.state = .called) :
    Sector.Leaves t s (s.leaveQueue t) := by
  refine ⟨.rfl' _, fun hs hl => ?_⟩
  have hc := hl.configured hs
  rw [Sector.allScheduled_iff] at hs
  refine ⟨hc, hs.modRes ?_ fun u hu => Sector.update_of_unbound hc hu⟩
  have hp := hs.planned (s.carrierOf t)
  refine (hp.leaveQueue t).congr hp.size (fun _ _ => rfl) (fun u => ?_) fun u => ?_
  all_goals by_cases hu : u = t
  · subst hu
    simp only [Sector.leaveQueue, Function.update_self, ne_eq, not_true_eq_false, and_false, reduceCtorEq]
  · rw [Function.update_of_ne hu]
    exact (and_iff_left hu).symm
  · subst hu
    have hne : s.states u ≠ .trimming := by unfold Sector.states; rw [hst]; decide
    simp only [Function.update_self, hne, reduceCtorEq, and_false]
  · rw [Function.update_of_ne hu]
    rfl

theorem Sector.leaveRanging_leaves {s : Sector} {t : TermNo} (hst : (s.term t).link.state = .trimming) :
    Sector.Leaves t s (s.leaveRanging t) := by
  refine ⟨.rfl' _, fun hs hl => ?_⟩
  have hc := hl.configured hs
  rw [Sector.allScheduled_iff] at hs
  refine ⟨hc, hs.modRes ?_ fun u hu => Sector.update_of_unbound hc hu⟩
  have hp := hs.planned (s.carrierOf t)
  refine (hp.leaveRanging t).congr hp.size (fun _ _ => rfl) (fun u => ?_) fun u => ?_
  all_goals by_cases hu : u = t
  · subst hu
    have hne : s.states u ≠ .called := by unfold Sector.states; rw [hst]; decide
    simp only [Function.update_self, hne, reduceCtorEq, and_false]
  · rw [Function.update_of_ne hu]
    rfl
  · subst hu
    simp only [Function.update_self, ne_eq, not_true_eq_false, and_false, reduceCtorEq]
  · rw [Function.update_of_ne hu]
    exact (and_iff_left hu).symm

theorem Sector.leaveTrimming_leaves {s : Sector} {t : TermNo} (how : Departure) (hst : (s.term t).link.state = .trimming) :
    Sector.Leaves t s (s.leaveTrimming t how) := by
  unfold Sector.leaveTrimming
  refine (Sector.leaveRanging_leaves hst).calm (.andTerm ?_ rfl rfl)
  cases how with
  | progress => exact .rfl' _
  | request => exact .andCar (Sector.withdraw_calm _ t) rfl rfl
  | calendar => exact .andCar (.modTerm _ t _ rfl rfl) rfl rfl

theorem Sector.leave_leaves (s : Sector) (t : TermNo) (how : Departure) : Sector.Leaves t s (s.leave t how) := by
  have hidle {a : Sector} {x : LinkState} (hc : s.Calm a) (h : (s.term t).link.state = x) (hx : ¬ x.waits) : Sector.Leaves t s a :=
    .of_idle hc (h ▸ hx)
  unfold Sector.leave
  split
  case h_1 | h_2 | h_3 => exact hidle (.rfl' s) ‹_› (by unfold LinkState.waits; decide)
  case h_4 h => exact Sector.leaveQueue_leaves h
  case h_5 h => exact Sector.leaveTrimming_leaves how h
  case h_6 h => exact hidle (.andTerm (Sector.stopReclaim_calm s t) rfl rfl) h (by unfold LinkState.waits; decide)
  case h_7 | h_8 => exact hidle (.modTerm s t _ rfl rfl) ‹_› (by unfold LinkState.waits; decide)

/-! ### Entering a state (R37 to R43) -/

theorem Sector.enterDark_sets (s : Sector) (t : TermNo) (old : LinkState) : Sector.Sets t .dark s (s.enterDark t old) :=
  (Sector.Sets.modTerm (f := Terminal.toDark old) s rfl rfl).calm (Sector.lendingCheck_calm _ t)

theorem Sector.enterServing_sets (s : Sector) (t : TermNo) : Sector.Sets t .serving s (s.enterServing t) := .modTerm s rfl rfl

theorem Sector.enterFading_sets (s : Sector) (t : TermNo) : Sector.Sets t .fading s (s.enterFading t) := by
  have h : Sector.Sets t .fading s (s.modTerm t Terminal.toFading) := .modTerm s rfl rfl
  unfold Sector.enterFading
  dsimp only
  split
  · exact h.calm (Sector.fadeStepDown_calm _ t)
  · exact h

theorem Sector.enterGuard_sets (s : Sector) (t : TermNo) : Sector.Sets t .guard s (s.enterGuard t) :=
  (Sector.Sets.modTerm (f := Terminal.toGuard) s rfl rfl).calm (Sector.lendingCheck_calm _ t)

theorem Sector.enterHeld_sets (s : Sector) (t : TermNo) : Sector.Sets t .held s (s.enterHeld t) :=
  (Sector.Sets.modTerm (f := Terminal.toHeld) s rfl rfl).calm ((Sector.discardHeldQueue_calm _ t).trans (Sector.forcedTake_calm _ t))

theorem Sector.enterAdmitting_sets (s : Sector) (t : TermNo) : Sector.Sets t .admitting s (s.enterAdmitting t) := by
  unfold Sector.enterAdmitting
  exact .calm (.modTerm s rfl rfl) ((Sector.startReclaim_calm _ t).trans (Sector.examineAdmission_calm _ t))

/-- A terminal in no queue and no set enters CALLED and joins the queue. -/
theorem Sector.OutOf.enterCalled {s : Sector} {t : TermNo} (h : s.OutOf t) (keptLock : Bool) (p : ProfileNo) :
    (s.enterCalled t keptLock p).allScheduled := by
  have hset : Sector.Sets t .called (s.joinQueue t p) (s.enterCalled t keptLock p) := .modTerm _ rfl rfl
  have hp := h.planned.planned (s.carrierOf t)
  have hjoin : (s.joinQueue t p).PlannedAs (Function.update s.states t .called) := by
    unfold Sector.joinQueue
    refine h.planned.modRes ?_ fun u hu => ?_
    · refine (hp.join (t := t) ?_ p).congr hp.size (fun _ _ => rfl) (fun u => ?_) fun u => ?_
      · rw [Function.update_self]
        exact fun hn => absurd hn.2 (by decide)
      all_goals by_cases hu : u = t
      · subst hu
        simp only [Function.update_self, and_true, or_true, iff_true]
        exact Sector.bound_carrierOf h.configured
      · rw [Function.update_of_ne hu, Function.update_of_ne hu]
        exact (or_iff_left hu).symm
      · subst hu
        simp only [Function.update_self, reduceCtorEq, and_false]
      · rw [Function.update_of_ne hu, Function.update_of_ne hu]
        rfl
    · exact (Sector.update_of_unbound h.configured hu).trans (Sector.update_of_unbound h.configured hu).symm
  rw [Sector.allScheduled_iff]
  refine hjoin.congr hset.cfg hset.settings hset.plan fun u => .inl ?_
  rw [hset.states]
  rfl

theorem Sector.Leaves.called {s a : Sector} {t : TermNo} (h : Sector.Leaves t s a) (hl : s.Live t) (keptLock : Bool) (p : ProfileNo) :
    s.Lawful (a.enterCalled t keptLock p) :=
  ⟨h.grown, fun hs => (h.outOf hs hl).enterCalled keptLock p⟩

theorem Sector.Lawful.calm {a b c : Sector} (h : a.Lawful b) (g : b.Calm c) : a.Lawful c := h.trans g.lawful

theorem Sector.Calm.andLawful {a b c : Sector} (h : a.Calm b) (g : b.Lawful c) : a.Lawful c := h.lawful.trans g

theorem Sector.Lawful.noted {s a before : Sector} {t : TermNo} (h : s.Lawful a) : s.Lawful (Sector.noteStateChange before a t) :=
  h.calm (.andState (.rfl' a))

end Sys2Proof.Machine
end

section
/-! SUPPORT. Every event of the link side keeps the schedules right and the event sets in order (R34 to R165, R174). -/

namespace Sys2Proof.Machine

theorem Sector.Live.of_state {s : Sector} {t : TermNo} {x : LinkState} (h : (s.term t).link.state = x) (hx : x ≠ .held) : s.Live t :=
  .inr (h ▸ hx)

/-! ### Requests (R46 to R51) -/

section
variable {s : Sector} {t : TermNo}

theorem Sector.hold_lawful (hl : s.Live t) : s.Lawful (s.hold t) := by
  have h : s.Lawful ((s.leave t .request).enterHeld t) :=
    (Sector.leave_leaves s t .request).enters (Sector.enterHeld_sets _ t) hl (by unfold LinkState.waits; decide)
  unfold Sector.hold
  exact .ite (.rfl' s) (h.calm (Sector.oweHaltFrom_calm _ t _)).noted

/-- A terminal that leaves its state and enters DARK. -/
theorem Sector.Leaves.dark {a : Sector} (h : Sector.Leaves t s a) (hl : s.Live t) (old : LinkState) : s.Lawful (a.enterDark t old) :=
  h.enters (Sector.enterDark_sets a t old) hl (by unfold LinkState.waits; decide)

theorem Sector.Leaves.serving {a : Sector} (h : Sector.Leaves t s a) (hl : s.Live t) : s.Lawful (a.enterServing t) :=
  h.enters (Sector.enterServing_sets a t) hl (by unfold LinkState.waits; decide)

theorem Sector.Leaves.guard {a : Sector} (h : Sector.Leaves t s a) (hl : s.Live t) : s.Lawful (a.enterGuard t) :=
  h.enters (Sector.enterGuard_sets a t) hl (by unfold LinkState.waits; decide)

theorem Sector.releaseTerm_lawful (hl : s.Live t) : s.Lawful (s.releaseTerm t) := by
  have hclear : s.Calm (s.modLink t fun l => { l with forced := false }) := .modTerm s t _ rfl rfl
  have h := hclear.leaves (Sector.leave_leaves (s.modLink t fun l => { l with forced := false }) t .request)
  unfold Sector.releaseTerm
  exact .ite (h.dark hl _).noted hclear.lawful

theorem Sector.forceTo_lawful (hl : s.Live t) (old target : LinkState) : s.Lawful (s.forceTo t old target) := by
  have h := Sector.leave_leaves s t .request
  unfold Sector.forceTo
  dsimp only
  split
  case h_1 =>
    exact (h.enters (Sector.enterHeld_sets _ t) hl (by unfold LinkState.waits; decide)).calm (Sector.oweHaltFrom_calm _ t old)
  case h_2 =>
    refine Sector.Lawful.calm (Sector.Leaves.guard ?_ hl) (Sector.oweHaltFrom_calm _ t old)
    split
    · exact h.sets (Sector.enterDark_sets _ t old)
    · exact h
  case h_3 =>
    have hfixed := h.calm ((Sector.forcedTake_calm _ t).trans (Sector.fixProfiles_calm _ t))
    have howed (a : Sector) : a.Calm (a.modOwed t fun o => { o with admission := true }) := .modTerm a t _ rfl rfl
    exact (hfixed.calm (howed _)).serving hl
  case h_4 => exact (h.dark hl old).calm (Sector.oweHaltFrom_calm _ t old)
  all_goals exact .rfl' s

theorem Sector.force_lawful (hl : s.Live t) (named : LinkState) : s.Lawful (s.force t named) := by
  unfold Sector.force
  exact .calm (.ite (.rfl' s) (Sector.forceTo_lawful hl _ _).noted) (.modTerm _ t _ rfl rfl)

/-! ### Calls, bursts and misses (R52 to R57) -/

theorem Sector.recall_lawful (hl : s.Live t) (keptLock : Bool) (p : ProfileNo) : s.Lawful (s.recall t keptLock p) := by
  have h := (Sector.setCause_calm s t .recall).leaves (Sector.leave_leaves _ t .progress)
  exact ((h.sets (Sector.enterDark_sets _ t _)).called hl keptLock p).noted

theorem Sector.callAccepted_lawful (s : Sector) (c : CarrierNo) (t : TermNo) (keptLock : Bool) (p : ProfileNo) :
    s.Lawful (s.callAccepted c t keptLock p) := by
  have hignored (f : TermCounters → TermCounters) : s.Calm (s.countTerm t f) := .modTerm s t _ rfl rfl
  unfold Sector.callAccepted
  dsimp only
  refine .ite (.ite ((hignored _).trans (Sector.suppress_calm _ t)).lawful (hignored _).lawful) ?_
  split
  case h_1 | h_2 | h_3 => exact (hignored _).lawful
  case h_4 h => exact ((Sector.leave_leaves s t .progress).called (.of_state h (by decide)) keptLock p).noted
  case h_5 => exact (((hignored _).andTerm rfl rfl).trans (Sector.setLastProfile_calm _ c t p)).lawful
  case h_6 h => exact Sector.recall_lawful (.of_state h (by decide)) keptLock p
  case h_7 h => exact Sector.recall_lawful (.of_state h (by decide)) keptLock p
  case h_8 => exact .ite ((hignored _).andTerm rfl rfl).lawful (hignored _).lawful

theorem Sector.lsvGoodBurst_lawful (s : Sector) (t : TermNo) : s.Lawful (s.lsvGoodBurst t) := by
  unfold Sector.lsvGoodBurst
  dsimp only
  split
  · next h => exact ((Sector.leave_leaves s t .progress).serving (.of_state h.1 (by decide))).noted
  · exact .rfl' s

theorem Sector.fadeOut_lawful (hl : s.Live t) : s.Lawful (s.fadeOut t) := by
  unfold Sector.fadeOut
  exact (((Sector.setCause_calm s t .fade).leaves (Sector.leave_leaves _ t .progress)).dark hl _).noted

/-- A terminal that does not wait enters a state in which it does not wait. -/
theorem Sector.Sets.lawful {x : LinkState} {b : Sector} (h : Sector.Sets t x s b) (hl : s.Live t)
    (hs : ¬ (s.term t).link.state.waits) (hx : ¬ x.waits) : s.Lawful b :=
  (Sector.Leaves.of_idle (.rfl' s) hs).enters h hl hx

theorem Sector.Calm.live {a : Sector} (h : s.Calm a) (hl : s.Live t) : a.Live t := by
  unfold Sector.Live
  rw [h.cfg, h.state]
  exact hl

theorem Sector.lsvMiss_lawful (s : Sector) (t : TermNo) : s.Lawful (s.lsvMiss t) := by
  have hcounted : s.Calm (s.countTerm t fun k => { k with misses := k.misses + 1 }) := .modTerm s t _ rfl rfl
  unfold Sector.lsvMiss
  dsimp only
  refine .ite (hcounted.trans (Sector.suppress_calm _ t)).lawful ?_
  split
  case h_1 h =>
    have hset := hcounted.sets (Sector.enterFading_sets _ t)
    exact (hset.lawful (.of_state h (by decide)) (by rw [h]; unfold LinkState.waits; decide) (by unfold LinkState.waits; decide)).noted
  case h_2 h =>
    have hmore := hcounted.andTerm (t := t)
      (f := fun r => { r with link := { r.link with fadeMisses := min 15 ((s.term t).link.fadeMisses + 1) } }) rfl rfl
    exact .ite (hmore.andLawful (Sector.fadeOut_lawful (hmore.live (.of_state h (by decide))))) hmore.lawful
  all_goals exact .rfl' s

/-! ### Counts at a frame start (R57 to R62) -/

theorem Sector.fadeExpiry_lawful (s : Sector) (t : TermNo) : s.Lawful (s.fadeExpiry t) := by
  unfold Sector.fadeExpiry
  dsimp only
  split
  · next h =>
    exact .ite ((Sector.suppress_calm s t).andTerm rfl rfl).lawful (Sector.fadeOut_lawful (.of_state h.1 (by decide)))
  · exact .rfl' s

theorem Sector.guardEnd_lawful (s : Sector) (t : TermNo) : s.Lawful (s.guardEnd t) := by
  unfold Sector.guardEnd
  dsimp only
  split
  · next h =>
    exact .ite ((Sector.suppress_calm s t).andTerm rfl rfl).lawful
      ((Sector.leave_leaves s t .progress).dark (.of_state h.1 (by decide)) _).noted
  · exact .rfl' s

theorem Sector.admitExpiry_lawful (s : Sector) (t : TermNo) : s.Lawful (s.admitExpiry t) := by
  unfold Sector.admitExpiry
  dsimp only
  split
  · next h =>
    have hleft := (Sector.setCause_calm s t .noPermit).leaves (Sector.leave_leaves _ t .progress)
    refine .ite (Sector.suppress_calm s t).lawful (Sector.Lawful.noted ?_)
    exact (hleft.guard (.of_state h.1 (by decide))).calm (Sector.oweHalt_calm _ t)
  · exact .rfl' s

theorem Sector.effectiveReached_lawful (s : Sector) (f : FrameNo) (t : TermNo) : s.Lawful (s.effectiveReached f t) := by
  unfold Sector.effectiveReached
  dsimp only
  split
  · exact .rfl' s
  · split
    · next h =>
      exact .ite (Sector.suppress_calm s t).lawful ((Sector.leave_leaves s t .progress).serving (.of_state h.1 (by decide))).noted
    · exact .rfl' s

theorem Sector.lsvFrame_lawful (s : Sector) (f : FrameNo) (t : TermNo) : s.Lawful (s.lsvFrame f t) := by
  unfold Sector.lsvFrame
  have hfade (a : Sector) : a.Calm (a.modLink t LinkFields.fadeTick) := .modTerm a t _ rfl (LinkFields.fadeTick_state _)
  have hguard (a : Sector) : a.Calm (a.modLink t LinkFields.guardTick) := .modTerm a t _ rfl (LinkFields.guardTick_state _)
  have hadmit (a : Sector) : a.Calm (a.modTerm t Terminal.admitTick) :=
    .modTerm a t _ (Terminal.admitTick_cfg _) (congrArg LinkFields.state (Terminal.admitTick_link _))
  have houtage : s.Calm (((s.modLink t LinkFields.outageTick).lendCompare t).warmCompare t) :=
    ((Sector.Calm.modTerm s t _ rfl (LinkFields.outageTick_state _)).trans (Sector.lendCompare_calm _ t)).trans
      (Sector.warmCompare_calm _ t)
  have hfaded := houtage.andLawful ((hfade _).andLawful (Sector.fadeExpiry_lawful _ t))
  have hguarded := hfaded.trans ((hguard _).andLawful (Sector.guardEnd_lawful _ t))
  exact (hguarded.trans ((hadmit _).andLawful (Sector.admitExpiry_lawful _ t))).trans (Sector.effectiveReached_lawful _ f t)

/-! ### Carrier loss and restart (R63, R64) -/

theorem Sector.darkWithCarrier_lawful (hl : s.Live t) : s.Lawful (s.darkWithCarrier t) :=
  ((Sector.leave_leaves s t .calendar).dark hl _).noted

theorem Sector.lossAt_lawful (s : Sector) (t : TermNo) : s.Lawful (s.lossAt t) := by
  have hcause := Sector.setCause_calm s t .carrier
  unfold Sector.lossAt
  dsimp only
  split
  · next h =>
    have hl : s.Live t := .inr fun he => by rw [he] at h; cases h
    exact .ite (Sector.suppress_calm s t).lawful (hcause.andLawful (Sector.darkWithCarrier_lawful (hcause.live hl)))
  · exact .rfl' s

theorem Sector.restartAt_lawful (s : Sector) (t : TermNo) : s.Lawful (s.restartAt t) := by
  have hmarked : s.Calm (s.modLink t fun l => { l with forced := false, cause := .restart }) := .modTerm s t _ rfl rfl
  unfold Sector.restartAt
  dsimp only
  split
  · exact .rfl' s
  · next h => exact .ite hmarked.lawful (hmarked.andLawful (Sector.darkWithCarrier_lawful (hmarked.live (.inr h))))

theorem Sector.clearedCarrier_calm (s : Sector) (c : CarrierNo) :
    s.Calm ((s.clearCalendar c).modCar c fun k => { k with recovery := 0 }) := (Sector.clearCalendar_calm s c).andCar rfl rfl

theorem Sector.carrierRestart_lawful (s : Sector) (c : CarrierNo) : s.Lawful (s.carrierRestart c) := by
  unfold Sector.carrierRestart
  exact ((Sector.clearedCarrier_calm s c).andLawful (.foldl Sector.restartAt_lawful _ _)).calm (Sector.setCarrierState_calm _ c _)

theorem Sector.carrierLost_lawful (s : Sector) (c : CarrierNo) : s.Lawful (s.carrierLost c) := by
  have hcounted : s.Calm (s.countCsp c fun k => { k with carrierLost := k.carrierLost + 1 }) := .modCar s c _ rfl rfl
  unfold Sector.carrierLost
  dsimp only
  refine .ite (Sector.Calm.andLawful ?_ (.foldl Sector.lossAt_lawful _ _)) hcounted.lawful
  exact (hcounted.trans (Sector.setCarrierState_calm _ c _)).trans (Sector.clearedCarrier_calm _ c)

/-! ### The Ranging Unit (R107 to R117) -/

theorem Sector.converge_lawful (hl : s.Live t) (c : CarrierNo) : s.Lawful (s.converge c t) := by
  have hstored : s.Calm ((s.modRange t fun g => { g with stored := some g.correction }).countRng c
      fun k => { k with convergences := k.convergences + 1 }) := .andCar (.modTerm s t _ rfl rfl) rfl rfl
  unfold Sector.converge
  exact ((hstored.leaves (Sector.leave_leaves _ t .progress)).enters (Sector.enterAdmitting_sets _ t) hl
    (by unfold LinkState.waits; decide)).noted

theorem Sector.failExchange_lawful (hl : s.Live t) (c : CarrierNo) : s.Lawful (s.failExchange c t) := by
  have hfailed : s.Calm ((((s.modRange t fun g => { g with stored := none }).countTerm t
      fun k => { k with rangingFailures := k.rangingFailures + 1 }).countRng c
        fun k => { k with failures := k.failures + 1 }).note (·.addRangeFail t)) :=
    (Sector.Calm.andCar (.andTerm (.modTerm s t _ rfl rfl) rfl rfl) rfl rfl).trans
      (.note _ _ (EventSets.addRangeFail_grown _ t))
  have hleft := (hfailed.trans (Sector.setCause_calm _ t .rangeFail)).leaves (Sector.leave_leaves _ t .progress)
  exact ((hleft.guard hl).calm (Sector.oweHalt_calm _ t)).noted

theorem Sector.endUnconverged_lawful (hl : s.Live t) (c : CarrierNo) : s.Lawful (s.endUnconverged c t) :=
  .ite (Sector.failExchange_lawful hl c) (Sector.Calm.modTerm s t _ rfl rfl).lawful

theorem Sector.rangingMiss_lawful (hl : s.Live t) (c : CarrierNo) : s.Lawful (s.rangingMiss c t) := by
  have h := (Sector.breakAssembly_calm s t).trans (.countRng _ c fun k => { k with misses := k.misses + 1 })
  exact h.andLawful (Sector.endUnconverged_lawful (h.live hl) c)

theorem Sector.measurement_lawful (hl : s.Live t) (c : CarrierNo) (offset : Int) (snr : Nat) (x : Fragment) :
    s.Lawful (s.measurement c t offset snr x) := by
  have hrecorded : s.Calm ((s.modRange t (RangeFields.measure (s.car c).cfg.targetSnr offset snr)).countRng c
      fun k => { k with measurements := k.measurements + 1 }) := .andCar (.modTerm s t _ rfl rfl) rfl rfl
  have htaken := hrecorded.trans (Sector.takeFragment_calm _ t x)
  have hcold := htaken.trans (Sector.fallBack_calm _ c t)
  unfold Sector.measurement
  exact .ite
    (.ite (htaken.andLawful (Sector.converge_lawful (htaken.live hl) c))
      (hcold.andLawful (Sector.endUnconverged_lawful (hcold.live hl) c)))
    (htaken.andLawful (Sector.endUnconverged_lawful (htaken.live hl) c))

theorem Sector.currentOutcome_lawful (hl : s.Live t) (c : CarrierNo) (o : TrimOutcome) : s.Lawful (s.currentOutcome c t o) := by
  have htaken : s.Calm (((s.modRange t fun g => { g with grant := none }).countTerm t
      fun k => { k with rangingAttempts := k.rangingAttempts + 1 }).countRng c fun k => { k with outcomes := k.outcomes + 1 }) :=
    .andCar (.andTerm (.modTerm s t _ rfl rfl) rfl rfl) rfl rfl
  unfold Sector.currentOutcome
  dsimp only
  split
  · exact htaken.andLawful (Sector.rangingMiss_lawful (htaken.live hl) c)
  · have hover (a : Sector) : a.Calm ((a.countTerm t fun k => { k with rangingOverflows := k.rangingOverflows + 1 }).countRng c
        fun k => { k with overflows := k.overflows + 1 }) := .trans (.modTerm a t _ rfl rfl) (.countRng _ c _)
    have hmiss := htaken.trans (hover _)
    exact .ite (hmiss.andLawful (Sector.rangingMiss_lawful (hmiss.live hl) c))
      (htaken.andLawful (Sector.measurement_lawful (htaken.live hl) c _ _ _))

theorem Sector.rngOutcome_lawful (s : Sector) (c : CarrierNo) (u : FrameNo) (slot : SlotNo) (t : TermNo) (o : TrimOutcome) :
    s.Lawful (s.rngOutcome c u slot t o) := by
  unfold Sector.rngOutcome
  dsimp only
  split
  · next h =>
    exact .ite (Sector.unsentOutcome_calm s _ t).lawful (Sector.currentOutcome_lawful (.of_state h.1 (by decide)) _ o)
  · exact (Sector.staleOutcome_calm s c t o).lawful

/-! ### The Re-entry Scheduler (R87, R94 to R97) -/

theorem Sector.takeCall_lawful (s : Sector) (c : CarrierNo) (t : TermNo) (keptLock : Bool) (p : ProfileNo) :
    s.Lawful (s.takeCall c t keptLock p) := by
  have hseen := Sector.offerOutcome_calm s c .call
  refine .ite (Sector.Calm.andLawful ?_ (Sector.callAccepted_lawful _ c t keptLock p)) (hseen.andCar rfl rfl).lawful
  exact (hseen.andCar rfl rfl).andTerm rfl rfl

theorem Sector.offeredOutcome_lawful (s : Sector) (c : CarrierNo) (o : SlotResult) : s.Lawful (s.offeredOutcome c o) := by
  unfold Sector.offeredOutcome
  split
  · exact (Sector.quietOffer_calm s c).lawful
  · exact (Sector.collision_calm s c).lawful
  · split
    · exact Sector.takeCall_lawful s c _ _ _
    · exact (Sector.collision_calm s c).lawful
    · exact (Sector.collision_calm s c).lawful

/-- The queue head moves to the ranging set and to TRIMMING (R96). -/
theorem Sector.takeHead_scheduled {c : CarrierNo} {e : QueueEntry} {l : List QueueEntry} (hs : s.allScheduled)
    (hq : (s.car c).res.queue = e :: l) (hroom : (s.car c).res.ranging.length < (s.car c).cfg.rangingSize) {b : Sector}
    (hb : Sector.Sets e.terminal .trimming
      (s.modRes c fun q => { q with queue := q.queue.tail, ranging := insertNo e.terminal q.ranging }) b) : b.allScheduled := by
  rw [Sector.allScheduled_iff] at hs
  have hp := hs.planned c
  obtain ⟨hbound, hstate⟩ := (hp.entered e.terminal).1 ⟨e, hq ▸ List.mem_cons_self, rfl⟩
  have htaken : (s.modRes c fun q => { q with queue := q.queue.tail, ranging := insertNo e.terminal q.ranging }).PlannedAs
      (Function.update s.states e.terminal .trimming) := by
    refine hs.modRes ?_ fun u hu => Function.update_of_ne (fun he => ?_) _ _
    · rw [show (s.car c).res.queue.tail = l by rw [hq]; rfl]
      refine ((hp.takeHead hq).joinRanging e.terminal hroom).congr hp.size (fun _ _ => rfl) (fun u => ?_) fun u => ?_
      all_goals by_cases hu : u = e.terminal
      · simp only [hu, Function.update_self, reduceCtorEq, ne_eq, not_true_eq_false, and_false]
      · rw [Function.update_of_ne hu]
        exact (and_iff_left hu).symm
      · simp only [hu, Function.update_self, hbound, and_true, or_true]
      · rw [Function.update_of_ne hu]
        exact (or_iff_left hu).symm
    · rw [he, hbound] at hu
      cases hu
  rw [Sector.allScheduled_iff]
  refine htaken.congr hb.cfg hb.settings hb.plan fun u => .inl ?_
  rw [hb.states]
  rfl

theorem Sector.takeHead_lawful {c : CarrierNo} {e : QueueEntry} {l : List QueueEntry} (r : FrameNo) (slot : SlotNo)
    (hq : (s.car c).res.queue = e :: l) (hroom : (s.car c).res.ranging.length < (s.car c).cfg.rangingSize) :
    s.Lawful (s.takeHead c r e.terminal slot) := by
  unfold Sector.takeHead
  have hset : Sector.Sets e.terminal .trimming
      (s.modRes c fun q => { q with queue := q.queue.tail, ranging := insertNo e.terminal q.ranging })
      (s.takeHead c r e.terminal slot) := by
    refine Sector.Sets.calm (Sector.Sets.calm ?_ (.andState (.rfl' _))) (Sector.grantTo_calm _ c r _ slot)
    exact Sector.Sets.calm (Sector.Calm.sets (.countRes _ c _) (.modTerm _ rfl rfl)) (.countRng _ c _)
  exact ⟨hset.grown, fun hs => Sector.takeHead_scheduled hs hq hroom hset⟩

theorem Sector.takeHeads_lawful (c : CarrierNo) (r : FrameNo) (pace : Nat) (s : Sector) : s.Lawful (Sector.takeHeads c r pace s) := by
  induction pace generalizing s with
  | zero => exact .rfl' s
  | succ pace ih =>
    unfold Sector.takeHeads
    split
    · next hq _ =>
      split
      · next hroom => exact (Sector.takeHead_lawful r _ hq hroom).trans (ih _)
      · exact .rfl' s
    · exact .rfl' s
    · exact .rfl' s

theorem Sector.grantArbiter_lawful (s : Sector) (c : CarrierNo) (r : FrameNo) (pace : Nat) : s.Lawful (s.grantArbiter c r pace) :=
  (Sector.Calm.foldlPair _ (grantMember_calm c r) _ (s, pace)).andLawful (Sector.takeHeads_lawful c r _ _)

theorem Sector.fillRow_lawful (s : Sector) (c : CarrierNo) (r : FrameNo) : s.Lawful (s.fillRow c r) := by
  have hfilled (a : Sector) (l : List SlotNo) :
      a.Calm (a.modCar c fun k => (l.foldl (fun x slot => x.setCell r slot .offered) k).markFilled r) :=
    .modCar a c _ (Carrier.foldl_setCell r .offered _ _).1 (congrArg Scheduler.plan (Carrier.foldl_setCell_res r .offered _ _))
  exact (Sector.grantArbiter_lawful s c r _).calm (hfilled _ _)

theorem Sector.fillAt_lawful (s : Sector) (c : CarrierNo) (f : FrameNo) : s.Lawful (s.fillAt c f) := by
  unfold Sector.fillAt
  dsimp only
  refine .ite ?_ (.rfl' s)
  split
  · exact .ite (.rfl' s) (Sector.fillRow_lawful s c _)
  · exact .rfl' s

/-! ### The Carrier Controller (R77, R83 to R85) -/

theorem Sector.expireCell_lawful (c : CarrierNo) (s : Sector) (x : FrameNo × SlotNo × Cell) : s.Lawful (s.expireCell c x) := by
  have hcounted : s.Calm (s.countCsp c fun k => { k with expiredCells := k.expiredCells + 1 }) := .modCar s c _ rfl rfl
  unfold Sector.expireCell
  split
  · exact .rfl' s
  · exact (hcounted.trans (Sector.quietOffer_calm _ c)).lawful
  · exact hcounted.andLawful (Sector.rngOutcome_lawful _ c _ _ _ _)

theorem Sector.moveWindow_lawful (s : Sector) (c : CarrierNo) (f : FrameNo) : s.Lawful (s.moveWindow c f) :=
  (Sector.Calm.modCar s c (Carrier.moveTo f) rfl rfl).andLawful (.foldl (Sector.expireCell_lawful c) _ _)

theorem Sector.cspFrame_lawful (s : Sector) (c : CarrierNo) (f : FrameNo) : s.Lawful (s.cspFrame c f) := by
  unfold Sector.cspFrame
  have hwindow := (Sector.moveWindow_lawful s c f).calm (Sector.backoff_calm _ c)
  exact ((hwindow.calm (Sector.recoveryFrame_calm _ c)).calm (.foldl _ (Sector.reclaimSlot_calm c) _ _)).trans
    (Sector.fillAt_lawful _ c f)

theorem Sector.goodBurst_lawful (s : Sector) (t : TermNo) (g : GoodBurst) : s.Lawful (s.goodBurst t g) :=
  (((Sector.lsvGoodBurst_lawful s t).calm (Sector.takeSnr_calm _ t _)).calm (Sector.takeFragment_calm _ t _)).calm
    (Sector.takePauseFlag_calm _ t _)

theorem Sector.slotMiss_lawful (s : Sector) (t : TermNo) (o : SlotResult) : s.Lawful (s.slotMiss t o) := by
  unfold Sector.slotMiss
  refine Sector.Calm.andLawful (.trans ?_ (Sector.breakAssembly_calm _ t)) (Sector.lsvMiss_lawful _ t)
  exact .ite (.modTerm s t _ rfl rfl) (.rfl' s)

theorem Sector.byKind_lawful (s : Sector) (c : CarrierNo) (slot : SlotNo) (o : SlotResult) : s.Lawful (s.byKind c slot o) := by
  unfold Sector.byKind
  split
  · refine .ite ?_ (Sector.stray_calm s c o).lawful
    split
    · exact Sector.goodBurst_lawful s _ _
    · exact Sector.slotMiss_lawful s _ o
  all_goals exact (Sector.stray_calm s c o).lawful

theorem Sector.slotOutcome_lawful (s : Sector) (c : CarrierNo) (u : FrameNo) (slot : SlotNo) (o : SlotResult) :
    s.Lawful (s.slotOutcome c u slot o) := by
  have hcounted : s.Calm (if u = (s.car c).lastFrame then s else s.countCsp c fun k => { k with outOfFrame := k.outOfFrame + 1 }) :=
    .ite (.rfl' s) (.modCar s c _ rfl rfl)
  have hconsumed : s.Calm (s.modCar c fun k => k.setCell u slot .empty) := .modCar s c _ rfl rfl
  unfold Sector.slotOutcome
  dsimp only
  split
  · exact hcounted.andLawful (Sector.byKind_lawful _ c slot o)
  · exact hconsumed.andLawful (Sector.offeredOutcome_lawful _ c o)
  · exact hconsumed.andLawful (Sector.rngOutcome_lawful _ c u slot _ _)

end

/-! ### Every event -/

theorem Sector.Event.lawful {s s' : Sector} (h : s.Event s') : s.Lawful s' := by
  cases h with
  | discardFrame t f => exact (Sector.Calm.modTerm s t _ rfl rfl).lawful
  | offer t bytes arrival => exact (Sector.offerFrame_calm ..).lawful
  | pass t bytes => exact (Sector.Calm.handOut s _).lawful
  | recovery c => exact (Sector.recoveryEnd_calm ..).lawful
  | reclaim c slot => exact (Sector.reclaimSlot_calm ..).lawful
  | lend t => exact (Sector.lendCompare_calm ..).lawful
  | warm t => exact (Sector.warmCompare_calm ..).lawful
  | fade t => exact Sector.fadeExpiry_lawful ..
  | guard t => exact Sector.guardEnd_lawful ..
  | admitWait t => exact Sector.admitExpiry_lawful ..
  | effective f t => exact Sector.effectiveReached_lawful ..
  | apply f t => exact (Sector.applyReached_calm ..).lawful
  | settle t => exact (Sector.settleEnd_calm ..).lawful
  | yieldEnd t => exact (Sector.Calm.modTerm s t _ rfl rfl).lawful
  | age t => exact (Sector.ageDiscard_calm ..).lawful
  | lost c => exact Sector.carrierLost_lawful ..
  | found c => exact (Sector.carrierFound_calm ..).lawful
  | outcome c u slot o => exact Sector.slotOutcome_lawful ..
  | listClose c g => exact (Sector.listClose_calm ..).lawful
  | lsv f t => exact Sector.lsvFrame_lawful ..
  | rng c => exact (Sector.rngFrame_calm ..).lawful
  | pld c f => exact (Sector.pldFrame_calm ..).lawful
  | hfs c => exact (Sector.hfsFrame_calm ..).lawful
  | release t h => exact Sector.releaseTerm_lawful (.inl h)
  | hold t h => exact Sector.hold_lawful (.inl h)
  | force t named h => exact Sector.force_lawful (.inl h) named
  | permit t _ => exact (Sector.permitTerm_calm ..).lawful
  | flush t _ => exact (Sector.flush_calm ..).lawful
  | restart c => exact Sector.carrierRestart_lawful ..

end Sys2Proof.Machine
end

section
/-! SUPPORT. Writes of configuration and settings and a sector reset keep the schedules right (R24 to R27, R68, R178), and so does
every step. -/

namespace Sys2Proof.Machine

/-! ### WRITE-CARRIER (R68, R70) -/

theorem within_bounds {lo hi x : Nat} {v : List Byte} (h : within lo hi v = some x) : lo ≤ x ∧ x ≤ hi := by
  unfold within at h
  split at h
  · cases h; assumption
  · cases h

/-- A field sets the ranging set size to at most 8, or leaves it. -/
theorem CarrierConfig.setField_rangingSize {cfg new : CarrierConfig} {e : FieldEntry} (h : cfg.setField e = some new) :
    new.rangingSize = cfg.rangingSize ∨ new.rangingSize ≤ 8 := by
  unfold CarrierConfig.setField at h
  dsimp only at h
  split at h
  case h_12 =>
    obtain ⟨x, hx, rfl⟩ := Option.map_eq_some_iff.1 h
    exact .inr (within_bounds hx).2
  case h_24 => cases h; exact .inl rfl
  case h_25 => cases h
  all_goals
    obtain ⟨x, -, rfl⟩ := Option.map_eq_some_iff.1 h
    exact .inl rfl

theorem CarrierConfig.withFields_rangingSize {cfg : CarrierConfig} (h : cfg.rangingSize ≤ 8) (es : List FieldEntry) :
    (cfg.withFields es).rangingSize ≤ 8 := by
  unfold CarrierConfig.withFields
  induction es generalizing cfg with
  | nil => exact h
  | cons e es ih =>
    refine ih ?_
    dsimp only
    cases he : cfg.setField e with
    | none => exact h
    | some new =>
      rw [Option.getD_some]
      obtain h' | h' := CarrierConfig.setField_rangingSize he
      · exact h'.trans_le h
      · exact h'

theorem Carrier.configure_cfg (k : Carrier) (new : CarrierConfig) : (k.configure new).cfg = new :=
  (Carrier.foldl_setSlot (fun x y => (x.slotUse y).rebase (new.baseKind y)) allSlots { k with cfg := new }).1

theorem Carrier.configure_res (k : Carrier) (new : CarrierConfig) : (k.configure new).res = k.res :=
  Carrier.foldl_setSlot_res (fun x y => (x.slotUse y).rebase (new.baseKind y)) allSlots { k with cfg := new }

/-- New settings whose ranging set has at most eight places leave the schedules right. -/
theorem Sector.configureCarrier_lawful (s : Sector) (c : CarrierNo) {new : CarrierConfig}
    (h : (s.car c).cfg.rangingSize ≤ 8 → new.rangingSize ≤ 8) : s.Lawful (s.modCar c fun k => k.configure new) := by
  refine ⟨.rfl' _, fun hs => ?_⟩
  rw [Sector.allScheduled_iff] at hs ⊢
  refine ⟨fun d => ?_, hs.spare⟩
  have hp := hs.planned d
  rw [Sector.car_modCar]
  split
  · next hd =>
    subst hd
    rw [Carrier.configure_res, Carrier.configure_cfg]
    exact hp.congr (h hp.size) (fun _ _ => rfl) (fun _ => Iff.rfl) fun _ => Iff.rfl
  · exact hp

theorem Sector.writeCarrier_lawful (s : Sector) (c : CarrierNo) (es : List FieldEntry) :
    s.Lawful (s.writeCarrier c ((s.car c).cfg.withFields es)) := by
  have h := Sector.configureCarrier_lawful s c (new := (s.car c).cfg.withFields es)
    fun hs => CarrierConfig.withFields_rangingSize hs es
  unfold Sector.writeCarrier Sector.enable Sector.disable
  refine .ite h (.ite (h.calm ?_) (h.calm ?_))
  · exact (Sector.setCarrierState_calm _ c _).andCar rfl rfl
  · exact ((Sector.setCarrierState_calm _ c _).trans (Sector.clearCalendar_calm _ c)).andCar rfl rfl

/-! ### SECTOR-RESET (R178) -/

theorem Sector.resetCounts_calm (s : Sector) (t : TermNo) : s.Calm (s.resetCounts t) := by
  unfold Sector.resetCounts
  exact .trans (.ite (.countRng s _ _) (.rfl' s)) (Sector.discardHeldQueue_calm _ t)

/-- Every link state of a reset table is HELD. -/
theorem resetRecords_state (l : Table 256 Terminal) (t : TermNo) :
    ((resetRecords l).read Terminal.powerOn t).link.state = .held := by
  unfold resetRecords
  induction l with
  | nil => rfl
  | cons e l ih =>
    rw [List.map_cons, List.filter_cons]
    split
    · unfold Table.read
      split
      · rfl
      · exact ih
    · exact ih

theorem Carrier.sectorReset_cfg (k : Carrier) : k.sectorReset.cfg = k.cfg :=
  (Carrier.foldl_setSlot (fun x y => x.cfg.baseKind y) allSlots { k.clearCalendar with slots := [] }).1

theorem foldl_sectorReset_cfg (l : List CarrierNo) (s : Sector) (d : CarrierNo) :
    ((l.foldl (fun x c => x.modCar c Carrier.sectorReset) s).car d).cfg = (s.car d).cfg := by
  induction l generalizing s with
  | nil => rfl
  | cons c l ih =>
    rw [List.foldl_cons, ih, Sector.car_modCar]
    split
    · next h => rw [h, Carrier.sectorReset_cfg]
    · rfl

theorem foldl_sectorReset_res (l : List CarrierNo) (s : Sector) (d : CarrierNo) (h : (s.car d).res = {} ∨ d ∈ l) :
    ((l.foldl (fun x c => x.modCar c Carrier.sectorReset) s).car d).res = {} := by
  induction l generalizing s with
  | nil => exact h.resolve_right List.not_mem_nil
  | cons c l ih =>
    refine ih _ ?_
    rw [Sector.car_modCar]
    by_cases hd : d = c
    · rw [if_pos hd]; exact .inl rfl
    · rw [if_neg hd]
      exact h.imp_right fun hm => (List.mem_cons.1 hm).resolve_left hd

theorem foldl_sectorReset_events (l : List CarrierNo) (s : Sector) :
    (l.foldl (fun x c => x.modCar c Carrier.sectorReset) s).events = s.events := by
  induction l generalizing s with
  | nil => rfl
  | cons c l ih => rw [List.foldl_cons, ih]; rfl

theorem Carrier.claimSlots_res (k : Carrier) (t : TermNo) (l : List SlotNo) : (k.claimSlots t l).res = k.res :=
  Carrier.foldl_setSlot_res (fun _ _ => .traffic t) l k

theorem Carrier.claimSlots_cfg (k : Carrier) (t : TermNo) (l : List SlotNo) : (k.claimSlots t l).cfg = k.cfg :=
  (Carrier.foldl_setSlot (fun _ _ => SlotUse.traffic t) l k).1

theorem Sector.restoreHomes_calm (s : Sector) (c : CarrierNo) : s.Calm (s.restoreHomes c) :=
  .foldl _ (fun x t => .modCar x c _ (Carrier.claimSlots_cfg _ t _) (by rw [Carrier.claimSlots_res])) _ s

theorem Scheduler.planned_empty {size : Nat} (h : size ≤ 8) (cls : TermNo → Fin 4) {called trimming : TermNo → Prop}
    (hc : ∀ t, ¬ called t) (ht : ∀ t, ¬ trimming t) : ({} : Scheduler).Planned size cls called trimming where
  ordered := .nil
  stamps := .nil
  next _ h := absurd h List.not_mem_nil
  terminals := .nil
  classes _ h := absurd h List.not_mem_nil
  entered t := iff_of_false (fun ⟨_, h, _⟩ => absurd h List.not_mem_nil) (hc t)
  ascending := .nil
  room := Nat.zero_le 8
  size := h
  ranging t := iff_of_false List.not_mem_nil (ht t)

/-- From `s` to `s'` event sets in order stay so, and schedules that are right stay so. -/
structure Sector.Right (s s' : Sector) : Prop where
  tidy : s.events.ascending → s'.events.ascending
  scheduled : s.allScheduled → s'.allScheduled

theorem Sector.Lawful.right {s s' : Sector} (h : s.Lawful s') : s.Right s' := ⟨h.grown.tidy, h.scheduled⟩

theorem Sector.sectorReset_right (s : Sector) : s.Right s.sectorReset := by
  have hcounted : s.Calm (s.configuredTerms.foldl Sector.resetCounts s) := .foldl _ Sector.resetCounts_calm _ s
  unfold Sector.sectorReset
  dsimp only
  generalize s.configuredTerms.foldl Sector.resetCounts s = a at hcounted ⊢
  generalize hb : ({ a with terms := resetRecords a.terms, freeDescriptors := 4096, freeBlocks := 8192, events := {} } : Sector) = b
  have hcar (c : CarrierNo) : b.car c = a.car c := by rw [← hb]; rfl
  have hheld (t : TermNo) : (b.term t).link.state = .held := by rw [← hb]; exact resetRecords_state _ t
  have hcfg := foldl_sectorReset_cfg allCarriers b
  have hres (c : CarrierNo) := foldl_sectorReset_res allCarriers b c (.inr (mem_allCarriers c))
  have hevents := foldl_sectorReset_events allCarriers b
  obtain ⟨hterms, -⟩ := foldl_sectorReset allCarriers b
  generalize allCarriers.foldl (fun x c => x.modCar c Carrier.sectorReset) b = d at hcfg hres hevents hterms ⊢
  have hhome : d.Lawful (allCarriers.foldl Sector.restoreHomes d) := (Sector.Calm.foldl _ Sector.restoreHomes_calm _ d).lawful
  have hstate (t : TermNo) : d.states t = .held := by
    unfold Sector.states Sector.term
    rw [hterms]
    exact hheld t
  refine ⟨fun _ => hhome.grown.tidy ?_, fun hs => hhome.scheduled ?_⟩
  · rw [hevents, ← hb]
    exact ⟨.nil, .nil, .nil, .nil, .nil⟩
  · rw [Sector.allScheduled_iff] at hs ⊢
    refine ⟨fun c => ?_, fun t _ => hstate t⟩
    rw [hres, hcfg, hcar, hcounted.settings]
    refine Scheduler.planned_empty (hs.planned c).size _ (fun t h => ?_) fun t h => ?_
    all_goals
      rw [hstate] at h
      exact absurd h.2 (by decide)

/-! ### WRITE-TERMINAL (R24 to R27) -/

theorem Terminal.rebound_link (es : List FieldEntry) (r : Terminal) : (r.rebound es).link = r.link := by
  unfold Terminal.rebound; split <;> rfl

theorem Terminal.configure_state (es : List FieldEntry) (new : TermConfig) (r : Terminal) :
    (r.configure es new).link.state = r.link.state := by
  unfold Terminal.configure
  rw [Terminal.rebound_link]
  rfl

theorem Carrier.releaseSlots_res (k : Carrier) (l : List SlotNo) : (k.releaseSlots l).res = k.res :=
  Carrier.foldl_setSlot_res (fun x y => x.cfg.baseKind y) l k

theorem Carrier.releaseSlots_cfg (k : Carrier) (l : List SlotNo) : (k.releaseSlots l).cfg = k.cfg :=
  (Carrier.foldl_setSlot (fun x y => x.cfg.baseKind y) l k).1

theorem moveSlots_calm (t : TermNo) (old new : TermConfig) (s : Sector) (c : CarrierNo) : s.Calm (moveSlots t old new s c) := by
  unfold moveSlots
  exact .modCar s c _ (by rw [Carrier.claimSlots_cfg, Carrier.releaseSlots_cfg])
    (by rw [Carrier.claimSlots_res, Carrier.releaseSlots_res])

/-- From `s` to `s'` the configuration of `t` alone changes, to `new`; settings, plans, link states and event sets stay. -/
structure Sector.Reconfigures (t : TermNo) (new : TermConfig) (s s' : Sector) : Prop where
  cfg : ∀ u, (s'.term u).cfg = if u = t then new else (s.term u).cfg
  settings : ∀ c, (s'.car c).cfg = (s.car c).cfg
  plan : ∀ c, (s'.car c).res.plan = (s.car c).res.plan
  states : s'.states = s.states

theorem Sector.Reconfigures.calm {t : TermNo} {new : TermConfig} {s a b : Sector} (h : Sector.Reconfigures t new s a) (g : a.Calm b) :
    Sector.Reconfigures t new s b where
  cfg u := (g.cfg u).trans (h.cfg u)
  settings c := (g.settings c).trans (h.settings c)
  plan c := (g.plan c).trans (h.plan c)
  states := g.states.trans h.states

/-- The record written, and made fresh when the terminal becomes configured or unconfigured, which needs it HELD. -/
theorem Sector.written_reconfigures (s : Sector) (t : TermNo) (es : List FieldEntry) (new : TermConfig)
    (h : (s.term t).cfg.configured = new.configured ∨ (s.term t).link.state = .held) :
    Sector.Reconfigures t new s (if (s.term t).cfg.configured = new.configured then s.modTerm t (Terminal.configure es new)
      else (s.modTerm t (Terminal.configure es new)).freshRecord t) := by
  have hwritten : Sector.Reconfigures t new s (s.modTerm t (Terminal.configure es new)) := by
    refine ⟨fun u => ?_, fun _ => rfl, fun _ => rfl, funext fun u => ?_⟩
    · rw [Sector.term_modTerm]
      split
      · exact Terminal.configure_cfg es new _
      · rfl
    · unfold Sector.states
      rw [Sector.term_modTerm]
      split
      · next hu => rw [hu]; exact Terminal.configure_state es new _
      · rfl
  split
  · exact hwritten
  · next hne =>
    have hheld := h.resolve_left hne
    refine hwritten.calm ?_
    unfold Sector.freshRecord
    have he := Sector.emptyQueue_calm (s.modTerm t (Terminal.configure es new)) t
    refine he.andTerm rfl ?_
    rw [he.state]
    exact ((congrFun hwritten.states t).trans hheld).symm

/-- Reconfigured schedules are right where a terminal not HELD keeps its carrier, and a CALLED one's entry takes the new class. -/
theorem Sector.Reconfigures.scheduled {t : TermNo} {new : TermConfig} {s a : Sector} (h : Sector.Reconfigures t new s a)
    (hs : s.allScheduled) (hn : ¬ (s.term t).NeedsHeld new) :
    (if (a.term t).link.state = .called then a.modRes new.carrier (Scheduler.reclass t new.cls) else a).allScheduled := by
  have hkeep (hne : s.states t ≠ .held) : new.carrier = (s.term t).cfg.carrier ∧ new.configured = true := by
    have hc := Sector.Live.configured (.inr hne) hs
    refine ⟨by_contra fun hd => hn ⟨hc, hne, .inl hd⟩, by_contra fun hd => hn ⟨hc, hne, .inr (.inr (Bool.eq_false_iff.2 hd))⟩⟩
  have hbound (c : CarrierNo) (u : TermNo) (hne : s.states u ≠ .held) : a.bound c u = s.bound c u := by
    unfold Sector.bound
    rw [h.cfg]
    split
    · next hu =>
      subst hu
      obtain ⟨hcar, hconf⟩ := hkeep hne
      rw [hcar, hconf, Sector.Live.configured (.inr hne) hs]
    · rfl
  have hwaits (c : CarrierNo) (u : TermNo) {x : LinkState} (hx : x ≠ .held) :
      a.bound c u = true ∧ a.states u = x ↔ s.bound c u = true ∧ s.states u = x := by
    rw [h.states, and_congr_left_iff]
    rintro rfl
    rw [hbound c u hx]
  rw [Sector.allScheduled_iff] at hs
  have hspare (u : TermNo) (hu : (a.term u).cfg.configured = false) : a.states u = .held := by
    rw [h.states]
    by_contra hne
    rw [h.cfg] at hu
    split at hu
    · next he => subst he; rw [(hkeep hne).2] at hu; cases hu
    · exact hne (hs.spare u hu)
  have hplanned (c : CarrierNo) := (hs.planned c).of_plan (h.plan c)
  have hcls (u : TermNo) (hu : u ≠ t) : (a.term u).cfg.cls = (s.term u).cfg.cls := by rw [h.cfg, if_neg hu]
  have hsize (c : CarrierNo) : (a.car c).cfg.rangingSize ≤ 8 := h.settings c ▸ (hplanned c).size
  split
  · next hcalled =>
    have hst : s.states t = .called := (congrFun h.states t).symm.trans hcalled
    obtain ⟨hcar, hconf⟩ := hkeep (by rw [hst]; decide)
    have ht : s.bound new.carrier t = true := by
      rw [hcar]
      exact Sector.bound_carrierOf (Sector.Live.configured (.of_state hst (by decide)) (s.allScheduled_iff.2 hs))
    rw [Sector.allScheduled_iff]
    refine ⟨fun c => ?_, hspare⟩
    rw [Sector.car_modRes, Sector.settings_modRes]
    split
    · next hc =>
      subst hc
      have hnew : (a.term t).cfg.cls = new.cls := by rw [h.cfg, if_pos rfl]
      rw [← hnew]
      exact ((hplanned _).reclass (cls' := fun u => (a.term u).cfg.cls) ⟨ht, hst⟩ hcls).congr (hsize _) (fun _ _ => rfl)
        (fun u => hwaits _ u (by decide)) fun u => hwaits _ u (by decide)
    · next hc =>
      refine (hplanned c).congr (hsize c) (fun u hu => hcls u ?_) (fun u => hwaits _ u (by decide)) fun u => hwaits _ u (by decide)
      rintro rfl
      unfold Sector.bound at hu ht
      simp only [Bool.and_eq_true, decide_eq_true_eq] at hu ht
      exact hc (hu.1.2.symm.trans ht.2)
  · next hcalled =>
    rw [Sector.allScheduled_iff]
    refine ⟨fun c => (hplanned c).congr (hsize c) (fun u hu => hcls u ?_) (fun u => hwaits _ u (by decide))
      fun u => hwaits _ u (by decide), hspare⟩
    rintro rfl
    exact hcalled ((congrFun h.states u).trans hu.2)

theorem Sector.writeTerminal_lawful {s : Sector} {t : TermNo} {es : List FieldEntry} (h : (s.writeCheck t es).1 = .done) :
    s.Lawful (s.writeTerminal t es ((s.term t).cfg.withFields es)) := by
  obtain ⟨-, -, -, -, hdone⟩ := Sector.writeCheck_iff s t es
  obtain ⟨-, hn, -⟩ := hdone.1 h
  generalize (s.term t).cfg.withFields es = new at hn ⊢
  have hexamine (a : Sector) : a.Lawful
      (if (s.term t).cfg.autoAdmit = false ∧ new.autoAdmit = true then a.examineAdmission t else a) :=
    .ite (Sector.examineAdmission_calm a t).lawful (.rfl' a)
  unfold Sector.writeTerminal
  dsimp only
  have hr (hs : s.allScheduled) := Sector.written_reconfigures s t es new (by
    by_contra hne
    obtain ⟨hne, hheld⟩ := not_or.1 hne
    have hc := Sector.Live.configured (.inr hheld) hs
    exact hn ⟨hc, hheld, .inr (.inr (by rw [hc] at hne; exact Bool.eq_false_iff.2 (Ne.symm hne)))⟩)
  have hfresh : s.events.Grown (if (s.term t).cfg.configured = new.configured then s.modTerm t (Terminal.configure es new)
      else (s.modTerm t (Terminal.configure es new)).freshRecord t).events := by
    split
    · exact .rfl' _
    · exact (Sector.emptyQueue_calm _ t).grown
  generalize (if (s.term t).cfg.configured = new.configured then s.modTerm t (Terminal.configure es new)
    else (s.modTerm t (Terminal.configure es new)).freshRecord t) = a at hr hfresh ⊢
  have hmoved : a.Calm (allCarriers.foldl (moveSlots t (s.term t).cfg new) a) := .foldl _ (moveSlots_calm t _ new) allCarriers a
  generalize allCarriers.foldl (moveSlots t (s.term t).cfg new) a = b at hmoved ⊢
  refine Sector.Lawful.trans ⟨?_, fun hs => ((hr hs).calm hmoved).scheduled hs hn⟩ (hexamine _)
  have hb := hfresh.trans hmoved.grown
  split <;> exact hb

/-! ### Every operation -/

theorem Sector.Op.right {w : Option (List FieldEntry)} {s s' : Sector} (h : Sector.Op w s s') : s.Right s' := by
  cases h with
  | event h => exact h.lawful.right
  | csp c f => exact (Sector.cspFrame_lawful s c f).right
  | profile p x => exact Sector.Lawful.right (s' := s.setProfile p x) (Sector.Calm.lawful (.same rfl rfl rfl))
  | readEvents =>
    refine ⟨fun _ => ⟨.nil, .nil, .nil, .nil, .nil⟩, fun hs => ?_⟩
    rw [Sector.allScheduled_iff] at hs ⊢
    exact hs.congr (fun _ => rfl) (fun _ => rfl) (fun _ => rfl) fun _ => .inl rfl
  | lowMark n => exact Sector.Lawful.right (s' := { s with storeLowMark := n }) (Sector.Calm.lawful (.same rfl rfl rfl))
  | writeCarrier c es _ => exact (Sector.writeCarrier_lawful s c es).right
  | sectorReset => exact Sector.sectorReset_right s
  | writeTerminal t es _ h => exact (Sector.writeTerminal_lawful h).right

/-- Settles O57: additions are put in their place, and an emptying empties. -/
theorem eventSetsStayAscending : Obligations.EventSetsStayAscending := fun _ _ =>
  step_keeps_sector (P := fun s => s.events.ascending) Sector.powerOn_ascending fun _ _ _ h => h.right.tidy

/-- Settles O58: every operation of the link side keeps the schedules right. -/
theorem schedulesStayOrdered : Obligations.SchedulesStayOrdered := fun _ _ =>
  step_keeps_sector (P := Sector.allScheduled) Sector.powerOn_allScheduled fun _ _ _ h => h.right.scheduled

end Sys2Proof.Machine
end

section
/-! SUPPORT. A record that a sparse table lists twice (no state a run reaches has one): SECTOR-RESET drops the listed default and
uncovers the entry behind it. -/

namespace Sys2Proof.Machine

/-- A SECTOR-RESET request. -/
def resetRequest : Request :=
  { source := 0, code := 20, kind := 3, number := 0, value := 0, bodyLength := 0, rest := [] }

/-- Reset, but with two entries for terminal 5, the first of which is the power-on record. -/
def twiceListed : State :=
  { State.reset with
    sector := { State.reset.sector with terms := [(5, Terminal.powerOn), (5, { cfg := { cls := 1 } })] }
    mgu := { State.reset.mgu with buffer := [resetRequest] } }

theorem twiceListed_before : (twiceListed.sector.term 5).cfg.cls = 3 := by decide

/-- The response to SECTOR-RESET on `twiceListed`, given or not. -/
theorem twiceListed_after {u : State} (h : exec .sectorReset twiceListed = .next u) : (u.sector.term 5).cfg.cls = 1 := by
  have hu : u = twiceListed.serve 20 Request.sector? (emptyBody State.sectorResetRequest) noField := by
    cases h; rfl
  subst hu
  decide

/-- Refutes O59: on `twiceListed` a SECTOR-RESET changes the configuration that terminal 5 reads. -/
theorem not_configurationChangesByWriteOnly : ¬ Obligations.ConfigurationChangesByWriteOnly := by
  intro h
  obtain ⟨u, hu⟩ := exec_next .sectorReset twiceListed
  obtain hcfg | ⟨straps, hi⟩ | ⟨hi, -⟩ := h .sectorReset twiceListed u 5 hu
  · have hcls := congrArg TermConfig.cls hcfg
    rw [twiceListed_after hu, twiceListed_before] at hcls
    exact absurd hcls (by decide)
  · cases hi
  · cases hi

/-- Refutes O31: on `twiceListed` a SECTOR-RESET does not leave the configuration that terminal 5 reads. -/
theorem not_sectorResetRestoresDynamicState : ¬ Obligations.SectorResetRestoresDynamicState := by
  intro h
  obtain ⟨u, hu, -, -, -, -, hterms, -⟩ := h resetRequest twiceListed ⟨rfl, by decide, by decide, rfl⟩ rfl rfl
  obtain ⟨hcfg, -⟩ := hterms 5
  have hcls := congrArg TermConfig.cls hcfg
  rw [twiceListed_after hu, twiceListed_before] at hcls
  exact absurd hcls (by decide)

end Sys2Proof.Machine
end

section
/-! SUPPORT. Received frames (Chapter 1, R168): the one outcome, Table 1.1, and the admission of management frames. -/

namespace Sys2Proof.Machine

/-! ### Exactly one outcome (R5 to R8) -/

/-- What a received frame with a right check sequence leaves: one outcome counted, the rest outside MGU and link side. -/
theorem State.frameReceived_outcome (s : State) (bytes : List Byte) : ∃ i : Fin 7, (s.frameReceived bytes true).fcl = s.fcl.took i ∧
    (s.frameReceived bytes true).pending = s.pending ∧ (s.frameReceived bytes true).shares = s.shares ∧
    (s.frameReceived bytes true).straps = s.straps ∧ (s.frameReceived bytes true).tagMap = s.tagMap ∧
    (s.frameReceived bytes true).npTraffic = s.npTraffic := by
  obtain h | ⟨i, -, h, -⟩ := State.frameReceived_cases s bytes
  · rw [h]
    exact ⟨1, rfl, rfl, rfl, rfl, rfl, rfl⟩
  · obtain ⟨hpending, hshares, hstraps, htags, hfcl, hnp, -⟩ := h
    exact ⟨i, hfcl, hpending, hshares, hstraps, htags, hnp⟩

/-- Settles O3: every frame received ends in one of the seven outcomes of Table 1.2. -/
theorem receivedFrameEndsInOneOutcome : Obligations.ReceivedFrameEndsInOneOutcome := by
  refine ⟨fun bytes s => rfl, fun bytes s => ⟨_, rfl, ?counted⟩, fun bytes s => ⟨fun h => ?untagged, fun hl hb ht hlong => ?long,
    fun hl hb ht hlen hn => ?unknown⟩⟩
  case counted =>
    obtain ⟨i, hfcl, hpending, hshares, hstraps, htags, hnp⟩ := State.frameReceived_outcome s bytes
    obtain ⟨herr, hrec, hsent, hnone, hform⟩ := FclCounters.took_other i s.fcl
    rw [hfcl]
    exact ⟨hpending, hshares, hstraps, htags, hnp, herr, hrec, ⟨i, i.isLt, FclCounters.took_outcomes i s.fcl⟩, hsent, hnone, hform,
      FclCounters.took_balanced i⟩
  case untagged =>
    rw [← carriesTag_iff, Bool.not_eq_true] at h
    exact congrArg _ (State.frameReceived_untagged h)
  case long => exact congrArg _ (State.frameReceived_long hl hb ht hlong)
  case unknown => exact congrArg _ (State.frameReceived_unknown hl hb ht hlen hn)

/-! ### The decision by link state (R9 to R11) -/

theorem Terminal.decision_held {r : Terminal} (h : r.link.state = .held) : r.decision = .discardState := by
  unfold Terminal.decision; rw [h]

theorem Terminal.decision_pass {r : Terminal} (h : r.link.state = .serving) (hq : r.hold.queue = []) (hr : r.hold.release = .idle) :
    r.decision = .passThrough := by
  unfold Terminal.decision; rw [h]; exact if_pos ⟨hq, hr⟩

theorem Terminal.decision_hand {r : Terminal} (h : r.link.state ≠ .held)
    (hs : ¬ (r.link.state = .serving ∧ r.hold.queue = [] ∧ r.hold.release = .idle)) : r.decision = .handToHfs := by
  unfold Terminal.decision
  split
  case h_1 he => exact absurd he h
  case h_2 he => exact if_neg fun hi => hs ⟨he, hi⟩
  all_goals rfl

/-- Settles O4: Table 1.1, one decision for each case. -/
theorem downstreamDecisionByLinkState : Obligations.DownstreamDecisionByLinkState := by
  intro bytes s t hl hb ht hlen he hc body padded whole r
  have hd := State.frameReceived_decided hl hb ht hlen he hc
  have hrest (k : FclCounters → FclCounters) (f : Sector → Sector) :=
    State.event_only ((s.countFcl fun k => { k with received := k.received + 1 }).countFcl k) f
  refine ⟨s.frameReceived bytes true, rfl, ?_⟩
  rw [hd]
  unfold State.decideFrame
  simp only [State.countFcl_sector]
  by_cases hheld : r.link.state = .held
  · rw [Terminal.decision_held hheld]
    obtain ⟨hpending, hshares, hstraps, htags, hfcl, hnp, hbuf, -⟩ := hrest (fun k => { k with stateDiscards := k.stateDiscards + 1 }) _
    refine ⟨hpending, hshares, hstraps, htags, hnp, hbuf, fun _ => ⟨hfcl, State.event_sector _ _⟩, fun h => ?_,
      fun h => absurd hheld h⟩
    rw [hheld] at h
    cases h
  · by_cases hpass : r.link.state = .serving ∧ r.hold.queue = [] ∧ r.hold.release = .idle
    · obtain ⟨hserving, hqueue, hidle⟩ := hpass
      rw [Terminal.decision_pass hserving hqueue hidle]
      obtain ⟨hpending, hshares, hstraps, htags, hfcl, hnp, hbuf, -⟩ := hrest (fun k => { k with passedThrough := k.passedThrough + 1 }) _
      exact ⟨hpending, hshares, hstraps, htags, hnp, hbuf, fun h => absurd h hheld, fun _ _ _ => ⟨hfcl, State.event_sector _ _⟩,
        fun _ h => absurd ⟨hserving, hqueue, hidle⟩ h⟩
    · rw [Terminal.decision_hand hheld hpass]
      obtain ⟨hpending, hshares, hstraps, htags, hfcl, hnp, hbuf, -⟩ := hrest (fun k => { k with handedToHfs := k.handedToHfs + 1 }) _
      exact ⟨hpending, hshares, hstraps, htags, hnp, hbuf, fun h => absurd h hheld, fun h hq hr => absurd ⟨h, hq, hr⟩ hpass,
        fun _ _ => ⟨hfcl, State.event_sector _ _⟩⟩

/-! ### Admission of management frames (R168) -/

section
variable {m : Mgu} {bytes : List Byte}

theorem Mgu.admitFrame_misaddressed (h : BitVec.ofNat 48 (beNat (bytesAt bytes 0 6)) ≠ m.station)
    (hb : BitVec.ofNat 48 (beNat (bytesAt bytes 0 6)) ≠ broadcast) :
    m.admitFrame bytes = { m with ctr := { m.ctr with misaddressed := m.ctr.misaddressed + 1 } } := if_pos ⟨h, hb⟩

variable (h : BitVec.ofNat 48 (beNat (bytesAt bytes 0 6)) = m.station ∨ BitVec.ofNat 48 (beNat (bytesAt bytes 0 6)) = broadcast)
include h

/-- A frame to the station or to all is judged by its length and by room. -/
theorem Mgu.admitFrame_addressed : m.admitFrame bytes =
    match Request.parse bytes with
    | none => { m with ctr := { m.ctr with shortFrames := m.ctr.shortFrames + 1 } }
    | some r =>
      if bufferPlaces ≤ m.buffer.length then { m with ctr := { m.ctr with dropped := m.ctr.dropped + 1 } }
      else { m with buffer := m.buffer ++ [r], ctr := { m.ctr with admitted := m.ctr.admitted + 1 } } :=
  if_neg fun hn => h.elim hn.1 hn.2

theorem Mgu.admitFrame_short (hl : bytes.length < 26) :
    m.admitFrame bytes = { m with ctr := { m.ctr with shortFrames := m.ctr.shortFrames + 1 } } := by
  rw [Mgu.admitFrame_addressed h, Request.parse, if_pos hl]

theorem Mgu.admitFrame_dropped (hl : 26 ≤ bytes.length) (hfull : 4 ≤ m.buffer.length) :
    m.admitFrame bytes = { m with ctr := { m.ctr with dropped := m.ctr.dropped + 1 } } := by
  rw [Mgu.admitFrame_addressed h, Request.parse, if_neg (not_lt.2 hl)]
  exact if_pos hfull

theorem Mgu.admitFrame_admitted (hl : 26 ≤ bytes.length) (hroom : m.buffer.length < 4) :
    m.admitFrame bytes = { m with
      ctr := { m.ctr with admitted := m.ctr.admitted + 1 }
      buffer := m.buffer ++
        [{ source := BitVec.ofNat 48 (beNat (bytesAt bytes 6 6)), code := byteAt bytes 18, kind := byteAt bytes 19
           number := BitVec.ofNat 16 (beNat (bytesAt bytes 20 2)), value := BitVec.ofNat 16 (beNat (bytesAt bytes 22 2))
           bodyLength := beNat (bytesAt bytes 24 2), rest := bytes.drop 26 }] } := by
  rw [Mgu.admitFrame_addressed h, Request.parse, if_neg (not_lt.2 hl)]
  exact if_neg (not_le.2 hroom)

end

/-- Settles O5: address, length, room, in this order. -/
theorem managementFrameAdmission : Obligations.ManagementFrameAdmission := by
  intro bytes s hl hb ht dest counted
  have hexec {m : Mgu} (h : s.mgu.admitFrame bytes = m) : exec (.frameReceived bytes true) s = .next { counted with mgu := m } := by
    rw [← h]
    exact congrArg Host.Outcome.next (State.frameReceived_diverted (carriesTag_iff.2 ⟨hl, hb⟩) ht)
  exact ⟨fun h hbc => hexec (Mgu.admitFrame_misaddressed h hbc), fun h hs => hexec (Mgu.admitFrame_short h hs),
    fun h hlen hfull => hexec (Mgu.admitFrame_dropped h hlen hfull), fun h hlen hroom => hexec (Mgu.admitFrame_admitted h hlen hroom)⟩

end Sys2Proof.Machine
end

section
/-! SUPPORT. The values that the bytes of a configuration field give (Tables 2.1 and 4.1, Section 12.4). -/

namespace Sys2Proof.Machine

/-! ### Numbers -/

theorem beNat_single (b : Byte) : beNat [b] = b.toNat := by
  simp only [beNat, List.foldl_cons, List.foldl_nil, Nat.zero_mul, Nat.zero_add]

theorem byte_le (b : Byte) : b.toNat ≤ 255 := Nat.le_of_lt_succ b.isLt

theorem pair_le (hi lo : Byte) : 256 * hi.toNat + lo.toNat ≤ 65535 := by
  have := hi.isLt
  have := lo.isLt
  omega

/-- A bit as a byte reads as that bit. -/
theorem withinFlag_bit (x : Bool) : withinFlag [if x then 1 else 0] = some x := by cases x <;> rfl

theorem withinFlag_none {b : Byte} (h : 2 ≤ b.toNat) : withinFlag [b] = none := by
  unfold withinFlag
  rw [beNat_single, if_neg (by omega), if_neg (by omega)]

theorem withinFin_byte {n : Nat} {b : Byte} (h : b.toNat < n) : withinFin n [b] = some ⟨b.toNat, h⟩ := by
  unfold withinFin
  simp only [beNat_single]
  exact dif_pos h

theorem withinFin_none {n : Nat} {b : Byte} (h : n ≤ b.toNat) : withinFin n [b] = none := by
  unfold withinFin
  simp only [beNat_single]
  exact dif_neg (not_lt.2 h)

theorem within_map {α : Type} (lo hi : Nat) (v : List Byte) (f : Nat → α) :
    (within lo hi v).map f = if lo ≤ beNat v ∧ beNat v ≤ hi then some (f (beNat v)) else none := by
  unfold within
  split <;> rfl

/-- A byte in a range whose lower end is 0. -/
theorem within_map_zero {α : Type} (hi : Nat) (b : Byte) (f : Nat → α) :
    (within 0 hi [b]).map f = if b.toNat ≤ hi then some (f b.toNat) else none := by
  rw [within_map, beNat_single]
  simp only [Nat.zero_le, true_and]

theorem within_map_byte {α : Type} (lo hi : Nat) (b : Byte) (f : Nat → α) :
    (within lo hi [b]).map f = if lo ≤ b.toNat ∧ b.toNat ≤ hi then some (f b.toNat) else none := by
  rw [within_map, beNat_single]

theorem within_map_pair {α : Type} (lo hi : Nat) (x y : Byte) (f : Nat → α) :
    (within lo hi [x, y]).map f =
      if lo ≤ 256 * x.toNat + y.toNat ∧ 256 * x.toNat + y.toNat ≤ hi then some (f (256 * x.toNat + y.toNat)) else none := by
  rw [within_map, beNat_pair]

/-- A two-byte value with no upper end but its width. -/
theorem within_map_wide {α : Type} (lo : Nat) (x y : Byte) (f : Nat → α) :
    (within lo 65535 [x, y]).map f =
      if lo ≤ 256 * x.toNat + y.toNat then some (f (256 * x.toNat + y.toNat)) else none := by
  rw [within_map_pair]
  simp only [pair_le, and_true]

/-! ### Home slots (R20) -/

theorem slotByte_eq_some {b : Byte} {z : SlotNo} (h : slotByte b = some z) : BitVec.ofNat 8 z.val = b := by
  unfold slotByte at h
  split at h
  · cases h
    exact BitVec.ofNat_toNat ..
  · cases h

/-- Bytes that name slots, as slots; none when one names no slot. -/
theorem mapM_slotByte (v : List Byte) :
    (∃ x ∈ v, 32 ≤ x.toNat) ∧ v.mapM slotByte = none ∨
    (∀ x ∈ v, x.toNat < 32) ∧ ∃ l, v.mapM slotByte = some l ∧ l.map (fun z : SlotNo => BitVec.ofNat 8 z.val) = v := by
  induction v with
  | nil => exact .inr ⟨fun x hx => absurd hx List.not_mem_nil, [], rfl, rfl⟩
  | cons b v ih =>
    rw [List.mapM_cons]
    by_cases hb : b.toNat < 32
    · have hs : slotByte b = some ⟨b.toNat, hb⟩ := dif_pos hb
      obtain ⟨⟨x, hx, hge⟩, hn⟩ | ⟨hall, l, hl, hmap⟩ := ih
      · exact .inl ⟨⟨x, List.mem_cons_of_mem _ hx, hge⟩, by rw [hs, hn]; rfl⟩
      · refine .inr ⟨List.forall_mem_cons.2 ⟨hb, hall⟩, ⟨b.toNat, hb⟩ :: l, by rw [hs, hl]; rfl, ?_⟩
        rw [List.map_cons, hmap, slotByte_eq_some hs]
    · have hs : slotByte b = none := dif_neg hb
      exact .inl ⟨⟨b, List.mem_cons_self, not_lt.1 hb⟩, by rw [hs]; rfl⟩

theorem slotByte_injective : Function.Injective fun z : SlotNo => (BitVec.ofNat 8 z.val : Byte) := by
  intro a b h
  have := congrArg BitVec.toNat h
  simp only [BitVec.toNat_ofNat] at this
  have := a.isLt
  have := b.isLt
  exact Fin.ext (by omega)

/-- A list built by insertion is ascending and has the members inserted. -/
theorem foldl_insertNo {n : Nat} (l a : List (Fin n)) (ha : a.Pairwise (· < ·)) :
    (l.foldl (fun a x => insertNo x a) a).Pairwise (· < ·) ∧
    ∀ z, z ∈ l.foldl (fun a x => insertNo x a) a ↔ z ∈ l ∨ z ∈ a := by
  induction l generalizing a with
  | nil => exact ⟨ha, fun z => by simp only [List.foldl_nil, List.not_mem_nil, false_or]⟩
  | cons x l ih =>
    obtain ⟨hp, hm⟩ := ih (insertNo x a) (pairwise_insertNo ha)
    refine ⟨hp, fun z => ?_⟩
    rw [List.foldl_cons, hm, mem_insertNo, List.mem_cons]
    tauto

theorem homeSlotsValue_some {v : List Byte} (hl : v.length ≤ 4) (hn : v.Nodup) (hv : ∀ x ∈ v, x.toNat < 32) :
    ∃ l : List SlotNo, homeSlotsValue v = some l ∧ l.Pairwise (· < ·) ∧ ∀ z : SlotNo, z ∈ l ↔ BitVec.ofNat 8 z.val ∈ v := by
  obtain ⟨⟨x, hx, hge⟩, -⟩ | ⟨-, l, hs, hmap⟩ := mapM_slotByte v
  · exact absurd (hv x hx) (not_lt.2 hge)
  · subst hmap
    rw [List.length_map] at hl
    obtain ⟨hp, hm⟩ := foldl_insertNo l [] List.Pairwise.nil
    refine ⟨_, ?_, hp, fun z => ?_⟩
    · unfold homeSlotsValue
      rw [hs]
      exact if_pos ⟨hl, hn.of_map _⟩
    · rw [hm, or_iff_left List.not_mem_nil, List.mem_map_of_injective slotByte_injective]

theorem homeSlotsValue_none {v : List Byte} (h : 4 < v.length ∨ ¬ v.Nodup ∨ ∃ x ∈ v, 32 ≤ x.toNat) : homeSlotsValue v = none := by
  unfold homeSlotsValue
  obtain ⟨-, hs⟩ | ⟨hv, l, hs, hmap⟩ := mapM_slotByte v <;> rw [hs]
  dsimp only
  subst hmap
  refine if_neg fun ⟨hlen, hn⟩ => ?_
  rw [List.length_map, List.nodup_map_iff slotByte_injective] at h
  obtain h | h | ⟨x, hx, hge⟩ := h
  · omega
  · exact h hn
  · exact absurd (hv x hx) (not_lt.2 hge)

/-! ### The fields of a terminal (Table 2.1) -/

theorem TermConfig.setField_flags (k : TermConfig) {b : Byte} (h : 2 ≤ b.toNat) :
    ∀ c ∈ [1, 9, 12, 13], k.setField { code := c, value := [b] } = none := by
  intro c hc
  simp only [List.mem_cons, List.not_mem_nil, or_false] at hc
  obtain rfl | rfl | rfl | rfl := hc <;> exact congrArg (Option.map _) (withinFlag_none h)

theorem TermConfig.setField_profiles (k : TermConfig) {b : Byte} (h : 8 ≤ b.toNat) :
    ∀ c ∈ [6, 7, 8], k.setField { code := c, value := [b] } = none := by
  intro c hc
  simp only [List.mem_cons, List.not_mem_nil, or_false] at hc
  obtain rfl | rfl | rfl := hc <;> exact congrArg (Option.map _) (withinFin_none h)

theorem ReleaseBurst.ofCode_none {n : Nat} (h : n ∉ [0, 1, 2, 4, 8]) : ReleaseBurst.ofCode n = none := by
  unfold ReleaseBurst.ofCode
  split
  case h_6 => rfl
  all_goals exact absurd (by decide) h

/-- A byte that is no release burst's code. -/
theorem TermConfig.setField_burst (k : TermConfig) {b : Byte} (h : b ∉ [(0 : Byte), 1, 2, 4, 8]) :
    k.setField { code := 14, value := [b] } = none := by
  refine congrArg (Option.map _) (ReleaseBurst.ofCode_none (n := beNat [b]) fun hb => h ?_)
  rw [beNat_single] at hb
  simp only [List.mem_cons, List.not_mem_nil, or_false, ← BitVec.toNat_inj] at hb ⊢
  exact hb

/-- The home tag of two bytes is 1 to 4094. -/
theorem homeTagValue_pair (hi lo : Byte) : homeTagValue [hi, lo] =
    if 1 ≤ 256 * hi.toNat + lo.toNat ∧ 256 * hi.toNat + lo.toNat ≤ 4094 then some (some (256 * hi.toNat + lo.toNat)) else none := by
  unfold homeTagValue
  rw [if_neg (List.cons_ne_nil _ _), within_map_pair]

theorem TermConfig.setField_homeTag (k : TermConfig) (hi lo : Byte) : k.setField { code := 4, value := [hi, lo] } =
    if 1 ≤ 256 * hi.toNat + lo.toNat ∧ 256 * hi.toNat + lo.toNat ≤ 4094 then
      some { k with homeTag := some (256 * hi.toNat + lo.toNat) } else none := by
  refine (congrArg (Option.map _) (homeTagValue_pair hi lo)).trans ?_
  split <;> rfl

/-! ### The settings of a carrier (Table 4.1) -/

theorem CarrierConfig.setField_flags (k : CarrierConfig) {b : Byte} (h : 2 ≤ b.toNat) :
    ∀ c ∈ [1, 22, 23], k.setField { code := c, value := [b] } = none := by
  intro c hc
  simp only [List.mem_cons, List.not_mem_nil, or_false] at hc
  obtain rfl | rfl | rfl := hc <;> exact congrArg (Option.map _) (withinFlag_none h)

theorem baseKinds_bytes (b₃ b₂ b₁ b₀ : Byte) : BitVec.ofNat 32 (beNat [b₃, b₂, b₁, b₀]) = b₃ ++ b₂ ++ b₁ ++ b₀ := by
  apply BitVec.eq_of_toNat_eq
  have := b₃.isLt
  have := b₂.isLt
  have := b₁.isLt
  have := b₀.isLt
  simp only [beNat, List.foldl_cons, List.foldl_nil, BitVec.toNat_ofNat, BitVec.toNat_append, Nat.shiftLeft_eq]
  rw [← Nat.shiftLeft_eq, ← Nat.shiftLeft_eq, ← Nat.shiftLeft_eq]
  rw [← Nat.shiftLeft_add_eq_or_of_lt (by omega), ← Nat.shiftLeft_add_eq_or_of_lt (by omega),
    ← Nat.shiftLeft_add_eq_or_of_lt (by omega)]
  simp only [Nat.shiftLeft_eq]
  omega

/-- A one-byte setting with no upper end but its width. -/
theorem within_map_open {α : Type} (lo : Nat) (b : Byte) (f : Nat → α) :
    (within lo 255 [b]).map f = if lo ≤ b.toNat then some (f b.toNat) else none := by
  rw [within_map_byte]
  simp only [byte_le, and_true]

/-- Settles O18: each code, by the range its value is read in. -/
theorem configurationFieldCodes : Obligations.ConfigurationFieldCodes := by
  refine ⟨fun k b hi lo v => ⟨fun x => ?flags, k.setField_flags, fun h => ?numbers, fun h => ?noNumbers, rfl, fun h₁ h₂ => ?tag,
    fun h => ?noTag, fun hl hn hv => ?slots, fun h => ?noSlots, fun h => ?profiles, k.setField_profiles, ?quota, within_map_wide _ _ _ _,
    fun p hp => ?burst, k.setField_burst, within_map_pair _ _ _ _ _, within_map_byte _ _ _ _, ?lend, ?warm, within_map_wide _ _ _ _⟩,
    fun k b hi lo b₃ b₂ b₁ b₀ => ?carrier⟩
  case flags =>
    have h := withinFlag_bit x
    refine ⟨congrArg (Option.map _) h, congrArg (Option.map _) h, congrArg (Option.map _) h, congrArg (Option.map _) h⟩
  case numbers => exact ⟨congrArg (Option.map _) (withinFin_byte h), congrArg (Option.map _) (withinFin_byte h)⟩
  case noNumbers => exact ⟨congrArg (Option.map _) (withinFin_none h), congrArg (Option.map _) (withinFin_none h)⟩
  case tag => rw [TermConfig.setField_homeTag, if_pos ⟨h₁, h₂⟩]
  case noTag =>
    rw [TermConfig.setField_homeTag]
    exact if_neg fun hb => by omega
  case slots =>
    obtain ⟨l, hs, hp, hm⟩ := homeSlotsValue_some hl hn hv
    exact ⟨l, congrArg (Option.map _) hs, hp, hm⟩
  case noSlots => exact congrArg (Option.map _) (homeSlotsValue_none h)
  case profiles =>
    have hf := withinFin_byte h
    exact ⟨congrArg (Option.map _) hf, congrArg (Option.map _) hf, congrArg (Option.map _) hf⟩
  case burst =>
    simp only [List.mem_cons, List.not_mem_nil, or_false] at hp
    obtain rfl | rfl | rfl | rfl | rfl := hp <;> rfl
  case carrier =>
    refine ⟨fun x => congrArg (Option.map _) (withinFlag_bit x), within_map_byte _ _ _ _, within_map_byte _ _ _ _,
      within_map_zero _ _ _, within_map_byte _ _ _ _, within_map_pair _ _ _ _ _, ?fine, within_map_zero _ _ _,
      within_map_zero _ _ _, within_map_byte _ _ _ _, within_map_byte _ _ _ _, within_map_byte _ _ _ _, within_map_zero _ _ _,
      within_map_zero _ _ _, within_map_wide _ _ _ _, within_map_byte _ _ _ _, within_map_byte _ _ _ _, within_map_zero _ _ _,
      within_map_wide _ _ _ _, within_map_open _ _ _, within_map_byte _ _ _ _, fun x => congrArg (Option.map _) (withinFlag_bit x),
      fun x => congrArg (Option.map _) (withinFlag_bit x), k.setField_flags, ?base, fun z => rfl⟩
    case fine => exact (within_map_open 0 b _).trans (if_pos (Nat.zero_le _))
    case base => exact congrArg (fun x => some { k with base := x }) (baseKinds_bytes b₃ b₂ b₁ b₀)
  case quota =>
    refine (within_map_pair 0 1024 hi lo _).trans ?_
    simp only [Nat.zero_le, true_and]
  case lend | warm => exact (within_map_wide 0 hi lo _).trans (if_pos (Nat.zero_le _))

end Sys2Proof.Machine
end

section
/-! SUPPORT. The held-frame store (Chapter 8): what each operation on one terminal's queue makes of its record, of the pools and of
the counters, and from these O6, O8 and O28. -/

namespace Sys2Proof.Machine

/-! ### One terminal's queue changed -/

/-- From `s` to `u` the record of `t` became `r`, the HFS counters `k`, the free descriptors `d`, the free blocks `b` and the event
sets `e`; everything else is as it was. -/
structure Sector.Stored (s : Sector) (t : TermNo) (r : Terminal) (k : HfsCounters) (d b : Nat) (e : EventSets) (u : Sector) : Prop where
  cars : u.cars = s.cars
  handed : u.mlOut = s.mlOut
  profiles : u.profiles = s.profiles
  mark : u.storeLowMark = s.storeLowMark
  pld : u.pld = s.pld
  only : OnlyRecord s u t
  term : u.term t = r
  hfs : u.hfs = k
  descriptors : u.freeDescriptors = d
  blocks : u.freeBlocks = b
  events : u.events = e

theorem Sector.Stored.congr {s u : Sector} {t : TermNo} {r r' : Terminal} {k k' : HfsCounters} {d b d' b' : Nat} {e e' : EventSets}
    (h : s.Stored t r k d b e u) (hr : r' = r) (hk : k' = k) (hd : d' = d) (hb : b' = b) (he : e' = e) :
    s.Stored t r' k' d' b' e' u := by
  subst hr hk hd hb he
  exact h

theorem Sector.Stored.trans {s a u : Sector} {t : TermNo} {r r' : Terminal} {k k' : HfsCounters} {d b d' b' : Nat} {e e' : EventSets}
    (h : s.Stored t r k d b e a) (g : a.Stored t r' k' d' b' e' u) : s.Stored t r' k' d' b' e' u where
  cars := g.cars.trans h.cars
  handed := g.handed.trans h.handed
  profiles := g.profiles.trans h.profiles
  mark := g.mark.trans h.mark
  pld := g.pld.trans h.pld
  only v hv := (g.only v hv).trans (h.only v hv)
  term := g.term
  hfs := g.hfs
  descriptors := g.descriptors
  blocks := g.blocks
  events := g.events

theorem Sector.Stored.rfl' (s : Sector) (t : TermNo) : s.Stored t (s.term t) s.hfs s.freeDescriptors s.freeBlocks s.events s :=
  ⟨rfl, rfl, rfl, rfl, rfl, fun _ _ => rfl, rfl, rfl, rfl, rfl, rfl⟩

section
variable {s a : Sector} {t : TermNo} {r : Terminal} {k : HfsCounters} {d b : Nat} {e : EventSets}
  (h : s.Stored t r k d b e a)
include h

theorem Sector.Stored.modTerm (f : Terminal → Terminal) : s.Stored t (f r) k d b e (a.modTerm t f) where
  cars := h.cars
  handed := h.handed
  profiles := h.profiles
  mark := h.mark
  pld := h.pld
  only v hv := ((Sector.term_modTerm a t v f).trans (if_neg hv)).trans (h.only v hv)
  term := ((Sector.term_modTerm a t t f).trans (if_pos rfl)).trans (congrArg f h.term)
  hfs := h.hfs
  descriptors := h.descriptors
  blocks := h.blocks
  events := h.events

theorem Sector.Stored.countHfs (f : HfsCounters → HfsCounters) : s.Stored t r (f k) d b e (a.countHfs f) :=
  ⟨h.cars, h.handed, h.profiles, h.mark, h.pld, h.only, h.term, congrArg f h.hfs, h.descriptors, h.blocks, h.events⟩

theorem Sector.Stored.giveBack (q : List HeldFrame) : s.Stored t r k (d + q.length) (b + blocksOf q) e (a.giveBack q) :=
  ⟨h.cars, h.handed, h.profiles, h.mark, h.pld, h.only, h.term, h.hfs, congrArg (· + q.length) h.descriptors,
    congrArg (· + blocksOf q) h.blocks, h.events⟩

theorem Sector.Stored.note (f : EventSets → EventSets) : s.Stored t r k d b (f e) (a.note f) :=
  ⟨h.cars, h.handed, h.profiles, h.mark, h.pld, h.only, h.term, h.hfs, h.descriptors, h.blocks, congrArg f h.events⟩

/-- A frame's descriptor and blocks taken from the pools. -/
theorem Sector.Stored.take (n : Nat) : s.Stored t r k (d - 1) (b - n) e
    { a with freeDescriptors := a.freeDescriptors - 1, freeBlocks := a.freeBlocks - n } :=
  ⟨h.cars, h.handed, h.profiles, h.mark, h.pld, h.only, h.term, h.hfs, congrArg (· - 1) h.descriptors,
    congrArg (· - n) h.blocks, h.events⟩

end

/-! ### Appending (R142 to R145) -/

/-- STORE-LOW raised when the free blocks `b` left are below the mark (R145). -/
def EventSets.lowAfter (mark b : Nat) (e : EventSets) : EventSets := { e with storeLow := e.storeLow || decide (b < mark) }

/-- The HFS counters of an append that found `before` free blocks and left `b` (R145). -/
def HfsCounters.appended (mark before b : Nat) (k : HfsCounters) : HfsCounters :=
  { k with appends := k.appends + 1, storeLow := if b < mark ∧ mark ≤ before then k.storeLow + 1 else k.storeLow }

/-- The record with a frame at the tail of its queue (R142). -/
def Terminal.appended (bytes : List Byte) (arrival : FrameNo) (r : Terminal) : Terminal :=
  { r with hold := { r.hold with queue := r.hold.queue ++ [{ bytes := bytes, arrival := arrival, age := 0 }] }
           ctr := { r.ctr with framesHeld := r.ctr.framesHeld + 1 } }

theorem Sector.noteStoreLow_eq (s : Sector) (before : Nat) : s.noteStoreLow before =
    { s with hfs := { s.hfs with
               storeLow := if s.freeBlocks < s.storeLowMark ∧ s.storeLowMark ≤ before then s.hfs.storeLow + 1 else s.hfs.storeLow }
             events := s.events.lowAfter s.storeLowMark s.freeBlocks } := by
  unfold Sector.noteStoreLow EventSets.lowAfter
  by_cases hlow : s.freeBlocks < s.storeLowMark
  · by_cases hcross : s.storeLowMark ≤ before
    · simp only [hlow, hcross, if_true, and_self, Sector.note, Sector.countHfs, EventSets.addStoreLow, decide_true, Bool.or_true]
    · simp only [hlow, hcross, if_true, if_false, and_false, Sector.note, EventSets.addStoreLow, decide_true, Bool.or_true]
  · simp only [hlow, if_false, false_and, decide_false, Bool.or_false]

theorem Sector.appendFrame_stored (s : Sector) (t : TermNo) (bytes : List Byte) (arrival : FrameNo) :
    s.Stored t ((s.term t).appended bytes arrival)
      (s.hfs.appended s.storeLowMark s.freeBlocks (s.freeBlocks - (bytes.length + 255) / 256))
      (s.freeDescriptors - 1) (s.freeBlocks - (bytes.length + 255) / 256)
      (s.events.lowAfter s.storeLowMark (s.freeBlocks - (bytes.length + 255) / 256)) (s.appendFrame t bytes arrival) := by
  have htaken := (Sector.Stored.rfl' s t).take ((bytes.length + 255) / 256)
  have hheld := (htaken.modTerm fun r =>
    { r with hold := { r.hold with queue := r.hold.queue ++ [{ bytes := bytes, arrival := arrival, age := 0 }] } }).modTerm
      fun r => { r with ctr := { r.ctr with framesHeld := r.ctr.framesHeld + 1 } }
  have hcounted := hheld.countHfs fun k => { k with appends := k.appends + 1 }
  unfold Sector.appendFrame
  rw [Sector.noteStoreLow_eq]
  exact ⟨hcounted.cars, hcounted.handed, hcounted.profiles, hcounted.mark, hcounted.pld, hcounted.only, hcounted.term, rfl,
    hcounted.descriptors, hcounted.blocks, rfl⟩

/-- The record after a discard on arrival with cause QUOTA (R143). -/
def Terminal.turnedByQuota (r : Terminal) : Terminal :=
  { r with ctr := { r.ctr with discardQuota := r.ctr.discardQuota + 1, arrivalQuota := r.ctr.arrivalQuota + 1 } }

/-- The record after a discard on arrival with cause POOL (R143). -/
def Terminal.turnedByPool (r : Terminal) : Terminal :=
  { r with ctr := { r.ctr with discardPool := r.ctr.discardPool + 1, arrivalPool := r.ctr.arrivalPool + 1 } }

theorem Sector.arrivalQuota_stored (s : Sector) (t : TermNo) :
    s.Stored t (s.term t).turnedByQuota { s.hfs with arrivalQuota := s.hfs.arrivalQuota + 1 } s.freeDescriptors s.freeBlocks s.events
      (s.arrivalQuota t) :=
  ((Sector.Stored.rfl' s t).modTerm Terminal.turnedByQuota).countHfs fun k => { k with arrivalQuota := k.arrivalQuota + 1 }

theorem Sector.arrivalPool_stored (s : Sector) (t : TermNo) :
    s.Stored t (s.term t).turnedByPool
      { s.hfs with arrivalPool := s.hfs.arrivalPool + 1, storeExhausted := s.hfs.storeExhausted + 1 } s.freeDescriptors s.freeBlocks
      { s.events with storeExhausted := true } (s.arrivalPool t) :=
  (((Sector.Stored.rfl' s t).modTerm Terminal.turnedByPool).countHfs fun k =>
    { k with arrivalPool := k.arrivalPool + 1, storeExhausted := k.storeExhausted + 1 }).note (·.addStoreExhausted)

/-! ### The offer without DROP-OLDEST (R142, R143) -/

theorem Sector.fits_iff {s : Sector} {t : TermNo} {len : Nat} : s.fits t len = true ↔
    (s.term t).hold.queue.length < (s.term t).cfg.holdQuota ∧ 1 ≤ s.freeDescriptors ∧ (len + 255) / 256 ≤ s.freeBlocks := by
  simp only [Sector.fits, Bool.and_eq_true, decide_eq_true_eq, and_assoc]
  rfl

section
variable {s : Sector} {t : TermNo} {bytes : List Byte} {arrival : FrameNo}

theorem Sector.offerFrame_noQuota (h : (s.term t).cfg.holdQuota = 0) : s.offerFrame t bytes arrival = s.arrivalQuota t := if_pos h

theorem Sector.offerFrame_fits (h : s.fits t bytes.length = true) : s.offerFrame t bytes arrival = s.appendFrame t bytes arrival := by
  have hq : (s.term t).cfg.holdQuota ≠ 0 := fun h0 => by
    have := (Sector.fits_iff.1 h).1
    omega
  unfold Sector.offerFrame
  rw [if_neg hq]
  exact if_pos h

variable (hq : (s.term t).cfg.holdQuota ≠ 0) (h : ¬ s.fits t bytes.length = true)
include hq h

theorem Sector.offerFrame_dropNew (hp : (s.term t).cfg.dropPolicy = .dropNew) : s.offerFrame t bytes arrival =
    if (s.term t).cfg.holdQuota ≤ (s.term t).hold.queue.length then s.arrivalQuota t else s.arrivalPool t := by
  unfold Sector.offerFrame
  dsimp only
  rw [if_neg hq, if_neg (show ¬ s.fits t (frameLength bytes) = true from h), hp]
  rfl

end

/-- Under DROP-OLDEST an offer that fits or not makes what room it needs (R144). -/
theorem Sector.offerFrame_dropOldest {s : Sector} {t : TermNo} {bytes : List Byte} {arrival : FrameNo}
    (hq : (s.term t).cfg.holdQuota ≠ 0) (hp : (s.term t).cfg.dropPolicy = .dropOldest) :
    s.offerFrame t bytes arrival = Sector.makeRoom t bytes arrival (s.term t).hold.queue.length s := by
  unfold Sector.offerFrame
  dsimp only
  rw [if_neg hq, hp]
  split
  · next h =>
    cases hn : (s.term t).hold.queue.length <;> exact (if_pos h).symm
  · rfl

/-! ### Heads that give way (R144) -/

/-- The sector after `n` heads of the queue of `t` gave way. -/
def Sector.dropHeads (s : Sector) (t : TermNo) (n : Nat) : Sector := (Sector.dropOldestHead · t)^[n] s

theorem Sector.dropHeads_zero (s : Sector) (t : TermNo) : s.dropHeads t 0 = s := rfl

theorem Sector.dropHeads_succ (s : Sector) (t : TermNo) (n : Nat) : s.dropHeads t (n + 1) = (s.dropOldestHead t).dropHeads t n := rfl

theorem Sector.dropHeads_last (s : Sector) (t : TermNo) (n : Nat) : s.dropHeads t (n + 1) = (s.dropHeads t n).dropOldestHead t :=
  Function.iterate_succ_apply' _ n s

/-- Of `n` heads, those that gave way while a queue of `len` was at or above the quota. -/
def headsByQuota (quota len n : Nat) : Nat := (List.range n).countP fun i => decide (quota ≤ len - i)

theorem headsByQuota_le (quota len n : Nat) : headsByQuota quota len n ≤ n :=
  List.countP_le_length.trans (List.length_range).le

theorem headsByQuota_succ (quota len n : Nat) :
    headsByQuota quota len (n + 1) = headsByQuota quota len n + if quota ≤ len - n then 1 else 0 := by
  unfold headsByQuota
  rw [List.range_succ, List.countP_append, List.countP_singleton]
  simp only [decide_eq_true_eq]

/-- The record after `n` heads of its queue gave way. -/
def Terminal.headsGone (n : Nat) (r : Terminal) : Terminal :=
  let quotas := headsByQuota r.cfg.holdQuota r.hold.queue.length n
  { r with hold := { r.hold with queue := r.hold.queue.drop n }
           ctr := { r.ctr with discardQuota := r.ctr.discardQuota + BitVec.ofNat 32 quotas
                               discardPool := r.ctr.discardPool + BitVec.ofNat 32 (n - quotas) } }

/-- The HFS counters after `n` heads of a queue gave way. -/
def HfsCounters.headsGone (r : Terminal) (n : Nat) (k : HfsCounters) : HfsCounters :=
  let quotas := headsByQuota r.cfg.holdQuota r.hold.queue.length n
  { k with heldQuota := k.heldQuota + BitVec.ofNat 32 quotas, heldPool := k.heldPool + BitVec.ofNat 32 (n - quotas) }

theorem blocksOf_take_succ (q : List HeldFrame) (n : Nat) :
    blocksOf (q.take (n + 1)) = blocksOf (q.take n) + blocksOf ((q.drop n).take 1) := by
  rw [List.take_add, blocksOf_append]

theorem counter_succ (k : Counter) (n : Nat) : k + BitVec.ofNat 32 (n + 1) = k + BitVec.ofNat 32 n + 1 := by
  rw [BitVec.ofNat_add, ← BitVec.add_assoc]
  rfl

theorem Sector.dropOldestHead_stored {s a : Sector} {t : TermNo} {r : Terminal} {k : HfsCounters} {d b : Nat} {e : EventSets}
    (h : s.Stored t r k d b e a) : s.Stored t
      { r with
        hold := { r.hold with queue := r.hold.queue.drop 1 }
        ctr := if r.cfg.holdQuota ≤ r.hold.queue.length then { r.ctr with discardQuota := r.ctr.discardQuota + 1 }
          else { r.ctr with discardPool := r.ctr.discardPool + 1 } }
      (if r.cfg.holdQuota ≤ r.hold.queue.length then { k with heldQuota := k.heldQuota + 1 } else { k with heldPool := k.heldPool + 1 })
      (d + (r.hold.queue.take 1).length) (b + blocksOf (r.hold.queue.take 1)) e (a.dropOldestHead t) := by
  have hfreed := (h.giveBack (r.hold.queue.take 1)).modTerm fun r => { r with hold := { r.hold with queue := r.hold.queue.drop 1 } }
  unfold Sector.dropOldestHead
  rw [h.term]
  by_cases hq : r.cfg.holdQuota ≤ r.hold.queue.length
  · simp only [hq, if_true]
    rw [if_pos (show r.cfg.holdQuota ≤ r.hold.frames from hq)]
    exact (hfreed.modTerm fun r => { r with ctr := { r.ctr with discardQuota := r.ctr.discardQuota + 1 } }).countHfs
      fun k => { k with heldQuota := k.heldQuota + 1 }
  · simp only [hq, if_false]
    rw [if_neg (show ¬ r.cfg.holdQuota ≤ r.hold.frames from hq)]
    exact (hfreed.modTerm fun r => { r with ctr := { r.ctr with discardPool := r.ctr.discardPool + 1 } }).countHfs
      fun k => { k with heldPool := k.heldPool + 1 }

/-- What `n` heads that gave way leave. -/
theorem Sector.dropHeads_stored (s : Sector) (t : TermNo) {n : Nat} (hn : n ≤ (s.term t).hold.queue.length) :
    s.Stored t ((s.term t).headsGone n) (s.hfs.headsGone (s.term t) n) (s.freeDescriptors + n)
      (s.freeBlocks + blocksOf ((s.term t).hold.queue.take n)) s.events (s.dropHeads t n) := by
  induction n with
  | zero =>
    refine (Sector.Stored.rfl' s t).congr ?_ ?_ rfl rfl rfl
    · simp only [Terminal.headsGone, headsByQuota, List.range_zero, List.countP_nil, Nat.sub_self, List.drop_zero, BitVec.add_zero]
    · simp only [HfsCounters.headsGone, headsByQuota, List.range_zero, List.countP_nil, Nat.sub_self, BitVec.add_zero]
  | succ n ih =>
    rw [Sector.dropHeads_last]
    have hlen : ((s.term t).hold.queue.drop n).length = (s.term t).hold.queue.length - n := List.length_drop
    have hone : (((s.term t).hold.queue.drop n).take 1).length = 1 := by rw [List.length_take, hlen]; omega
    have hle := headsByQuota_le (s.term t).cfg.holdQuota (s.term t).hold.queue.length n
    have hsub : n + 1 - headsByQuota (s.term t).cfg.holdQuota (s.term t).hold.queue.length n =
        n - headsByQuota (s.term t).cfg.holdQuota (s.term t).hold.queue.length n + 1 := by omega
    refine (Sector.dropOldestHead_stored (ih (by omega))).congr ?record ?counters ?descriptors ?blocks rfl
    case record =>
      simp only [Terminal.headsGone, headsByQuota_succ, hlen, List.drop_drop]
      split
      · rw [counter_succ, Nat.add_sub_add_right]
      · simp only [Nat.add_zero, hsub, counter_succ]
    case counters =>
      simp only [HfsCounters.headsGone, Terminal.headsGone, headsByQuota_succ, hlen]
      split
      · rw [counter_succ, Nat.add_sub_add_right]
      · simp only [Nat.add_zero, hsub, counter_succ]
    case descriptors => exact (congrArg (s.freeDescriptors + n + ·) hone).symm
    case blocks => rw [blocksOf_take_succ, ← Nat.add_assoc]; rfl

/-- Room is made by the least number of heads after which the frame fits. -/
theorem Sector.makeRoom_fits {t : TermNo} {bytes : List Byte} {arrival : FrameNo} {n k : Nat} (hk : n ≤ k) {s : Sector}
    (h : (s.dropHeads t n).fits t bytes.length = true) (hm : ∀ m < n, ¬ (s.dropHeads t m).fits t bytes.length = true) :
    Sector.makeRoom t bytes arrival k s = (s.dropHeads t n).appendFrame t bytes arrival := by
  induction n generalizing k s with
  | zero => cases k <;> exact if_pos h
  | succ n ih =>
    cases k with
    | zero => omega
    | succ k =>
      refine (if_neg (hm 0 (Nat.succ_pos n))).trans (ih (Nat.le_of_succ_le_succ hk) h fun m hlt => ?_)
      exact hm (m + 1) (Nat.succ_lt_succ hlt)

/-- When it fits after none, the whole queue gives way and the frame is discarded. -/
theorem Sector.makeRoom_full {t : TermNo} {bytes : List Byte} {arrival : FrameNo} {k : Nat} {s : Sector}
    (hm : ∀ m ≤ k, ¬ (s.dropHeads t m).fits t bytes.length = true) :
    Sector.makeRoom t bytes arrival k s = ((s.dropHeads t k).arrivalPool t).modHold t HoldFields.idleIfEmpty := by
  induction k generalizing s with
  | zero => exact if_neg (hm 0 le_rfl)
  | succ k ih =>
    refine (if_neg (hm 0 (Nat.zero_le _))).trans (ih fun m hle => ?_)
    exact hm (m + 1) (Nat.succ_le_succ hle)

/-- The frame fits after `n` heads of the queue of `t` gave way (R142, R144). -/
theorem Sector.dropHeads_fits {s : Sector} {t : TermNo} {n len : Nat} (hn : n ≤ (s.term t).hold.queue.length) :
    (s.dropHeads t n).fits t len = true ↔ (s.term t).hold.queue.length - n < (s.term t).cfg.holdQuota ∧
      1 ≤ s.freeDescriptors + n ∧ (len + 255) / 256 ≤ s.freeBlocks + blocksOf ((s.term t).hold.queue.take n) := by
  have h := Sector.dropHeads_stored s t hn
  rw [Sector.fits_iff, h.term, h.descriptors, h.blocks]
  simp only [Terminal.headsGone, List.length_drop]

/-- There is a least number of heads after which the frame fits, or it fits after none. -/
theorem Sector.dropHeads_cases (s : Sector) (t : TermNo) (bytes : List Byte) :
    (∃ n ≤ (s.term t).hold.queue.length, (s.dropHeads t n).fits t bytes.length = true ∧
      (∀ m < n, ¬ (s.dropHeads t m).fits t bytes.length = true)) ∨
    ∀ m ≤ (s.term t).hold.queue.length, ¬ (s.dropHeads t m).fits t bytes.length = true := by
  by_cases h : ∃ n ≤ (s.term t).hold.queue.length, (s.dropHeads t n).fits t bytes.length = true
  · obtain ⟨hle, hfits⟩ := Nat.find_spec h
    refine .inl ⟨Nat.find h, hle, hfits, fun m hm hf => Nat.find_min h hm ⟨hm.le.trans hle, hf⟩⟩
  · exact .inr fun m hm hf => h ⟨m, hm, hf⟩

theorem Terminal.headsGone_queue (r : Terminal) : (r.headsGone r.hold.queue.length).hold.queue = [] := List.drop_length

/-- The whole queue gone and the frame discarded (R144, R147). -/
theorem Sector.makeRoom_full_stored {s : Sector} {t : TermNo} {bytes : List Byte} {arrival : FrameNo}
    (hm : ∀ m ≤ (s.term t).hold.queue.length, ¬ (s.dropHeads t m).fits t bytes.length = true) :
    s.Stored t
      { ((s.term t).headsGone (s.term t).hold.queue.length).turnedByPool with hold := { release := .idle, yieldCount := 0, queue := [] } }
      { s.hfs.headsGone (s.term t) (s.term t).hold.queue.length with
        arrivalPool := s.hfs.arrivalPool + 1, storeExhausted := s.hfs.storeExhausted + 1 }
      (s.freeDescriptors + (s.term t).hold.queue.length) (s.freeBlocks + blocksOf ((s.term t).hold.queue.take (s.term t).hold.queue.length))
      { s.events with storeExhausted := true } (Sector.makeRoom t bytes arrival (s.term t).hold.queue.length s) := by
  have hgone := Sector.dropHeads_stored s t (le_refl (s.term t).hold.queue.length)
  have hpool := hgone.trans (Sector.arrivalPool_stored (s.dropHeads t (s.term t).hold.queue.length) t)
  rw [hgone.term, hgone.hfs, hgone.descriptors, hgone.blocks, hgone.events] at hpool
  have hidle := hpool.modTerm fun r => { r with hold := r.hold.idleIfEmpty }
  rw [Sector.makeRoom_full hm]
  refine hidle.congr ?_ rfl rfl rfl rfl
  have hempty : ((s.term t).headsGone (s.term t).hold.queue.length).turnedByPool.hold.queue = [] := Terminal.headsGone_queue _
  unfold HoldFields.idleIfEmpty
  rw [hempty]
  exact congrArg (fun q => { (((s.term t).headsGone (s.term t).hold.queue.length).turnedByPool) with
    hold := { release := .idle, yieldCount := 0, queue := q } }) hempty.symm

/-- The frame taken after `n` heads gave way. -/
theorem Sector.makeRoom_fits_stored {s : Sector} {t : TermNo} {bytes : List Byte} {arrival : FrameNo} {n : Nat}
    (hn : n ≤ (s.term t).hold.queue.length) (h : (s.dropHeads t n).fits t bytes.length = true)
    (hm : ∀ m < n, ¬ (s.dropHeads t m).fits t bytes.length = true) :
    let before := s.freeBlocks + blocksOf ((s.term t).hold.queue.take n)
    s.Stored t (((s.term t).headsGone n).appended bytes arrival)
      ((s.hfs.headsGone (s.term t) n).appended s.storeLowMark before (before - (bytes.length + 255) / 256))
      (s.freeDescriptors + n - 1) (before - (bytes.length + 255) / 256)
      (s.events.lowAfter s.storeLowMark (before - (bytes.length + 255) / 256))
      (Sector.makeRoom t bytes arrival (s.term t).hold.queue.length s) := by
  have hgone := Sector.dropHeads_stored s t hn
  have happ := hgone.trans (Sector.appendFrame_stored (s.dropHeads t n) t bytes arrival)
  rw [hgone.term, hgone.hfs, hgone.descriptors, hgone.blocks, hgone.events, hgone.mark] at happ
  rw [Sector.makeRoom_fits hn h hm]
  exact happ

/-- An offer changes the record of its terminal, the counters, the pools and the event sets alone. -/
theorem Sector.offerFrame_stored (s : Sector) (t : TermNo) (bytes : List Byte) (arrival : FrameNo) :
    ∃ r k d b e, s.Stored t r k d b e (s.offerFrame t bytes arrival) := by
  by_cases hq : (s.term t).cfg.holdQuota = 0
  · rw [Sector.offerFrame_noQuota hq]
    exact ⟨_, _, _, _, _, Sector.arrivalQuota_stored s t⟩
  · cases hp : (s.term t).cfg.dropPolicy with
    | dropNew =>
      by_cases hf : s.fits t bytes.length = true
      · rw [Sector.offerFrame_fits hf]
        exact ⟨_, _, _, _, _, Sector.appendFrame_stored s t bytes arrival⟩
      · rw [Sector.offerFrame_dropNew hq hf hp]
        split
        · exact ⟨_, _, _, _, _, Sector.arrivalQuota_stored s t⟩
        · exact ⟨_, _, _, _, _, Sector.arrivalPool_stored s t⟩
    | dropOldest =>
      rw [Sector.offerFrame_dropOldest hq hp]
      obtain ⟨n, hn, hf, hm⟩ | hm := Sector.dropHeads_cases s t bytes
      · exact ⟨_, _, _, _, _, Sector.makeRoom_fits_stored hn hf hm⟩
      · exact ⟨_, _, _, _, _, Sector.makeRoom_full_stored hm⟩

/-- Settles O6: the offer case by case, and under DROP-OLDEST by the heads that give way. -/
theorem offeredFrameJoinsOrIsDiscarded : Obligations.OfferedFrameJoinsOrIsDiscarded := by
  refine ⟨fun s t bytes arrival => ?arrival, fun s t bytes arrival => ?oldest⟩
  case arrival =>
    intro r blocks fits u
    obtain ⟨r', k, d, b, e, h⟩ := Sector.offerFrame_stored s t bytes arrival
    refine ⟨h.cars, h.handed, h.only, fun hq => ?noQuota, fun hf => ?fits, fun hq hf hp hfull => ?quota, fun hq hf hp hroom => ?pool⟩
    case noQuota =>
      have h := Sector.arrivalQuota_stored s t
      rw [← Sector.offerFrame_noQuota (bytes := bytes) (arrival := arrival) hq] at h
      exact ⟨h.term, h.hfs, h.descriptors, h.blocks, h.events⟩
    case fits =>
      have h := Sector.appendFrame_stored s t bytes arrival
      rw [← Sector.offerFrame_fits (Sector.fits_iff.2 hf)] at h
      exact ⟨h.term, h.hfs, h.descriptors, h.blocks, h.events⟩
    case quota =>
      have h := Sector.arrivalQuota_stored s t
      have hu : u = s.arrivalQuota t := (Sector.offerFrame_dropNew hq (Sector.fits_iff.not.2 hf) hp).trans (if_pos hfull)
      rw [hu]
      exact ⟨h.term, h.hfs, h.descriptors, h.blocks, h.events⟩
    case pool =>
      have h := Sector.arrivalPool_stored s t
      have hu : u = s.arrivalPool t := (Sector.offerFrame_dropNew hq (Sector.fits_iff.not.2 hf) hp).trans (if_neg (not_le.2 hroom))
      rw [hu]
      exact ⟨h.term, h.hfs, h.descriptors, h.blocks, h.events⟩
  case oldest =>
    intro r q quota blocks returned fitsAfter byQuota before hq hp u
    obtain ⟨r', k, d, b, e, h⟩ := Sector.offerFrame_stored s t bytes arrival
    have hu : u = Sector.makeRoom t bytes arrival q.length s := Sector.offerFrame_dropOldest hq hp
    have hfits {n : Nat} (hn : n ≤ q.length) : (s.dropHeads t n).fits t bytes.length = true ↔ fitsAfter n := Sector.dropHeads_fits hn
    refine ⟨h.profiles, h.mark, h.pld, fun n hn hf hm => ?joins, fun hm => ?discarded⟩
    case joins =>
      have h := Sector.makeRoom_fits_stored (arrival := arrival) hn ((hfits hn).2 hf)
        fun m hlt => (hfits (hlt.le.trans hn)).not.2 (hm m hlt)
      rw [← hu] at h
      exact ⟨h.term, h.hfs, h.descriptors, h.blocks, h.events⟩
    case discarded =>
      have h := Sector.makeRoom_full_stored (arrival := arrival) fun m hle => (hfits hle).not.2 (hm m hle)
      rw [← hu] at h
      exact ⟨h.term, h.hfs, h.descriptors, h.blocks, h.events⟩

end Sys2Proof.Machine
end

section
/-! SUPPORT. The ends of the counts of age, yield and settle (R114, R146, R152): O8. -/

namespace Sys2Proof.Machine

/-! ### Events that change one record alone -/

theorem Sector.modTerm_congr {s : Sector} {t : TermNo} {f g : Terminal → Terminal} (h : f (s.term t) = g (s.term t)) :
    s.modTerm t f = s.modTerm t g := by
  unfold Sector.modTerm
  rw [h]

theorem Sector.onlyRecords_modTerm (s : Sector) (t : TermNo) (f : Terminal → Terminal) : OnlyRecords s (s.modTerm t f) :=
  ⟨rfl, rfl, rfl, rfl, rfl, rfl, rfl⟩

theorem Sector.onlyRecord_modTerm (s : Sector) (t : TermNo) (f : Terminal → Terminal) : OnlyRecord s (s.modTerm t f) t :=
  fun v hv => (Sector.term_modTerm s t v f).trans (if_neg hv)

/-- A record written as it stands reads as it stood. -/
theorem Sector.term_modTerm_self {s : Sector} {t : TermNo} {f : Terminal → Terminal} (h : f (s.term t) = s.term t) (v : TermNo) :
    (s.modTerm t f).term v = s.term v := by
  rw [Sector.term_modTerm]
  split
  · next hv => rw [h, hv]
  · rfl

/-- An event that adds to no event set is its sector changed. -/
theorem State.event_eq {s : State} {f : Sector → Sector} {u : Sector} (h : f s.sector = u) (he : u.events = s.sector.events) :
    s.event f = { s with sector := u } := by
  rw [State.event_quiet s f (by rw [h]; exact he), ← h]
  rfl

theorem State.event_idle {s : State} {f : Sector → Sector} (h : f s.sector = s.sector) : s.event f = s := State.event_eq h rfl

/-! ### Aging (R146) -/

theorem dropWhile_eq_drop {α : Type} (p : α → Bool) (l : List α) : l.dropWhile p = l.drop (l.takeWhile p).length := by
  induction l with
  | nil => rfl
  | cons x l ih =>
    rw [List.dropWhile_cons, List.takeWhile_cons]
    split
    · exact ih
    · rfl

theorem HoldFields.idleIfEmpty_eq (h : HoldFields) :
    h.idleIfEmpty = if h.queue = [] then { release := .idle, yieldCount := 0, queue := [] } else h := by
  unfold HoldFields.idleIfEmpty HoldFields.toIdle
  cases hq : h.queue with
  | nil => rw [List.isEmpty_nil, if_pos rfl, if_pos rfl]
  | cons x l => rw [List.isEmpty_cons, if_neg (by decide), if_neg (List.cons_ne_nil _ _)]

section
variable {s : Sector} {t : TermNo}

/-- The heads of the queue that are too old (R146). -/
def Terminal.oldHeads (r : Terminal) : List HeldFrame := r.hold.queue.takeWhile fun h => decide (r.cfg.holdAge < h.age)

theorem Sector.ageDiscard_none (h : (s.term t).oldHeads = []) : s.ageDiscard t = s := by
  unfold Sector.ageDiscard
  exact if_pos (List.isEmpty_iff.2 h)

theorem Sector.ageDiscard_stored (h : (s.term t).oldHeads ≠ []) : s.Stored t
    { s.term t with
      hold := if (s.term t).hold.queue.drop (s.term t).oldHeads.length = [] then { release := .idle, yieldCount := 0, queue := [] }
        else { (s.term t).hold with queue := (s.term t).hold.queue.drop (s.term t).oldHeads.length }
      ctr := { (s.term t).ctr with discardAge := (s.term t).ctr.discardAge + BitVec.ofNat 32 (s.term t).oldHeads.length } }
    { s.hfs with heldAge := s.hfs.heldAge + BitVec.ofNat 32 (s.term t).oldHeads.length }
    (s.freeDescriptors + (s.term t).oldHeads.length) (s.freeBlocks + blocksOf (s.term t).oldHeads) s.events (s.ageDiscard t) := by
  have hleft := ((Sector.Stored.rfl' s t).giveBack (s.term t).oldHeads).modTerm fun r =>
    { r with hold := { r.hold with queue := r.hold.queue.dropWhile (HeldFrame.tooOld (s.term t).cfg.holdAge) }.idleIfEmpty }
  have hcounted := (hleft.modTerm fun r =>
    { r with ctr := { r.ctr with discardAge := r.ctr.discardAge + BitVec.ofNat 32 (s.term t).oldHeads.length } }).countHfs
      fun k => { k with heldAge := k.heldAge + BitVec.ofNat 32 (s.term t).oldHeads.length }
  unfold Sector.ageDiscard
  dsimp only
  rw [if_neg (show ¬ ((s.term t).hold.queue.takeWhile (HeldFrame.tooOld (s.term t).cfg.holdAge)).isEmpty = true from
    fun he => h (List.isEmpty_iff.1 he))]
  refine hcounted.congr ?_ rfl rfl rfl rfl
  rw [HoldFields.idleIfEmpty_eq, dropWhile_eq_drop]
  rfl

end

/-- Settles O8: each count's end by its condition. -/
theorem ageYieldAndSettleCountsEnd : Obligations.AgeYieldAndSettleCountsEnd := by
  refine ⟨fun t s => ?age, fun t s => ⟨fun hy hc => ?yields, fun h => ?yieldStays⟩,
    fun t s => ⟨fun hst hset => ?settles, fun h => ?settleStays⟩⟩
  case age =>
    intro r old rest n
    refine ⟨_, rfl, State.event_only s _, fun h => State.event_idle (Sector.ageDiscard_none h), fun h => ?_⟩
    have hs := Sector.ageDiscard_stored (s := s.sector) (t := t) h
    rw [State.event_sector]
    exact ⟨hs.only, hs.cars, hs.events, hs.term, hs.hfs, hs.descriptors, hs.blocks, hs.handed⟩
  case yields =>
    refine congrArg Host.Outcome.next (State.event_eq (Sector.modTerm_congr ?_) rfl)
    rw [HoldFields.yieldEnd, if_pos ⟨hy, hc⟩]
  case yieldStays =>
    refine ⟨_, rfl, State.event_only s _, ?_⟩
    rw [State.event_sector]
    have hsame := Sector.term_modTerm_self (s := s.sector) (t := t) (f := fun r => { r with hold := r.hold.yieldEnd })
      (by rw [HoldFields.yieldEnd, if_neg h])
    exact ⟨rfl, hsame, Sector.onlyRecords_modTerm _ _ _, rfl⟩
  case settles =>
    refine congrArg Host.Outcome.next (State.event_eq (Sector.modTerm_congr ?_) rfl)
    rw [Terminal.settleEnd, if_pos ⟨hst, hset⟩]
  case settleStays =>
    refine ⟨_, rfl, State.event_only s _, ?_⟩
    rw [State.event_sector]
    have hsame := Sector.term_modTerm_self (s := s.sector) (t := t) (f := Terminal.settleEnd) (by rw [Terminal.settleEnd, if_neg h])
    exact ⟨rfl, hsame, Sector.onlyRecords_modTerm _ _ _, rfl⟩

end Sys2Proof.Machine
end

section
/-! SUPPORT. What an event of one terminal makes of its record and of its carrier's record, the rest left as it is; the slot plan
of Section 4.4; FLUSH-HELD, RELEASE and PERMIT (R47, R51, R154): O24, O27 and O28. -/

namespace Sys2Proof.Machine

/-! ### One terminal and its carrier changed -/

/-- From `s` to `u` the record of `t` became `r`, that of carrier `c` became `k`, the PLD counters `p` and the event sets `e`;
everything else is as it was. -/
structure Sector.Turned (s : Sector) (t : TermNo) (c : CarrierNo) (r : Terminal) (k : Carrier) (p : PldCounters) (e : EventSets)
    (u : Sector) : Prop where
  only : OnlyRecord s u t
  term : u.term t = r
  onlyCar : OnlyCarrier s u c
  car : u.car c = k
  pld : u.pld = p
  events : u.events = e
  profiles : u.profiles = s.profiles
  descriptors : u.freeDescriptors = s.freeDescriptors
  blocks : u.freeBlocks = s.freeBlocks
  mark : u.storeLowMark = s.storeLowMark
  hfs : u.hfs = s.hfs
  handed : u.mlOut = s.mlOut

theorem Sector.Turned.rfl' (s : Sector) (t : TermNo) (c : CarrierNo) : s.Turned t c (s.term t) (s.car c) s.pld s.events s :=
  ⟨fun _ _ => rfl, rfl, fun _ _ => rfl, rfl, rfl, rfl, rfl, rfl, rfl, rfl, rfl, rfl⟩

theorem Sector.Turned.congr {s u : Sector} {t : TermNo} {c : CarrierNo} {r r' : Terminal} {k k' : Carrier} {p p' : PldCounters}
    {e e' : EventSets} (h : s.Turned t c r k p e u) (hr : r' = r) (hk : k' = k) (hp : p' = p) (he : e' = e) :
    s.Turned t c r' k' p' e' u := by
  subst hr hk hp he
  exact h

section
variable {s a : Sector} {t : TermNo} {c : CarrierNo} {r : Terminal} {k : Carrier} {p : PldCounters} {e : EventSets}
  (h : s.Turned t c r k p e a)
include h

theorem Sector.Turned.trans {r' : Terminal} {k' : Carrier} {p' : PldCounters} {e' : EventSets} {u : Sector}
    (g : a.Turned t c r' k' p' e' u) : s.Turned t c r' k' p' e' u where
  only v hv := (g.only v hv).trans (h.only v hv)
  term := g.term
  onlyCar d hd := (g.onlyCar d hd).trans (h.onlyCar d hd)
  car := g.car
  pld := g.pld
  events := g.events
  profiles := g.profiles.trans h.profiles
  descriptors := g.descriptors.trans h.descriptors
  blocks := g.blocks.trans h.blocks
  mark := g.mark.trans h.mark
  hfs := g.hfs.trans h.hfs
  handed := g.handed.trans h.handed

theorem Sector.Turned.modTerm (f : Terminal → Terminal) : s.Turned t c (f r) k p e (a.modTerm t f) where
  only v hv := ((Sector.term_modTerm a t v f).trans (if_neg hv)).trans (h.only v hv)
  term := ((Sector.term_modTerm a t t f).trans (if_pos rfl)).trans (congrArg f h.term)
  onlyCar := h.onlyCar
  car := h.car
  pld := h.pld
  events := h.events
  profiles := h.profiles
  descriptors := h.descriptors
  blocks := h.blocks
  mark := h.mark
  hfs := h.hfs
  handed := h.handed

theorem Sector.Turned.modCar (f : Carrier → Carrier) : s.Turned t c r (f k) p e (a.modCar c f) where
  only := h.only
  term := h.term
  onlyCar d hd := ((Sector.car_modCar a c d f).trans (if_neg hd)).trans (h.onlyCar d hd)
  car := ((Sector.car_modCar a c c f).trans (if_pos rfl)).trans (congrArg f h.car)
  pld := h.pld
  events := h.events
  profiles := h.profiles
  descriptors := h.descriptors
  blocks := h.blocks
  mark := h.mark
  hfs := h.hfs
  handed := h.handed

theorem Sector.Turned.note (f : EventSets → EventSets) : s.Turned t c r k p (f e) (a.note f) :=
  { h with events := congrArg f h.events }

theorem Sector.Turned.countPld (f : PldCounters → PldCounters) : s.Turned t c r k (f p) e (a.countPld f) :=
  { h with pld := congrArg f h.pld }

/-- A terminal whose link state changed joins STATE-CHANGE (R35). -/
theorem Sector.Turned.moved {before : Sector} (hne : (before.term t).link.state ≠ r.link.state) :
    s.Turned t c r k p { e with stateChange := insertNo t e.stateChange } (Sector.noteStateChange before a t) := by
  unfold Sector.noteStateChange
  rw [h.term, if_neg hne]
  exact h.note (·.addStateChange t)

theorem Sector.Turned.onlyRecords (hp : p = s.pld) : OnlyRecords s a :=
  ⟨h.profiles, h.descriptors, h.blocks, h.mark, h.pld.trans hp, h.hfs, h.handed⟩

theorem Sector.Turned.onlySlots (hk : { k with slots := [] } = { s.car c with slots := [] }) : OnlySlots s a c :=
  ⟨h.onlyCar, by rw [h.car]; exact hk⟩

theorem Sector.Turned.cars (hk : k = s.car c) : a.cars = s.cars := by
  refine Vector.ext fun i hi => ?_
  by_cases hic : (⟨i, hi⟩ : CarrierNo) = c
  · subst hic; exact h.car.trans hk
  · exact h.onlyCar ⟨i, hi⟩ hic

theorem Sector.Turned.profile (q : ProfileNo) : a.profile q = s.profile q := by
  unfold Sector.profile
  rw [h.profiles]

theorem Sector.Turned.usable (cfg : TermConfig) (q : ProfileNo) : a.usable cfg q = s.usable cfg q := by
  unfold Sector.usable
  rw [h.profile]

end

/-! ### Slot kinds (R80, R81) -/

theorem Carrier.mapSlots_frame (f : SlotUse → SlotUse) (l : List SlotNo) (k : Carrier) :
    { k.mapSlots f l with slots := [] } = { k with slots := [] } := by
  unfold Carrier.mapSlots
  induction l generalizing k with
  | nil => rfl
  | cons x l ih => exact (ih _).trans rfl

theorem Carrier.slotUse_mapSlots {f : SlotUse → SlotUse} (hf : ∀ u, f (f u) = f u) (l : List SlotNo) (k : Carrier) (x : SlotNo) :
    (k.mapSlots f l).slotUse x = if x ∈ l then f (k.slotUse x) else k.slotUse x := by
  unfold Carrier.mapSlots
  induction l generalizing k with
  | nil => rfl
  | cons y l ih =>
    rw [List.foldl_cons, ih, Carrier.slotUse_setSlot]
    by_cases hx : x = y
    · subst hx
      simp only [if_true, List.mem_cons, true_or, hf, ite_self]
    · simp only [hx, if_false, List.mem_cons, false_or]

theorem SlotUse.lendFrom_idem (t : TermNo) (u : SlotUse) : (u.lendFrom t).lendFrom t = u.lendFrom t := by
  unfold SlotUse.lendFrom
  by_cases h : u = .traffic t
  · rw [if_pos h]; rfl
  · rw [if_neg h, if_neg h]

theorem SlotUse.mark_idem (t : TermNo) (u : SlotUse) : (u.mark t).mark t = u.mark t := by
  cases u with
  | lent o m =>
    by_cases ho : o = t
    · simp only [SlotUse.mark, ho, if_true]
    · simp only [SlotUse.mark, ho, if_false]
  | opened => rfl
  | reentry => rfl
  | traffic o => rfl

theorem SlotUse.unmark_idem (t : TermNo) (u : SlotUse) : (u.unmark t).unmark t = u.unmark t := by
  cases u with
  | lent o m =>
    by_cases ho : o = t
    · simp only [SlotUse.unmark, ho, if_true]
    · simp only [SlotUse.unmark, ho, if_false]
  | opened => rfl
  | reentry => rfl
  | traffic o => rfl

/-- The carrier with the slots `l` lent by `t` where `b` is yes (R80). -/
def Carrier.lentIf (b : Bool) (t : TermNo) (l : List SlotNo) (k : Carrier) : Carrier :=
  if b then k.mapSlots (SlotUse.lendFrom t) l else k

theorem Carrier.lentIf_frame (b : Bool) (t : TermNo) (l : List SlotNo) (k : Carrier) :
    { k.lentIf b t l with slots := [] } = { k with slots := [] } := by
  unfold Carrier.lentIf
  split
  · exact Carrier.mapSlots_frame _ _ _
  · rfl

theorem Carrier.slotUse_lentIf (b : Bool) (t : TermNo) (l : List SlotNo) (k : Carrier) (x : SlotNo) :
    (k.lentIf b t l).slotUse x = if b = true ∧ x ∈ l ∧ k.slotUse x = .traffic t then .lent t false else k.slotUse x := by
  unfold Carrier.lentIf
  cases b with
  | false => exact (if_neg fun h => Bool.false_ne_true h.1).symm
  | true =>
    rw [if_pos rfl, Carrier.slotUse_mapSlots (SlotUse.lendFrom_idem t)]
    unfold SlotUse.lendFrom
    simp only [true_and, ite_and]

/-! ### The moves' own parts -/

section
variable {s a : Sector} {t : TermNo} {c : CarrierNo} {r : Terminal} {k : Carrier} {p : PldCounters} {e : EventSets}
  (h : s.Turned t c r k p e a)
include h

theorem Sector.Turned.lend (hc : r.cfg.carrier = c) : s.Turned t c r (k.lentIf true t r.cfg.homeSlots) p e (a.lend t) := by
  unfold Sector.lend
  dsimp only
  rw [h.term, hc]
  exact h.modCar fun k => k.mapSlots (SlotUse.lendFrom t) r.cfg.homeSlots

/-- The lending check (R37, R42). -/
theorem Sector.Turned.lendingCheck (hc : r.cfg.carrier = c) :
    s.Turned t c r (k.lentIf r.link.lendTaken t r.cfg.homeSlots) p e (a.lendingCheck t) := by
  unfold Sector.lendingCheck
  rw [h.term]
  cases hl : r.link.lendTaken with
  | true => exact h.lend hc
  | false => exact h

/-- Entering DARK (R37). -/
theorem Sector.Turned.enterDark (hc : r.cfg.carrier = c) (old : LinkState) :
    s.Turned t c (r.toDark old) (k.lentIf (r.toDark old).link.lendTaken t r.cfg.homeSlots) p e (a.enterDark t old) :=
  (h.modTerm (Terminal.toDark old)).lendingCheck hc

/-- Entering GUARD (R42). -/
theorem Sector.Turned.enterGuard (hc : r.cfg.carrier = c) :
    s.Turned t c r.toGuard (k.lentIf r.link.lendTaken t r.cfg.homeSlots) p e (a.enterGuard t) :=
  (h.modTerm Terminal.toGuard).lendingCheck hc

theorem Sector.Turned.enterServing : s.Turned t c r.toServing k p e (a.enterServing t) := h.modTerm Terminal.toServing

theorem Sector.Turned.setCause (x : Cause) : s.Turned t c { r with link := { r.link with cause := x } } k p e (a.setCause t x) :=
  h.modTerm fun r => { r with link := { r.link with cause := x } }

theorem Sector.Turned.oweHalt : s.Turned t c { r with owed := { r.owed with halt := true } } k p e (a.oweHalt t) :=
  h.modTerm fun r => { r with owed := { r.owed with halt := true } }

theorem Sector.Turned.suppress :
    s.Turned t c { r with ctr := { r.ctr with suppressed := r.ctr.suppressed + 1 } } k p e (a.suppress t) :=
  h.modTerm fun r => { r with ctr := { r.ctr with suppressed := r.ctr.suppressed + 1 } }

/-- Leaving ADMITTING, the slots' part (R36). -/
theorem Sector.Turned.stopReclaim (hc : r.cfg.carrier = c) :
    s.Turned t c { r with adm := { r.adm with reclaimPending := false } } (k.mapSlots (SlotUse.unmark t) r.cfg.homeSlots) p e
      (a.stopReclaim t) := by
  unfold Sector.stopReclaim
  dsimp only
  rw [h.term, hc]
  exact (h.modCar fun k => k.mapSlots (SlotUse.unmark t) r.cfg.homeSlots).modTerm
    fun r => { r with adm := { r.adm with reclaimPending := false } }

/-! ### Leaving a state (R36) -/

theorem Sector.Turned.leave_idle (how : Departure)
    (hs : r.link.state = .held ∨ r.link.state = .dark ∨ r.link.state = .serving) : s.Turned t c r k p e (a.leave t how) := by
  unfold Sector.leave
  rw [h.term]
  rcases hs with hs | hs | hs <;> rw [hs] <;> exact h

theorem Sector.Turned.leave_called (how : Departure) (hs : r.link.state = .called) (hc : r.cfg.carrier = c) :
    s.Turned t c r { k with res := { k.res with queue := k.res.queue.filter fun e => decide (e.terminal ≠ t) } } p e
      (a.leave t how) := by
  unfold Sector.leave Sector.leaveQueue Sector.carrierOf
  rw [h.term, hs, hc]
  exact h.modCar fun k => { k with res := { k.res with queue := k.res.queue.filter fun e => decide (e.terminal ≠ t) } }

theorem Sector.Turned.leave_admitting (how : Departure) (hs : r.link.state = .admitting) (hc : r.cfg.carrier = c) :
    s.Turned t c
      { r with adm := { r.adm with reclaimPending := false, sent := none }, owed := { r.owed with admission := false } }
      (k.mapSlots (SlotUse.unmark t) r.cfg.homeSlots) p e (a.leave t how) := by
  unfold Sector.leave
  rw [h.term, hs]
  exact (h.stopReclaim hc).modTerm fun r =>
    { r with adm := { r.adm with sent := none }, owed := { r.owed with admission := false } }

theorem Sector.Turned.leave_fading (how : Departure) (hs : r.link.state = .fading) :
    s.Turned t c { r with link := { r.link with fadeOn := false } } k p e (a.leave t how) := by
  unfold Sector.leave
  rw [h.term, hs]
  exact h.modTerm fun r => { r with link := { r.link with fadeOn := false } }

theorem Sector.Turned.leave_guard (how : Departure) (hs : r.link.state = .guard) :
    s.Turned t c { r with link := { r.link with guardOn := false } } k p e (a.leave t how) := by
  unfold Sector.leave
  rw [h.term, hs]
  exact h.modTerm fun r => { r with link := { r.link with guardOn := false } }

end

theorem Terminal.toDark_state (old : LinkState) (r : Terminal) : (r.toDark old).link.state = .dark := rfl

theorem Terminal.toDark_cfg (old : LinkState) (r : Terminal) : (r.toDark old).cfg = r.cfg := rfl

/-! ### Requests on the link state at one terminal (R46, R154) -/

/-- A link-state request that is not refused, at one configured terminal: it is answered DONE after its one event (R46). -/
theorem State.serveGroup_link {s : State} {r : Request} {code : Nat} {t : TermNo} {plan : Request → Selector → GroupPlan}
    {answer : Request → State → TermNo → State × Status → Reply} {one : Application} {refuses : Terminal → Bool}
    {act : Sector → TermNo → Sector} (hone : one = applyLink refuses act) (h : s.headIs r code) (ht : r.selectsTerminal t)
    (hp : plan r (.terminal t) = .apply one)
    (hc : (s.sector.term t).cfg.configured = true) (hr : refuses (s.sector.term t) = false) :
    let u := s.serveGroup code plan answer
    let a := answer r s t (s.event fun x => act x t, .done)
    Answered s u r a.status a.body ∧ OnlyLinkAnswered s u ∧ u.sector = act s.sector t := by
  have hu := State.serveGroup_terminal plan answer noField h ht hp
  rw [hone, applyLink_done act hc hr] at hu
  dsimp only
  rw [hu]
  exact ⟨(State.event_only s _).answered r _, (State.event_only s _).onlyLinkAnswered h.2.2.2 r _, State.event_sector s _⟩

theorem emptyPlan_of_empty {one : Application} {r : Request} (hb : r.body = []) (sel : Selector) :
    emptyPlan one r sel = .apply one := if_pos hb

/-! ### FLUSH-HELD (R154) -/

theorem Sector.Stored.emptyQueue {s a : Sector} {t : TermNo} {r : Terminal} {k : HfsCounters} {d b : Nat} {e : EventSets}
    (h : s.Stored t r k d b e a) :
    s.Stored t { r with hold := { release := .idle, yieldCount := 0, queue := [] } } k (d + r.hold.queue.length)
      (b + blocksOf r.hold.queue) e (a.emptyQueue t) := by
  unfold Sector.emptyQueue
  rw [h.term]
  exact (h.giveBack r.hold.queue).modTerm fun r => { r with hold := { release := .idle, yieldCount := 0, queue := [] } }

theorem Sector.flush_stored (s : Sector) (t : TermNo) :
    let n : Counter := BitVec.ofNat 32 (s.term t).hold.queue.length
    s.Stored t { s.term t with
        hold := { release := .idle, yieldCount := 0, queue := [] }
        ctr := { (s.term t).ctr with discardFlush := (s.term t).ctr.discardFlush + n } }
      { s.hfs with heldFlush := s.hfs.heldFlush + n } (s.freeDescriptors + (s.term t).hold.queue.length)
      (s.freeBlocks + blocksOf (s.term t).hold.queue) s.events (s.flush t) :=
  ((Sector.Stored.rfl' s t).emptyQueue.modTerm fun r =>
    { r with ctr := { r.ctr with discardFlush := r.ctr.discardFlush + BitVec.ofNat 32 (s.term t).hold.queue.length } }).countHfs
      fun k => { k with heldFlush := k.heldFlush + BitVec.ofNat 32 (s.term t).hold.queue.length }

/-- Settles O28: the queue given back, the record idle, the discard counted. -/
theorem flushHeldEmptiesQueue : Obligations.FlushHeldEmptiesQueue := by
  intro r t s h ht hb hc x n
  obtain ⟨hans, honly, hsec⟩ := State.serveGroup_link (one := flushOne) (answer := flushAnswer) rfl h ht
    (emptyPlan_of_empty hb _) hc rfl
  have hs := s.sector.flush_stored t
  refine ⟨_, rfl, hans, honly, ?_⟩
  rw [hsec]
  exact ⟨hs.only, hs.term, hs.cars, hs.events, hs.handed, hs.hfs, hs.descriptors, hs.blocks⟩

/-! ### RELEASE (R47) -/

section
variable {s : Sector} {t : TermNo}

/-- The record of `t` with its forced mark cleared. -/
def Terminal.unforced (r : Terminal) : Terminal := { r with link := { r.link with forced := false } }

/-- RELEASE where the terminal stays in its state. -/
theorem Sector.releaseTerm_stays
    (h : ¬ ((s.term t).link.state = .held ∨ ((s.term t).link.state = .guard ∧ (s.term t).link.guardOn = false)))
    (c : CarrierNo) : s.Turned t c (s.term t).unforced (s.car c) s.pld s.events (s.releaseTerm t) := by
  unfold Sector.releaseTerm
  dsimp only
  rw [if_neg h]
  exact (Sector.Turned.rfl' s t c).modTerm Terminal.unforced

/-- RELEASE of a HELD terminal, and of a GUARD one whose guard timer has stopped. -/
theorem Sector.releaseTerm_dark
    (h : (s.term t).link.state = .held ∨ ((s.term t).link.state = .guard ∧ (s.term t).link.guardOn = false)) :
    s.Turned t (s.term t).cfg.carrier ((s.term t).unforced.toDark (s.term t).link.state)
      ((s.car (s.term t).cfg.carrier).lentIf ((s.term t).unforced.toDark (s.term t).link.state).link.lendTaken t
        (s.term t).cfg.homeSlots)
      s.pld { s.events with stateChange := insertNo t s.events.stateChange } (s.releaseTerm t) := by
  have hclear := (Sector.Turned.rfl' s t (s.term t).cfg.carrier).modTerm Terminal.unforced
  have hleft : s.Turned t (s.term t).cfg.carrier (s.term t).unforced (s.car (s.term t).cfg.carrier) s.pld s.events
      ((s.modTerm t Terminal.unforced).leave t .request) := by
    rcases h with hh | ⟨hg, hoff⟩
    · exact hclear.leave_idle .request (.inl hh)
    · refine (hclear.leave_guard .request hg).congr ?_ rfl rfl rfl
      unfold Terminal.unforced
      dsimp only
      rw [← hoff]
  have hdark := hleft.enterDark rfl (s.term t).link.state
  unfold Sector.releaseTerm
  dsimp only
  rw [if_pos h]
  refine hdark.moved ?_
  rw [Terminal.toDark_state]
  rcases h with hh | ⟨hg, -⟩
  · rw [hh]; decide
  · rw [hg]; decide

end

/-- Settles O24: a HELD or timer-stopped GUARD terminal enters DARK, any other keeps its state. -/
theorem releaseClearsForcedMark : Obligations.ReleaseClearsForcedMark := by
  intro r t s h ht hb hc x home cleared
  obtain ⟨hans, honly, hsec⟩ := State.serveGroup_link (one := releaseOne) (answer := linkAnswer) rfl h ht
    (emptyPlan_of_empty hb _) hc rfl
  have hreply (y : Terminal) (hy : (s.sector.releaseTerm t).term t = y) (hf : y.link.forced = false) :
      (linkAnswer r s t (s.event fun x => x.releaseTerm t, .done)).body = [BitVec.ofNat 8 y.link.state.code, 0] := by
    unfold linkAnswer
    dsimp only
    rw [State.event_sector, hy, Terminal.linkBody, hf]
    rfl
  refine ⟨_, rfl, ?_⟩
  rw [hsec]
  by_cases hd : x.link.state = .held ∨ (x.link.state = .guard ∧ x.link.guardOn = false)
  · have hs := Sector.releaseTerm_dark hd
    have hforced : (x.unforced.toDark x.link.state).link.forced = false := by
      unfold Terminal.toDark Terminal.unforced LinkFields.startOutage
      dsimp only
      split <;> rfl
    rw [hreply _ hs.term hforced] at hans
    rw [hs.term, hs.events, hs.car]
    refine ⟨hans, honly, hs.only, hs.onlySlots (Carrier.lentIf_frame _ _ _ _), hs.onlyRecords rfl, fun hst => ?_, fun hst _ => ?_,
      fun _ => ⟨rfl, fun slot => Carrier.slotUse_lentIf _ _ _ _ _⟩, fun hn => absurd hd hn⟩
    · rw [show (s.sector.term t).link.state = .held from hst]; rfl
    · rw [show (s.sector.term t).link.state = .guard from hst]; rfl
  · have hs := Sector.releaseTerm_stays hd (s.sector.term t).cfg.carrier
    rw [hreply _ hs.term rfl] at hans
    rw [hs.term, hs.events]
    exact ⟨hans, honly, hs.only, hs.onlySlots rfl, hs.onlyRecords rfl, fun hst => absurd (.inl hst) hd,
      fun hst hg => absurd (.inr ⟨hst, hg⟩) hd, fun hd' => absurd hd' hd, fun _ => ⟨rfl, hs.cars rfl, rfl⟩⟩

/-! ### PERMIT (R51) and the conditions of admission (R59) -/

theorem Sector.lentTo_iff {s : Sector} {c : CarrierNo} {slot : SlotNo} {t : TermNo} :
    s.lentTo c slot t = true ↔ ∃ m, (s.car c).slotUse slot = .lent t m := by
  unfold Sector.lentTo
  cases (s.car c).slotUse slot with
  | lent o m => simp only [decide_eq_true_eq, SlotUse.lent.injEq, exists_and_left, exists_eq', and_true]
  | opened => simp only [Bool.false_eq_true, reduceCtorEq, exists_const]
  | reentry => simp only [Bool.false_eq_true, reduceCtorEq, exists_const]
  | traffic o => simp only [Bool.false_eq_true, reduceCtorEq, exists_const]

/-- Some home slot of `t` is LENT for it. -/
def Sector.someLent (s : Sector) (t : TermNo) : Prop :=
  ∃ slot ∈ (s.term t).cfg.homeSlots, ∃ m, (s.car (s.term t).cfg.carrier).slotUse slot = .lent t m

theorem Sector.admissible_iff {s : Sector} {t : TermNo} : s.admissible t = true ↔
    ¬ s.someLent t ∧ (s.term t).adm.reclaimPending = false ∧ ((s.term t).link.permit = true ∨ (s.term t).cfg.autoAdmit = true) := by
  unfold Sector.admissible Sector.someLent
  simp only [Bool.and_eq_true, Bool.not_eq_true', Bool.or_eq_true, and_assoc, List.any_eq_false, Sector.lentTo_iff, not_exists, not_and]

/-- The conditions under which an examination owes an ADMIT (R59). -/
def Sector.admits (s : Sector) (t : TermNo) : Prop :=
  (s.term t).link.state = .admitting ∧ (s.term t).owed.admission = false ∧ (s.term t).adm.sent = none ∧ s.admissible t = true

/-- The record with an ADMIT owed, its permit used up but under automatic admission (R59). -/
def Terminal.owingAdmit (r : Terminal) : Terminal :=
  { r with owed := { r.owed with admission := true }, link := { r.link with permit := r.link.permit && r.cfg.autoAdmit } }

theorem Sector.examineAdmission_admits {s : Sector} {t : TermNo} (h : s.admits t) :
    s.examineAdmission t = s.modTerm t Terminal.owingAdmit := if_pos h

theorem Sector.examineAdmission_idle {s : Sector} {t : TermNo} (h : ¬ s.admits t) : s.examineAdmission t = s := if_neg h

/-- PERMIT at a terminal that is not HELD: the flag is set, or an ADMIT is owed and the permit is kept under automatic admission
alone (R51, R59). -/
theorem Sector.permitTerm_spec (s : Sector) (t : TermNo) :
    let x := s.term t
    let ready := x.link.state = .admitting ∧ x.owed.admission = false ∧ x.adm.sent = none ∧ ¬ s.someLent t ∧
      x.adm.reclaimPending = false
    ∃ y : Terminal, s.Turned t x.cfg.carrier y (s.car x.cfg.carrier) s.pld s.events (s.permitTerm t) ∧
      y.link.state = x.link.state ∧ y.link.forced = x.link.forced ∧
      (¬ ready → y = { x with link := { x.link with permit := true } }) ∧
      (ready → y = { x with link := { x.link with permit := x.cfg.autoAdmit }, owed := { x.owed with admission := true } }) := by
  intro x ready
  have hset := (Sector.Turned.rfl' s t x.cfg.carrier).modTerm fun r => { r with link := { r.link with permit := true } }
  have hadmits : (s.modTerm t fun r => { r with link := { r.link with permit := true } }).admits t ↔ ready := by
    unfold Sector.admits
    rw [Sector.admissible_iff, Sector.someLent, hset.term, hset.car]
    exact ⟨fun ⟨ha, ho, hn, hl, hr, _⟩ => ⟨ha, ho, hn, hl, hr⟩,
      fun ⟨ha, ho, hn, hl, hr⟩ => ⟨ha, ho, hn, hl, hr, .inl rfl⟩⟩
  by_cases hr : ready
  · refine ⟨{ x with link := { x.link with permit := x.cfg.autoAdmit }, owed := { x.owed with admission := true } }, ?_, rfl, rfl,
      fun hn => absurd hr hn, fun _ => rfl⟩
    rw [Sector.permitTerm, Sector.modLink, Sector.examineAdmission_admits (hadmits.2 hr)]
    refine (hset.modTerm Terminal.owingAdmit).congr ?_ rfl rfl rfl
    unfold Terminal.owingAdmit
    dsimp only
    rw [Bool.true_and]
  · refine ⟨{ x with link := { x.link with permit := true } }, ?_, rfl, rfl, fun _ => rfl, fun hy => absurd hy hr⟩
    rw [Sector.permitTerm, Sector.modLink, Sector.examineAdmission_idle fun ha => hr (hadmits.1 ha)]
    exact hset

/-- Settles O27: the flag, then the examination of R59. -/
theorem permitSetsFlagOrOwesAdmit : Obligations.PermitSetsFlagOrOwesAdmit := by
  intro r t s h ht hb hc hheld x lent ready
  obtain ⟨hans, honly, hsec⟩ := State.serveGroup_link (one := permitOne) (answer := linkAnswer) rfl h ht (emptyPlan_of_empty hb _) hc
    (decide_eq_false hheld)
  obtain ⟨y, hs, hst, hf, hstays, howes⟩ := s.sector.permitTerm_spec t
  have hbody : (linkAnswer r s t (s.event fun x => x.permitTerm t, .done)).body =
      [BitVec.ofNat 8 x.link.state.code, if x.link.forced then 1 else 0] := by
    unfold linkAnswer
    dsimp only
    rw [State.event_sector, hs.term, Terminal.linkBody, hst, hf, bit]
    split <;> rfl
  rw [hbody] at hans
  refine ⟨_, rfl, hans, honly, ?_⟩
  rw [hsec, hs.term]
  exact ⟨hs.only, hs.cars rfl, hs.events, hs.onlyRecords rfl, hstays, howes⟩

end Sys2Proof.Machine
end

section
/-! SUPPORT. The ends of counts (R45, R57, R60 to R62, R81, R134): O39, O40 and O41. -/

namespace Sys2Proof.Machine

/-! ### Lending and the outage compares (R45) -/

section
variable {s : Sector} {t : TermNo}

/-- The condition of the lend compare (R45). -/
def LinkFields.lendDue (l : LinkFields) : Prop := l.outageOn = true ∧ l.outage = l.lendActive ∧ l.lendTaken = false

/-- The condition of the warm compare (R45). -/
def LinkFields.warmDue (l : LinkFields) : Prop := l.outageOn = true ∧ l.outage = l.warmActive ∧ l.warmClosed = false

/-- The states in which the lend compare lends an absent terminal's slots (R45). -/
def LinkState.lends : LinkState → Bool
  | .dark => true
  | .called => true
  | .trimming => true
  | .guard => true
  | .held => false
  | .admitting => false
  | .serving => false
  | .fading => false

theorem Sector.lendCompare_idle (h : ¬ (s.term t).link.lendDue) : s.lendCompare t = s := if_neg h

/-- The record with its lend match taken. -/
def Terminal.lendMatched (r : Terminal) : Terminal := { r with link := { r.link with lendTaken := true } }

theorem Sector.lendCompare_of (h : (s.term t).link.lendDue) : s.lendCompare t =
    if (s.term t).link.state.lends then (s.modTerm t Terminal.lendMatched).lend t else s.modTerm t Terminal.lendMatched := by
  unfold Sector.lendCompare
  dsimp only
  rw [if_pos (show _ ∧ _ ∧ _ from h)]
  cases (s.term t).link.state with
  | dark | called | trimming | guard | held | admitting | serving | fading => rfl

theorem Sector.lendCompare_due (h : (s.term t).link.lendDue) :
    s.Turned t (s.term t).cfg.carrier (s.term t).lendMatched
      ((s.car (s.term t).cfg.carrier).lentIf (s.term t).link.state.lends t (s.term t).cfg.homeSlots) s.pld s.events
      (s.lendCompare t) := by
  have htaken := (Sector.Turned.rfl' s t (s.term t).cfg.carrier).modTerm Terminal.lendMatched
  rw [Sector.lendCompare_of h]
  cases (s.term t).link.state.lends with
  | true => exact htaken.lend rfl
  | false => exact htaken

theorem Sector.warmCompare_idle (h : ¬ (s.term t).link.warmDue) : s.warmCompare t = s := if_neg h

theorem Sector.warmCompare_due (h : (s.term t).link.warmDue) (c : CarrierNo) :
    s.Turned t c { s.term t with link := { (s.term t).link with warmClosed := true } } (s.car c) s.pld s.events (s.warmCompare t) := by
  rw [show s.warmCompare t = _ from if_pos h]
  exact (Sector.Turned.rfl' s t c).modTerm fun r => { r with link := { r.link with warmClosed := true } }

/-! ### The fade and guard timers (R57, R62) -/

/-- The fade timer of a FADING terminal has reached its active copy (R57). -/
def LinkFields.fadeDue (l : LinkFields) : Prop := l.state = .fading ∧ l.fadeOn = true ∧ l.fadeActive ≤ l.fadeCount

/-- The guard timer of a GUARD terminal has reached its active copy (R62). -/
def LinkFields.guardDue (l : LinkFields) : Prop := l.state = .guard ∧ l.guardOn = true ∧ l.guardActive ≤ l.guardCount

/-- FADING ends in DARK with last cause FADE and a fresh outage (R56, R57). -/
theorem Sector.Turned.fadeOut {a : Sector} {r : Terminal} {k : Carrier} {p : PldCounters} {e : EventSets}
    (h : s.Turned t r.cfg.carrier r k p e a) (hst : r.link.state = .fading) :
    s.Turned t r.cfg.carrier (Terminal.toDark .fading { r with link := { r.link with cause := .fade, fadeOn := false } })
      (k.lentIf (decide (r.cfg.lendDelay = 0)) t r.cfg.homeSlots) p { e with stateChange := insertNo t e.stateChange } (a.fadeOut t) := by
  have hdark := ((h.setCause .fade).leave_fading .progress hst).enterDark rfl .fading
  refine hdark.moved ?_
  rw [h.term, hst, Terminal.toDark_state]
  decide

theorem Sector.fadeExpiry_idle (h : ¬ (s.term t).link.fadeDue) : s.fadeExpiry t = s := if_neg h

theorem Sector.fadeExpiry_forced (h : (s.term t).link.fadeDue) (hf : (s.term t).link.forced = true) (c : CarrierNo) :
    s.Turned t c
      { s.term t with
        link := { (s.term t).link with fadeOn := false }
        ctr := { (s.term t).ctr with suppressed := (s.term t).ctr.suppressed + 1 } }
      (s.car c) s.pld s.events (s.fadeExpiry t) := by
  rw [show s.fadeExpiry t = _ from if_pos h, if_pos hf]
  exact (Sector.Turned.rfl' s t c).suppress.modTerm fun r => { r with link := { r.link with fadeOn := false } }

theorem Sector.fadeExpiry_due (h : (s.term t).link.fadeDue) (hf : (s.term t).link.forced = false) :
    s.Turned t (s.term t).cfg.carrier
      (Terminal.toDark .fading { s.term t with link := { (s.term t).link with cause := .fade, fadeOn := false } })
      ((s.car (s.term t).cfg.carrier).lentIf (decide ((s.term t).cfg.lendDelay = 0)) t (s.term t).cfg.homeSlots) s.pld
      { s.events with stateChange := insertNo t s.events.stateChange } (s.fadeExpiry t) := by
  rw [show s.fadeExpiry t = _ from if_pos h, hf, if_neg Bool.false_ne_true]
  exact (Sector.Turned.rfl' s t (s.term t).cfg.carrier).fadeOut h.1

theorem Sector.guardEnd_idle (h : ¬ (s.term t).link.guardDue) : s.guardEnd t = s := if_neg h

theorem Sector.guardEnd_forced (h : (s.term t).link.guardDue) (hf : (s.term t).link.forced = true) (c : CarrierNo) :
    s.Turned t c
      { s.term t with
        link := { (s.term t).link with guardOn := false }
        ctr := { (s.term t).ctr with suppressed := (s.term t).ctr.suppressed + 1 } }
      (s.car c) s.pld s.events (s.guardEnd t) := by
  rw [show s.guardEnd t = _ from if_pos h, if_pos hf]
  exact (Sector.Turned.rfl' s t c).suppress.modTerm fun r => { r with link := { r.link with guardOn := false } }

theorem Sector.guardEnd_due (h : (s.term t).link.guardDue) (hf : (s.term t).link.forced = false) :
    s.Turned t (s.term t).cfg.carrier
      (Terminal.toDark .guard { s.term t with link := { (s.term t).link with guardOn := false } })
      ((s.car (s.term t).cfg.carrier).lentIf (s.term t).link.lendTaken t (s.term t).cfg.homeSlots) s.pld
      { s.events with stateChange := insertNo t s.events.stateChange } (s.guardEnd t) := by
  rw [show s.guardEnd t = _ from if_pos h, hf, if_neg Bool.false_ne_true]
  have hdark := ((Sector.Turned.rfl' s t (s.term t).cfg.carrier).leave_guard .progress h.1).enterDark rfl .guard
  refine hdark.moved ?_
  rw [h.1, Terminal.toDark_state]
  decide

end

/-- Settles O39: each compare and each expiry by its condition. -/
theorem outageAndTimersEnd : Obligations.OutageAndTimersEnd := by
  refine ⟨fun t s => ⟨?lend, ?warm⟩, fun t s => ?fade, fun t s => ?guard⟩
  case lend =>
    refine ⟨_, rfl, State.event_only s _, ?_⟩
    rw [State.event_sector]
    by_cases hd : (s.sector.term t).link.lendDue
    · have hs := Sector.lendCompare_due hd
      refine ⟨hs.only, hs.onlySlots (Carrier.lentIf_frame _ _ _ _), hs.onlyRecords rfl, hs.events, fun _ _ _ => ⟨hs.term, fun hl slot => ?_,
        fun hl => hs.cars ?_⟩, fun hn => absurd hd hn⟩
      · have hlends : (s.sector.term t).link.state.lends = true := by
          rcases hl with h | h | h | h <;> rw [h] <;> rfl
        rw [hs.car, Carrier.slotUse_lentIf, hlends]
        simp only [true_and]
      · have hstays : (s.sector.term t).link.state.lends = false := by
          cases hst : (s.sector.term t).link.state with
          | held | admitting | serving | fading => rfl
          | dark | called | trimming | guard => simp [hst] at hl
        rw [hstays]
        rfl
    · have hs := Sector.lendCompare_idle hd
      rw [hs]
      exact ⟨fun _ _ => rfl, ⟨fun _ _ => rfl, rfl⟩, ⟨rfl, rfl, rfl, rfl, rfl, rfl, rfl⟩, rfl, fun h₁ h₂ h₃ => absurd ⟨h₁, h₂, h₃⟩ hd,
        fun _ => State.event_idle hs⟩
  case warm =>
    refine ⟨_, rfl, State.event_only s _, ?_⟩
    rw [State.event_sector]
    by_cases hd : (s.sector.term t).link.warmDue
    · have hs := Sector.warmCompare_due hd (s.sector.term t).cfg.carrier
      exact ⟨hs.only, hs.cars rfl, hs.onlyRecords rfl, hs.events, fun _ _ _ => hs.term, fun hn => absurd hd hn⟩
    · have hs := Sector.warmCompare_idle hd
      rw [hs]
      exact ⟨fun _ _ => rfl, rfl, ⟨rfl, rfl, rfl, rfl, rfl, rfl, rfl⟩, rfl, fun h₁ h₂ h₃ => absurd ⟨h₁, h₂, h₃⟩ hd,
        fun _ => State.event_idle hs⟩
  case fade =>
    refine ⟨_, rfl, State.event_only s _, ?_⟩
    rw [State.event_sector]
    by_cases hd : (s.sector.term t).link.fadeDue
    · cases hf : (s.sector.term t).link.forced with
      | true =>
        have hs := Sector.fadeExpiry_forced hd hf (s.sector.term t).cfg.carrier
        exact ⟨hs.only, hs.onlySlots rfl, hs.onlyRecords rfl, fun _ h => absurd h (by decide), fun _ _ => ⟨hs.term, hs.cars rfl, hs.events⟩,
          fun hn => absurd hd hn⟩
      | false =>
        have hs := Sector.fadeExpiry_due hd hf
        refine ⟨hs.only, hs.onlySlots (Carrier.lentIf_frame _ _ _ _), hs.onlyRecords rfl, fun _ _ => ⟨hs.term, hs.events, fun slot => ?_⟩,
          fun _ h => absurd h (by decide), fun hn => absurd hd hn⟩
        rw [hs.car, Carrier.slotUse_lentIf]
        simp only [decide_eq_true_eq]
    · have hs := Sector.fadeExpiry_idle hd
      rw [hs]
      exact ⟨fun _ _ => rfl, ⟨fun _ _ => rfl, rfl⟩, ⟨rfl, rfl, rfl, rfl, rfl, rfl, rfl⟩, fun h => absurd h hd, fun h => absurd h hd,
        fun _ => State.event_idle hs⟩
  case guard =>
    refine ⟨_, rfl, State.event_only s _, ?_⟩
    rw [State.event_sector]
    by_cases hd : (s.sector.term t).link.guardDue
    · cases hf : (s.sector.term t).link.forced with
      | true =>
        have hs := Sector.guardEnd_forced hd hf (s.sector.term t).cfg.carrier
        exact ⟨hs.only, hs.onlySlots rfl, hs.onlyRecords rfl, fun _ h => absurd h (by decide), fun _ _ => ⟨hs.term, hs.cars rfl, hs.events⟩,
          fun hn => absurd hd hn⟩
      | false =>
        have hs := Sector.guardEnd_due hd hf
        refine ⟨hs.only, hs.onlySlots (Carrier.lentIf_frame _ _ _ _), hs.onlyRecords rfl, fun _ _ => ⟨hs.term, hs.events, fun slot => ?_⟩,
          fun _ h => absurd h (by decide), fun hn => absurd hd hn⟩
        rw [hs.car, Carrier.slotUse_lentIf]
    · have hs := Sector.guardEnd_idle hd
      rw [hs]
      exact ⟨fun _ _ => rfl, ⟨fun _ _ => rfl, rfl⟩, ⟨rfl, rfl, rfl, rfl, rfl, rfl, rfl⟩, fun h => absurd h hd, fun h => absurd h hd,
        fun _ => State.event_idle hs⟩

/-! ### The ends of an admission (R60, R61) -/

theorem FrameNo.reached_iff {f e : FrameNo} : FrameNo.reached f e = true ↔ (f - e).toNat ≤ 32767 := by
  unfold FrameNo.reached FrameNo.later
  simp only [Bool.or_eq_true, Bool.and_eq_true, decide_eq_true_eq]
  bv_omega

theorem Carrier.slotUse_unmark {k : Carrier} {t : TermNo} {l : List SlotNo} {x : SlotNo} {m : Bool} (hx : x ∈ l)
    (h : k.slotUse x = .lent t m) : (k.mapSlots (SlotUse.unmark t) l).slotUse x = .lent t false := by
  rw [Carrier.slotUse_mapSlots (SlotUse.unmark_idem t), if_pos hx, h]
  exact if_pos rfl

section
variable {s : Sector} {t : TermNo}

/-- The wait of an ADMITTING terminal whose ADMIT is not sent is at the carrier's limit (R60). -/
def Sector.admitDue (s : Sector) (t : TermNo) : Prop :=
  (s.term t).link.state = .admitting ∧ (s.term t).adm.sent = none ∧
    (s.car (s.term t).cfg.carrier).cfg.admitWaitLimit ≤ (s.term t).adm.wait

theorem Sector.admitExpiry_idle (h : ¬ s.admitDue t) : s.admitExpiry t = s := if_neg h

theorem Sector.admitExpiry_forced (h : s.admitDue t) (hf : (s.term t).link.forced = true) (c : CarrierNo) :
    s.Turned t c { s.term t with ctr := { (s.term t).ctr with suppressed := (s.term t).ctr.suppressed + 1 } } (s.car c) s.pld s.events
      (s.admitExpiry t) := by
  rw [show s.admitExpiry t = _ from if_pos h, if_pos hf]
  exact (Sector.Turned.rfl' s t c).suppress

theorem Sector.admitExpiry_due (h : s.admitDue t) (hf : (s.term t).link.forced = false) :
    s.Turned t (s.term t).cfg.carrier
      { s.term t with
        link := { (s.term t).link with state := .guard, cause := .noPermit, permit := false, guardOn := true, guardCount := 0
                                       guardActive := (s.term t).cfg.guardPeriod }
        adm := { (s.term t).adm with reclaimPending := false, sent := none }
        ladder := { (s.term t).ladder with pending := none, assembly := [], stepUp := 0 }
        hold := { (s.term t).hold with release := .idle, yieldCount := 0 }
        owed := { (s.term t).owed with halt := true, profile := false, admission := false } }
      (((s.car (s.term t).cfg.carrier).mapSlots (SlotUse.unmark t) (s.term t).cfg.homeSlots).lentIf (s.term t).link.lendTaken t
        (s.term t).cfg.homeSlots)
      s.pld { s.events with stateChange := insertNo t s.events.stateChange } (s.admitExpiry t) := by
  rw [show s.admitExpiry t = _ from if_pos h, hf, if_neg Bool.false_ne_true]
  have hcause := (Sector.Turned.rfl' s t (s.term t).cfg.carrier).setCause .noPermit
  have hleft := hcause.leave_admitting .progress h.1 rfl
  refine ((hleft.enterGuard rfl).oweHalt).moved ?_
  rw [h.1]
  exact show LinkState.admitting ≠ .guard by decide

/-- The ADMIT sent to an ADMITTING terminal takes effect at or before frame `f` (R61). -/
def Terminal.effectiveBy (f : FrameNo) (r : Terminal) : Prop :=
  r.link.state = .admitting ∧ ∃ e, r.adm.sent = some e ∧ (f - e).toNat ≤ 32767

variable {f : FrameNo}

theorem Sector.effectiveReached_idle (h : ¬ (s.term t).effectiveBy f) : s.effectiveReached f t = s := by
  unfold Sector.effectiveReached
  dsimp only
  split
  · rfl
  · next e he => exact if_neg fun ⟨hst, hf⟩ => h ⟨hst, e, he, FrameNo.reached_iff.1 hf⟩

theorem Sector.effectiveReached_of (h : (s.term t).effectiveBy f) : s.effectiveReached f t =
    if (s.term t).link.forced then s.suppress t else Sector.noteStateChange s ((s.leave t .progress).enterServing t) t := by
  obtain ⟨hst, e, he, hf⟩ := h
  unfold Sector.effectiveReached
  dsimp only
  rw [he]
  exact if_pos ⟨hst, FrameNo.reached_iff.2 hf⟩

theorem Sector.effectiveReached_forced (h : (s.term t).effectiveBy f) (hf : (s.term t).link.forced = true) (c : CarrierNo) :
    s.Turned t c { s.term t with ctr := { (s.term t).ctr with suppressed := (s.term t).ctr.suppressed + 1 } } (s.car c) s.pld s.events
      (s.effectiveReached f t) := by
  rw [Sector.effectiveReached_of h, if_pos hf]
  exact (Sector.Turned.rfl' s t c).suppress

theorem Sector.effectiveReached_due (h : (s.term t).effectiveBy f) (hf : (s.term t).link.forced = false) :
    s.Turned t (s.term t).cfg.carrier
      (Terminal.toServing { s.term t with adm := { (s.term t).adm with reclaimPending := false, sent := none }
                                          owed := { (s.term t).owed with admission := false } })
      ((s.car (s.term t).cfg.carrier).mapSlots (SlotUse.unmark t) (s.term t).cfg.homeSlots) s.pld
      { s.events with stateChange := insertNo t s.events.stateChange } (s.effectiveReached f t) := by
  rw [Sector.effectiveReached_of h, hf, if_neg Bool.false_ne_true]
  have hserving := ((Sector.Turned.rfl' s t (s.term t).cfg.carrier).leave_admitting .progress h.1 rfl).enterServing
  refine hserving.moved ?_
  rw [h.1]
  exact show LinkState.admitting ≠ .serving by decide

end

/-- Settles O40: the expiry enters GUARD, the effective frame SERVING. -/
theorem admissionEndsInGuardOrServing : Obligations.AdmissionEndsInGuardOrServing := by
  refine ⟨fun t s => ?expiry, fun t s => ?effective⟩
  case expiry =>
    refine ⟨_, rfl, State.event_only s _, ?_⟩
    rw [State.event_sector]
    by_cases hd : s.sector.admitDue t
    · cases hf : (s.sector.term t).link.forced with
      | true =>
        have hs := Sector.admitExpiry_forced hd hf (s.sector.term t).cfg.carrier
        exact ⟨hs.only, hs.onlySlots rfl, hs.onlyRecords rfl, fun _ h => absurd h (by decide), fun _ _ => ⟨hs.term, hs.cars rfl, hs.events⟩,
          fun hn => absurd hd hn⟩
      | false =>
        have hs := Sector.admitExpiry_due hd hf
        refine ⟨hs.only, hs.onlySlots ((Carrier.lentIf_frame _ _ _ _).trans (Carrier.mapSlots_frame _ _ _)), hs.onlyRecords rfl,
          fun _ _ => ⟨hs.term, hs.events, fun slot hslot m hm => ?_⟩, fun _ h => absurd h (by decide), fun hn => absurd hd hn⟩
        have hunmarked := Carrier.slotUse_unmark hslot hm
        rw [hs.car, Carrier.slotUse_lentIf, hunmarked, if_neg]
        exact fun h => SlotUse.noConfusion h.2.2
    · have hs := Sector.admitExpiry_idle hd
      rw [hs]
      exact ⟨fun _ _ => rfl, ⟨fun _ _ => rfl, rfl⟩, ⟨rfl, rfl, rfl, rfl, rfl, rfl, rfl⟩, fun h => absurd h hd, fun h => absurd h hd,
        fun _ => State.event_idle hs⟩
  case effective =>
    refine ⟨_, rfl, State.event_only s _, ?_⟩
    rw [State.event_sector]
    unfold Sector.carrierOf
    by_cases hd : (s.sector.term t).effectiveBy (s.sector.car (s.sector.term t).cfg.carrier).lastFrame
    · cases hf : (s.sector.term t).link.forced with
      | true =>
        have hs := Sector.effectiveReached_forced hd hf (s.sector.term t).cfg.carrier
        exact ⟨hs.only, hs.onlySlots rfl, hs.onlyRecords rfl, fun _ h => absurd h (by decide), fun _ _ => ⟨hs.term, hs.cars rfl, hs.events⟩,
          fun hn => absurd hd hn⟩
      | false =>
        have hs := Sector.effectiveReached_due hd hf
        exact ⟨hs.only, hs.onlySlots (Carrier.mapSlots_frame _ _ _), hs.onlyRecords rfl, fun _ _ => ⟨hs.term, hs.events⟩,
          fun _ h => absurd h (by decide), fun hn => absurd hd hn⟩
    · have hs := Sector.effectiveReached_idle hd
      rw [hs]
      exact ⟨fun _ _ => rfl, ⟨fun _ _ => rfl, rfl⟩, ⟨rfl, rfl, rfl, rfl, rfl, rfl, rfl⟩, fun h => absurd h hd, fun h => absurd h hd,
        fun _ => State.event_idle hs⟩

end Sys2Proof.Machine
end

section
/-! SUPPORT. The apply frame and the reclaim (R81, R134): O41. Carrier indications (R71 to R73): O42. -/

namespace Sys2Proof.Machine

/-! ### The apply frame (R134) -/

section
variable {s : Sector} {t : TermNo}

theorem Sector.applyReached_idle {f : FrameNo}
    (h : ∀ p a, (s.term t).ladder.pending = some p → p.apply = some a → 32767 < (f - a).toNat) : s.applyReached f t = s := by
  unfold Sector.applyReached
  split
  · next p hp =>
    split
    · next a ha => exact if_neg fun hr => absurd (h p a hp ha) (not_lt.2 (FrameNo.reached_iff.1 hr))
    · rfl
  · rfl

theorem Sector.applyReached_due {f : FrameNo} {p : PendingProfile} {a : FrameNo} (hp : (s.term t).ladder.pending = some p)
    (ha : p.apply = some a) (hf : (f - a).toNat ≤ 32767) : s.applyReached f t = s.applyPending t p := by
  unfold Sector.applyReached
  simp only [hp, ha, FrameNo.reached_iff.2 hf, if_true]

/-- The ladder fields after the pending profile `p` is applied, margins carried over by `carry` (R134). -/
def LadderFields.applied (p : PendingProfile) (carry : Int → Int) (l : LadderFields) : LadderFields :=
  { current := p.target, pending := none, assembly := [], stepUp := 0
    report := l.report.map fun z => { z with margin := carry z.margin }, upMargin := l.upMargin.map carry }

theorem carryOver_eq (old new : Nat) (m : Int) : carryOver old new m = max (-128) (min 127 (m + (old : Int) - (new : Int))) := by
  unfold carryOver clampTo
  split
  · omega
  · split <;> omega

/-- The margins of the record `r` carried over to the profile `p` (R134). -/
def Sector.carry (s : Sector) (r : Terminal) (p : PendingProfile) (m : Int) : Int :=
  max (-128) (min 127 (m + ((s.profile r.ladder.current).requiredSnr : Int) - ((s.profile p.target).requiredSnr : Int)))

theorem Sector.applyPending_turned (s : Sector) (t : TermNo) (p : PendingProfile) (c : CarrierNo) :
    s.Turned t c
      { s.term t with
        ladder := (s.term t).ladder.applied p (s.carry (s.term t) p)
        ctr := if p.direction = .stepDown then { (s.term t).ctr with stepsDown := (s.term t).ctr.stepsDown + 1 }
          else { (s.term t).ctr with stepsUp := (s.term t).ctr.stepsUp + 1 } }
      (s.car c) (if p.direction = .stepDown then { s.pld with appliedDown := s.pld.appliedDown + 1 }
        else { s.pld with appliedUp := s.pld.appliedUp + 1 }) s.events (s.applyPending t p) := by
  have hmoved := (Sector.Turned.rfl' s t c).modTerm fun r =>
    { r with ladder := r.ladder.applied p (s.carry (s.term t) p) }
  have hcarry : carryOver (s.profile (s.term t).ladder.current).requiredSnr (s.profile p.target).requiredSnr = s.carry (s.term t) p :=
    funext fun m => carryOver_eq _ _ m
  unfold Sector.applyPending
  rw [hcarry]
  cases p.direction with
  | stepDown =>
    exact (hmoved.modTerm fun r => { r with ctr := { r.ctr with stepsDown := r.ctr.stepsDown + 1 } }).countPld
      fun k => { k with appliedDown := k.appliedDown + 1 }
  | stepUp =>
    exact (hmoved.modTerm fun r => { r with ctr := { r.ctr with stepsUp := r.ctr.stepsUp + 1 } }).countPld
      fun k => { k with appliedUp := k.appliedUp + 1 }

/-! ### The examination of admission (R59) -/

/-- What an examination makes of a record: it is left, or an ADMIT is owed (R59). -/
theorem Sector.Turned.examine {a : Sector} {c : CarrierNo} {r : Terminal} {k : Carrier} {p : PldCounters} {e : EventSets}
    (h : s.Turned t c r k p e a) :
    (a.admits t ∧ s.Turned t c r.owingAdmit k p e (a.examineAdmission t)) ∨
      (¬ a.admits t ∧ s.Turned t c r k p e (a.examineAdmission t)) := by
  by_cases hd : a.admits t
  · exact .inl ⟨hd, by rw [Sector.examineAdmission_admits hd]; exact h.modTerm Terminal.owingAdmit⟩
  · exact .inr ⟨hd, by rw [Sector.examineAdmission_idle hd]; exact h⟩

/-! ### Reclaim (R81) -/

theorem Carrier.columnEmpty_iff {k : Carrier} {slot : SlotNo} :
    k.columnEmpty slot = true ↔ ∀ row ∈ k.calendar, row.cell slot = .empty := by
  unfold Carrier.columnEmpty
  simp only [List.all_eq_true, decide_eq_true_eq]

theorem Sector.reclaiming_iff {c : CarrierNo} {slot : SlotNo} :
    s.reclaiming c slot t = decide ((s.car c).slotUse slot = .lent t true) := by
  unfold Sector.reclaiming
  cases (s.car c).slotUse slot with
  | lent o m => cases m <;> simp
  | opened => rfl
  | reentry => rfl
  | traffic o => rfl

variable {c : CarrierNo} {slot : SlotNo}

theorem Sector.reclaimSlot_idle (h : (∀ t, (s.car c).slotUse slot ≠ .lent t true) ∨ ¬ ∀ row ∈ (s.car c).calendar, row.cell slot = .empty) :
    Sector.reclaimSlot c s slot = s := by
  unfold Sector.reclaimSlot
  split
  · next t hl =>
    rcases h with h | h
    · exact absurd hl (h t)
    · exact if_neg fun hc => h (Carrier.columnEmpty_iff.1 hc)
  · rfl
  · rfl
  · rfl
  · rfl

/-- The sector with one slot TRAFFIC again and the reclaim-pending field of its terminal examined (R81). -/
def Sector.turnBack (s : Sector) (c : CarrierNo) (slot : SlotNo) (t : TermNo) : Sector :=
  (s.modCar c fun k => k.setSlot slot (.traffic t)).modAdm t fun a =>
    { a with reclaimPending := (s.modCar c fun k => k.setSlot slot (.traffic t)).anyReclaiming t }

theorem Sector.reclaimSlot_due (hl : (s.car c).slotUse slot = .lent t true) (hc : ∀ row ∈ (s.car c).calendar, row.cell slot = .empty) :
    Sector.reclaimSlot c s slot = (s.turnBack c slot t).examineAdmission t := by
  unfold Sector.reclaimSlot
  rw [hl]
  exact if_pos (Carrier.columnEmpty_iff.2 hc)

theorem Sector.turnBack_turned (s : Sector) (c : CarrierNo) (slot : SlotNo) (t : TermNo) :
    s.Turned t c
      { s.term t with adm := { (s.term t).adm with
          reclaimPending := (s.modCar c fun k => k.setSlot slot (.traffic t)).anyReclaiming t } }
      ((s.car c).setSlot slot (.traffic t)) s.pld s.events (s.turnBack c slot t) :=
  ((Sector.Turned.rfl' s t c).modCar fun k => k.setSlot slot (.traffic t)).modTerm fun r =>
    { r with adm := { r.adm with reclaimPending := (s.modCar c fun k => k.setSlot slot (.traffic t)).anyReclaiming t } }

theorem Sector.anyReclaiming_turned (hb : (s.term t).cfg.carrier = c) :
    (s.modCar c fun k => k.setSlot slot (.traffic t)).anyReclaiming t =
      (s.term t).cfg.homeSlots.any fun x => decide (x ≠ slot) && decide ((s.car c).slotUse x = .lent t true) := by
  unfold Sector.anyReclaiming
  dsimp only
  rw [Sector.term_modCar, hb]
  refine congrArg (List.any _) (funext fun x => ?_)
  rw [Sector.reclaiming_iff, Sector.car_modCar, if_pos rfl, Carrier.slotUse_setSlot]
  by_cases hx : x = slot
  · simp [hx]
  · simp [hx]

end

/-- Settles O41: the pending profile applied, and the slot turned back with its examination. -/
theorem applyFrameAndReclaim : Obligations.ApplyFrameAndReclaim := by
  refine ⟨fun t s => ⟨fun p a hp ha hf => ?applies, fun h => ?waits⟩, fun c slot s => ⟨fun t hl hclear => ?reclaims, fun h => ?stays⟩⟩
  case applies =>
    have hs := Sector.applyPending_turned s.sector t p (s.sector.term t).cfg.carrier
    refine ⟨_, rfl, State.event_only s _, ?_⟩
    rw [State.event_sector, Sector.carrierOf, Sector.applyReached_due hp ha hf]
    exact ⟨hs.only, hs.cars rfl, hs.events, hs.profiles, hs.term, hs.pld⟩
  case waits => exact congrArg Host.Outcome.next (State.event_idle (Sector.applyReached_idle h))
  case reclaims =>
    have hturned := Sector.turnBack_turned s.sector c slot t
    have hslots : { (s.sector.car c).setSlot slot (.traffic t) with slots := [] } = { s.sector.car c with slots := [] } := rfl
    have hslot (x : SlotNo) := Carrier.slotUse_setSlot (s.sector.car c) slot x (.traffic t)
    refine ⟨_, rfl, State.event_only s _, ?_⟩
    rw [State.event_sector, Sector.reclaimSlot_due hl hclear]
    rcases hturned.examine with ⟨hadmits, hs⟩ | ⟨hnot, hs⟩
    · rw [hs.car, hs.term]
      exact ⟨hs.only, hs.onlySlots hslots, hs.onlyRecords rfl, hs.events, (hslot slot).trans (if_pos rfl),
        fun x hx => (hslot x).trans (if_neg hx), rfl, fun hb => Sector.anyReclaiming_turned hb, fun _ => rfl, fun _ _ _ _ _ => rfl⟩
    · rw [hs.car, hs.term]
      refine ⟨hs.only, hs.onlySlots hslots, hs.onlyRecords rfl, hs.events, (hslot slot).trans (if_pos rfl),
        fun x hx => (hslot x).trans (if_neg hx), rfl, fun hb => Sector.anyReclaiming_turned hb, id,
        fun hst hsent hb hnone hperm => by_contra fun howed => hnot ?_⟩
      have hany : (s.sector.modCar c fun k => k.setSlot slot (.traffic t)).anyReclaiming t = false := by
        rw [Sector.anyReclaiming_turned hb, List.any_eq_false]
        intro x hx
        by_cases hxs : x = slot
        · simp [hxs]
        · simp [hxs, hnone x hx hxs true]
      refine ⟨by rw [hturned.term]; exact hst, by rw [hturned.term]; exact Bool.eq_false_iff.2 howed, by rw [hturned.term]; exact hsent, ?_⟩
      rw [Sector.admissible_iff, Sector.someLent, hturned.term]
      refine ⟨fun ⟨x, hx, m, hm⟩ => ?_, hany, hperm⟩
      rw [show ({ s.sector.term t with adm := _ } : Terminal).cfg.carrier = c from hb, hturned.car, hslot] at hm
      split at hm
      · cases hm
      · next hxs => exact hnone x hx hxs m hm
  case stays => exact congrArg Host.Outcome.next (State.event_idle (Sector.reclaimSlot_idle h))

end Sys2Proof.Machine
end

section
/-! SUPPORT. What leaving a link state makes of the record and of the carrier (R36, R98, R115); an event at each terminal of a
carrier; carrier indications (R63, R71 to R73) and CARRIER-RESTART (R64, R74, R179): O42 and O32. -/

namespace Sys2Proof.Machine

/-! ### Leaving a state, as a change of two records (R36) -/

/-- The record of a terminal whose owed grant is withdrawn (R98). -/
def Terminal.withdrawn (r : Terminal) : Terminal :=
  match r.owed.grant with
  | none => r
  | some _ =>
    { r with range := { r.range with attempts := r.range.attempts - 1, grant := none }, owed := { r.owed with grant := none } }

/-- The record of a terminal that leaves its state. -/
def Terminal.left (how : Departure) (r : Terminal) : Terminal :=
  match r.link.state with
  | .held => r
  | .dark => r
  | .serving => r
  | .called => r
  | .trimming =>
    match how with
    | .progress => { r with range := { r.range with grant := none } }
    | .request => { r.withdrawn with range := { r.withdrawn.range with grant := none } }
    | .calendar => { r with range := { r.range with grant := none }, owed := { r.owed with grant := none } }
  | .admitting =>
    { r with adm := { r.adm with reclaimPending := false, sent := none }, owed := { r.owed with admission := false } }
  | .fading => { r with link := { r.link with fadeOn := false } }
  | .guard => { r with link := { r.link with guardOn := false } }

/-- The carrier with the owed grant of a record withdrawn (R98). -/
def Carrier.withdrawn (t : TermNo) (r : Terminal) (k : Carrier) : Carrier :=
  match r.owed.grant with
  | none => k
  | some g =>
    { k.clearGrant t g with resCtr := { (k.clearGrant t g).resCtr with grantsWithdrawn := (k.clearGrant t g).resCtr.grantsWithdrawn + 1 } }

/-- The carrier whose terminal `t`, a TRIMMING one, left its ranging set. -/
def Carrier.unranged (t : TermNo) (k : Carrier) : Carrier :=
  { k with res := { k.res with ranging := k.res.ranging.filter fun x => decide (x ≠ t) } }

/-- The carrier with one exchange more counted as ended (R115). -/
def Carrier.ended (k : Carrier) : Carrier := { k with rng := { k.rng with ended := k.rng.ended + 1 } }

/-- The carrier whose terminal `t` leaves the state its record `r` has. -/
def Carrier.left (t : TermNo) (how : Departure) (r : Terminal) (k : Carrier) : Carrier :=
  match r.link.state with
  | .held => k
  | .dark => k
  | .serving => k
  | .fading => k
  | .guard => k
  | .called => { k with res := { k.res with queue := k.res.queue.filter fun e => decide (e.terminal ≠ t) } }
  | .trimming =>
    match how with
    | .progress => k.unranged t
    | .request => ((k.unranged t).withdrawn t r).ended
    | .calendar => (k.unranged t).ended
  | .admitting => k.mapSlots (SlotUse.unmark t) r.cfg.homeSlots

section
variable {s a : Sector} {t : TermNo} {c : CarrierNo} {r : Terminal} {k : Carrier} {p : PldCounters} {e : EventSets}
  (h : s.Turned t c r k p e a)
include h

/-- The unsent grant is withdrawn (R98). -/
theorem Sector.Turned.withdraw (hc : r.cfg.carrier = c) :
    s.Turned t c r.withdrawn (k.withdrawn t r) p e (a.withdraw t) := by
  unfold Sector.withdraw Carrier.withdrawn Terminal.withdrawn Sector.carrierOf
  rw [h.term, hc]
  cases hg : r.owed.grant with
  | none => exact h
  | some g =>
    exact ((h.modCar fun k => k.clearGrant t g).modTerm fun r =>
      { r with range := { r.range with attempts := r.range.attempts - 1, grant := none }
               owed := { r.owed with grant := none } }).modCar
        fun k => { k with resCtr := { k.resCtr with grantsWithdrawn := k.resCtr.grantsWithdrawn + 1 } }

theorem Sector.Turned.leave_trimming (how : Departure) (hs : r.link.state = .trimming) (hc : r.cfg.carrier = c) :
    s.Turned t c (r.left how) (k.left t how r) p e (a.leave t how) := by
  have hout := h.modCar (Carrier.unranged t)
  have hcar {b : Sector} {r' : Terminal} {k' : Carrier} (hb : s.Turned t c r' k' p e b) (hr : r'.cfg = r.cfg) : b.carrierOf t = c := by
    unfold Sector.carrierOf
    rw [hb.term, hr, hc]
  unfold Sector.leave
  rw [h.term, hs]
  unfold Terminal.left Carrier.left Sector.leaveTrimming Sector.leaveRanging Sector.modRes Sector.countRng
  rw [hcar h rfl, hs]
  cases how with
  | progress => exact hout.modTerm fun r => { r with range := { r.range with grant := none } }
  | calendar =>
    exact ((hout.modTerm fun r => { r with owed := { r.owed with grant := none } }).modCar Carrier.ended).modTerm
      fun r => { r with range := { r.range with grant := none } }
  | request =>
    dsimp only
    have hcarrier : (a.modCar c (Carrier.unranged t)).carrierOf t = c := hcar hout rfl
    exact ((hout.withdraw hc).modCar Carrier.ended).modTerm fun r => { r with range := { r.range with grant := none } }

/-- Leaving a state (R36). -/
theorem Sector.Turned.leave (how : Departure) (hc : r.cfg.carrier = c) :
    s.Turned t c (r.left how) (k.left t how r) p e (a.leave t how) := by
  cases hs : r.link.state with
  | held => simpa only [Terminal.left, Carrier.left, hs] using h.leave_idle how (.inl hs)
  | dark => simpa only [Terminal.left, Carrier.left, hs] using h.leave_idle how (.inr (.inl hs))
  | serving => simpa only [Terminal.left, Carrier.left, hs] using h.leave_idle how (.inr (.inr hs))
  | called => simpa only [Terminal.left, Carrier.left, hs] using h.leave_called how hs hc
  | trimming => exact h.leave_trimming how hs hc
  | admitting => simpa only [Terminal.left, Carrier.left, hs] using h.leave_admitting how hs hc
  | fading => simpa only [Terminal.left, Carrier.left, hs] using h.leave_fading how hs
  | guard => simpa only [Terminal.left, Carrier.left, hs] using h.leave_guard how hs

end

/-! ### What leaving keeps of the record -/

section
variable (how : Departure) (r : Terminal)

/-- What of a record leaving its state never changes. -/
structure Terminal.LeftAs (r y : Terminal) : Prop where
  cfg : y.cfg = r.cfg
  link : ∃ fade guard, y.link = { r.link with fadeOn := fade, guardOn := guard }
  ladder : y.ladder = r.ladder
  hold : y.hold = r.hold
  ctr : y.ctr = r.ctr
  halt : y.owed.halt = r.owed.halt
  profile : y.owed.profile = r.owed.profile

theorem Terminal.LeftAs.refl : r.LeftAs r := ⟨rfl, ⟨_, _, rfl⟩, rfl, rfl, rfl, rfl, rfl⟩

theorem Terminal.withdrawn_as : r.LeftAs r.withdrawn := by
  unfold Terminal.withdrawn
  split
  · exact .refl r
  · exact ⟨rfl, ⟨_, _, rfl⟩, rfl, rfl, rfl, rfl, rfl⟩

theorem Terminal.left_as : r.LeftAs (r.left how) := by
  unfold Terminal.left
  split
  case h_1 | h_2 | h_3 | h_4 => exact .refl r
  case h_5 =>
    cases how with
    | progress | calendar => exact ⟨rfl, ⟨_, _, rfl⟩, rfl, rfl, rfl, rfl, rfl⟩
    | request =>
      have h := r.withdrawn_as
      exact ⟨h.cfg, h.link, h.ladder, h.hold, h.ctr, h.halt, h.profile⟩
  case h_6 | h_7 | h_8 => exact ⟨rfl, ⟨_, _, rfl⟩, rfl, rfl, rfl, rfl, rfl⟩

end

/-- The carrier record with what an event of one of its terminals may change left out. -/
def Carrier.standing (k : Carrier) : Carrier :=
  { k with slots := [], calendar := [], resCtr := {}, rng := {}, res := { k.res with queue := [], ranging := [] } }

theorem Carrier.standing_of_frame {k j : Carrier} (h : { j with slots := [] } = { k with slots := [] }) : j.standing = k.standing := by
  have hs := congrArg Carrier.standing h
  exact hs

theorem Carrier.calendar_of_frame {k j : Carrier} (h : { j with slots := [] } = { k with slots := [] }) : j.calendar = k.calendar := by
  have hs := congrArg Carrier.calendar h
  exact hs

theorem Carrier.left_standing (t : TermNo) (how : Departure) (r : Terminal) (k : Carrier) :
    (k.left t how r).standing = k.standing := by
  have hgrant (x : Carrier) (g : GrantRef) : (x.clearGrant t g).standing = x.standing := by
    unfold Carrier.clearGrant
    split
    · split <;> rfl
    · rfl
  have hwithdrawn (x : Carrier) : (x.withdrawn t r).standing = x.standing := by
    unfold Carrier.withdrawn
    split
    · rfl
    · next g _ => exact hgrant x g
  unfold Carrier.left
  split
  case h_7 =>
    cases how with
    | progress | calendar => rfl
    | request => exact hwithdrawn (k.unranged t)
  case h_8 => exact Carrier.standing_of_frame (Carrier.mapSlots_frame _ _ _)
  all_goals rfl

theorem Carrier.left_calendar (t : TermNo) {how : Departure} (hhow : how ≠ .request) (r : Terminal) (k : Carrier) :
    (k.left t how r).calendar = k.calendar := by
  unfold Carrier.left
  split
  case h_7 =>
    cases how with
    | progress | calendar => rfl
    | request => exact absurd rfl hhow
  case h_8 => exact Carrier.calendar_of_frame (Carrier.mapSlots_frame _ _ _)
  all_goals rfl

theorem Carrier.lentIf_standing (b : Bool) (t : TermNo) (l : List SlotNo) (k : Carrier) : (k.lentIf b t l).standing = k.standing :=
  Carrier.standing_of_frame (Carrier.lentIf_frame b t l k)

theorem Carrier.lentIf_calendar (b : Bool) (t : TermNo) (l : List SlotNo) (k : Carrier) : (k.lentIf b t l).calendar = k.calendar :=
  Carrier.calendar_of_frame (Carrier.lentIf_frame b t l k)

/-! ### An event at each terminal of a carrier -/

/-- From `s` to `a` the records of the terminals `l` became what `f` makes of them, those that `moves` names joined STATE-CHANGE,
and of the carriers only `c` changed, in its slots, queue, set and counters. -/
structure Sector.Swept (c : CarrierNo) (f : Terminal → Terminal) (moves : Terminal → Prop) (l : List TermNo) (s a : Sector) : Prop where
  term : ∀ v, a.term v = if v ∈ l then f (s.term v) else s.term v
  onlyCar : OnlyCarrier s a c
  standing : (a.car c).standing = (s.car c).standing
  calendar : (a.car c).calendar = (s.car c).calendar
  carrier : a.events.carrier = s.events.carrier
  kept : ∀ v ∈ s.events.stateChange, v ∈ a.events.stateChange
  moved : ∀ v ∈ l, moves (s.term v) → v ∈ a.events.stateChange

section
variable {c : CarrierNo} {f : Terminal → Terminal} {moves : Terminal → Prop}

theorem Sector.Swept.nil (s : Sector) : Sector.Swept c f moves [] s s where
  term _ := (if_neg List.not_mem_nil).symm
  onlyCar _ _ := rfl
  standing := rfl
  calendar := rfl
  carrier := rfl
  kept _ := id
  moved _ hv := absurd hv List.not_mem_nil

theorem Sector.Swept.cons {t : TermNo} {l : List TermNo} (ht : t ∉ l) {s b a : Sector} (h : Sector.Swept c f moves [t] s b)
    (g : Sector.Swept c f moves l b a) : Sector.Swept c f moves (t :: l) s a where
  term v := by
    rw [g.term, h.term]
    by_cases hv : v = t
    · subst hv
      simp only [ht, if_false, List.mem_cons, true_or, if_true]
    · simp only [hv, List.mem_cons, List.not_mem_nil, or_self, if_false, false_or]
  onlyCar d hd := (g.onlyCar d hd).trans (h.onlyCar d hd)
  standing := g.standing.trans h.standing
  calendar := g.calendar.trans h.calendar
  carrier := g.carrier.trans h.carrier
  kept v hv := g.kept v (h.kept v hv)
  moved v hv hm := by
    rcases List.mem_cons.1 hv with rfl | hv
    · exact g.kept v (h.moved v List.mem_cons_self hm)
    · refine g.moved v hv ?_
      have hne : v ≠ t := fun e => ht (e ▸ hv)
      rw [h.term, if_neg (by simpa only [List.mem_singleton] using hne)]
      exact hm

/-- A fold over different terminals of carrier `c` whose step changes each of them alone. -/
theorem Sector.Swept.foldl {step : Sector → TermNo → Sector}
    (hstep : ∀ (x : Sector) (t : TermNo), (x.term t).cfg.carrier = c → Sector.Swept c f moves [t] x (step x t))
    (l : List TermNo) (hl : l.Nodup)
    (s : Sector) (hc : ∀ t ∈ l, (s.term t).cfg.carrier = c) : Sector.Swept c f moves l s (l.foldl step s) := by
  induction l generalizing s with
  | nil => exact .nil s
  | cons t l ih =>
    obtain ⟨htl, hl⟩ := List.nodup_cons.1 hl
    have ht := hstep s t (hc t List.mem_cons_self)
    refine .cons htl ht (ih hl _ fun v hv => ?_)
    have hne : v ∉ [t] := fun e => htl (List.mem_singleton.1 e ▸ hv)
    rw [ht.term, if_neg hne]
    exact hc v (List.mem_cons_of_mem t hv)

theorem Sector.Turned.swept {s a : Sector} {t : TermNo} {r : Terminal} {k : Carrier} {p : PldCounters} {e : EventSets}
    (h : s.Turned t c r k p e a) (hr : r = f (s.term t)) (hk : k.standing = (s.car c).standing) (hcal : k.calendar = (s.car c).calendar)
    (hcar : e.carrier = s.events.carrier) (hkept : ∀ v ∈ s.events.stateChange, v ∈ e.stateChange)
    (hmoved : moves (s.term t) → t ∈ e.stateChange) : Sector.Swept c f moves [t] s a where
  term v := by
    by_cases hv : v = t
    · subst hv
      rw [h.term, hr, if_pos List.mem_cons_self]
    · rw [h.only v hv, if_neg (by simpa only [List.mem_singleton] using hv)]
  onlyCar := h.onlyCar
  standing := by rw [h.car, hk]
  calendar := by rw [h.car, hcal]
  carrier := by rw [h.events, hcar]
  kept v hv := by rw [h.events]; exact hkept v hv
  moved v hv hm := by
    rw [List.mem_singleton] at hv
    subst hv
    rw [h.events]
    exact hmoved hm

end

theorem Sector.boundTo_nodup (s : Sector) (c : CarrierNo) : (s.boundTo c).Nodup := (List.nodup_finRange 256).filter _

theorem Sector.boundTo_congr {s a : Sector} {c : CarrierNo} (h : ∀ t, (a.term t).cfg = (s.term t).cfg) : a.boundTo c = s.boundTo c := by
  unfold Sector.boundTo Sector.bound
  simp only [h]

theorem Sector.carrier_of_mem_boundTo {s : Sector} {c : CarrierNo} {t : TermNo} (h : t ∈ s.boundTo c) : (s.term t).cfg.carrier = c := by
  unfold Sector.boundTo Sector.bound at h
  simp only [List.mem_filter, Bool.and_eq_true, decide_eq_true_eq] at h
  exact h.2.2

theorem Sector.mem_boundTo_iff {s : Sector} {c : CarrierNo} {t : TermNo} : t ∈ s.boundTo c ↔ s.bound c t = true := by
  unfold Sector.boundTo
  rw [List.mem_filter]
  exact and_iff_right (List.mem_finRange t)

/-! ### The calendar cleared (R73, R101) -/

/-- The record with no GRANT owed. -/
def Terminal.grantCleared (r : Terminal) : Terminal := { r with owed := { r.owed with grant := none } }

theorem Sector.clearCalendar_swept (s : Sector) (c : CarrierNo) :
    Sector.Swept c Terminal.grantCleared (fun _ => False) (s.boundTo c) (s.modCar c Carrier.clearCalendar) (s.clearCalendar c) := by
  refine Sector.Swept.foldl (fun x t _ => ?_) _ (s.boundTo_nodup c) _ fun t ht => Sector.carrier_of_mem_boundTo ht
  cases hg : (x.term t).owed.grant with
  | none =>
    simp only [Option.isSome_none, Bool.false_eq_true, if_false]
    refine (Sector.Turned.rfl' x t c).swept ?_ rfl rfl rfl (fun _ => id) False.elim
    unfold Terminal.grantCleared
    rw [← hg]
  | some g =>
    simp only [Option.isSome_some, if_true]
    exact ((Sector.Turned.rfl' x t c).modTerm Terminal.grantCleared).swept rfl rfl rfl rfl (fun _ => id) False.elim

/-! ### DARK with the carrier (R63, R64) -/

/-- The record of a terminal taken to DARK with its carrier. -/
def Terminal.darkened (r : Terminal) : Terminal := (r.left .calendar).toDark r.link.state

theorem Sector.Turned.darkWithCarrier {s a : Sector} {t : TermNo} {c : CarrierNo} {r : Terminal} {k : Carrier} {p : PldCounters}
    {e : EventSets} (h : s.Turned t c r k p e a) (hc : r.cfg.carrier = c) (hs : r.link.state ≠ .dark) :
    s.Turned t c r.darkened ((k.left t .calendar r).lentIf r.darkened.link.lendTaken t r.cfg.homeSlots) p
      { e with stateChange := insertNo t e.stateChange } (a.darkWithCarrier t) := by
  have hcfg := (Terminal.left_as .calendar r).cfg
  have hdark := (h.leave .calendar hc).enterDark (by rw [hcfg]; exact hc) r.link.state
  rw [hcfg] at hdark
  have hmoved : (a.term t).link.state ≠ r.darkened.link.state := by rw [h.term]; exact hs
  unfold Sector.darkWithCarrier
  dsimp only
  rw [h.term]
  exact hdark.moved hmoved

theorem Terminal.darkened_link (r : Terminal) :
    r.darkened.link.state = .dark ∧ r.darkened.link.cause = r.link.cause ∧ r.darkened.link.permit = r.link.permit ∧
      r.darkened.link.forced = r.link.forced := by
  obtain ⟨fade, guard, hl⟩ := (Terminal.left_as .calendar r).link
  unfold Terminal.darkened Terminal.toDark LinkFields.startOutage
  dsimp only
  rw [hl]
  split <;> exact ⟨rfl, rfl, rfl, rfl⟩

theorem Terminal.darkened_rest (r : Terminal) :
    r.darkened.cfg = r.cfg ∧ r.darkened.hold.queue = r.hold.queue ∧ r.darkened.ctr = r.ctr ∧ r.darkened.owed.halt = r.owed.halt := by
  have hl := Terminal.left_as .calendar r
  have hq := congrArg HoldFields.queue hl.hold
  exact ⟨hl.cfg, hq, hl.ctr, hl.halt⟩

/-! ### Carrier loss (R63, R73) -/

/-- The record of a terminal with the suppressed event counted (R52). -/
def Terminal.suppressedOnce (r : Terminal) : Terminal := { r with ctr := { r.ctr with suppressed := r.ctr.suppressed + 1 } }

/-- The record with its last cause set. -/
def Terminal.withCause (x : Cause) (r : Terminal) : Terminal := { r with link := { r.link with cause := x } }

/-- The record after the loss of its carrier (R63). -/
def Terminal.lost (r : Terminal) : Terminal :=
  if r.link.state.lostWithCarrier then (if r.link.forced then r.suppressedOnce else (r.withCause .carrier).darkened) else r

/-- The records that the loss of their carrier takes to DARK. -/
def Terminal.losesState (r : Terminal) : Prop := r.link.state.lostWithCarrier = true ∧ r.link.forced = false

theorem Sector.lossAt_swept (x : Sector) (t : TermNo) {c : CarrierNo} (hc : (x.term t).cfg.carrier = c) :
    Sector.Swept c Terminal.lost Terminal.losesState [t] x (x.lossAt t) := by
  have hself := Sector.Turned.rfl' x t c
  unfold Sector.lossAt
  dsimp only
  by_cases hl : (x.term t).link.state.lostWithCarrier = true
  · cases hf : (x.term t).link.forced with
    | true =>
      rw [if_pos hl, if_pos rfl]
      refine hself.suppress.swept ?_ rfl rfl rfl (fun _ => id) fun hm => absurd (hf.symm.trans hm.2) (by decide)
      unfold Terminal.lost
      rw [if_pos hl, if_pos hf]
      rfl
    | false =>
      have hne : (x.term t).link.state ≠ .dark := by
        intro h
        rw [h] at hl
        cases hl
      rw [if_pos hl, if_neg Bool.false_ne_true]
      refine ((hself.setCause .carrier).darkWithCarrier hc hne).swept ?_ ?_ ?_ rfl (fun v hv => mem_insertNo.2 (.inr hv))
        fun _ => mem_insertNo.2 (.inl rfl)
      · unfold Terminal.lost
        rw [if_pos hl, hf, if_neg Bool.false_ne_true]
        rfl
      · exact (Carrier.lentIf_standing _ _ _ _).trans (Carrier.left_standing _ _ _ _)
      · exact (Carrier.lentIf_calendar _ _ _ _).trans (Carrier.left_calendar t (by decide) _ _)
  · rw [if_neg hl]
    refine hself.swept ?_ rfl rfl rfl (fun _ => id) fun hm => absurd hm.1 hl
    unfold Terminal.lost
    rw [if_neg hl]

/-! ### Carrier states (R69 to R73) -/

theorem Sector.setCarrierState_moved {s : Sector} {c : CarrierNo} {x : CarrierState} (h : (s.car c).state ≠ x) :
    s.setCarrierState c x = (s.modCar c fun k => { k with state := x }).note (·.addCarrier c) := if_neg h

section
variable {s : Sector} {c : CarrierNo}

theorem Sector.onlyCarrier_modCar (s : Sector) (c : CarrierNo) (f : Carrier → Carrier) : OnlyCarrier s (s.modCar c f) c :=
  fun d hd => (Sector.car_modCar s c d f).trans (if_neg hd)

theorem Sector.car_modCar_self (s : Sector) (c : CarrierNo) (f : Carrier → Carrier) : (s.modCar c f).car c = f (s.car c) :=
  (Sector.car_modCar s c c f).trans (if_pos rfl)

theorem Sector.modCar_modCar (s : Sector) (c : CarrierNo) (f g : Carrier → Carrier) :
    (s.modCar c f).modCar c g = s.modCar c fun k => g (f k) := by
  have hset : (s.cars.set c (f s.cars[c])).set c (g (s.cars.set c (f s.cars[c]))[c]) = s.cars.set c (g (f s.cars[c])) := by simp
  exact congrArg (fun v => ({ s with cars := v } : Sector)) hset

/-- The carrier with one carrier-found indication more counted (R71). -/
def Carrier.foundOnce (k : Carrier) : Carrier := { k with csp := { k.csp with carrierFound := k.csp.carrierFound + 1 } }

/-- The carrier with one carrier-lost indication more counted (R73). -/
def Carrier.lostOnce (k : Carrier) : Carrier := { k with csp := { k.csp with carrierLost := k.csp.carrierLost + 1 } }

theorem Sector.carrierFound_idle (h : (s.car c).state ≠ .down) : s.carrierFound c = s.modCar c Carrier.foundOnce := if_neg h

theorem Sector.carrierFound_down (h : (s.car c).state = .down) :
    (s.carrierFound c).terms = s.terms ∧ OnlyCarrier s (s.carrierFound c) c ∧ OnlyRecords s (s.carrierFound c) ∧
      (s.carrierFound c).car c = { (s.car c).foundOnce with state := .recovering, recovery := 0 } ∧
      (s.carrierFound c).events = { s.events with carrier := insertNo c s.events.carrier } := by
  have hne : ((s.modCar c Carrier.foundOnce).car c).state ≠ .recovering := by
    rw [Sector.car_modCar_self]
    exact fun he => absurd (h.symm.trans he) (by decide)
  have hs := ((((Sector.Turned.rfl' s 0 c).modCar Carrier.foundOnce).modCar fun k => { k with state := .recovering }).note
    (·.addCarrier c)).modCar fun k => { k with recovery := 0 }
  have hfound : s.carrierFound c = ((((s.modCar c Carrier.foundOnce).modCar c fun k => { k with state := .recovering }).note
      (·.addCarrier c)).modCar c fun k => { k with recovery := 0 }) :=
    (if_pos h).trans (congrArg (Sector.modCar · c _) (Sector.setCarrierState_moved hne))
  rw [hfound]
  exact ⟨rfl, hs.onlyCar, hs.onlyRecords rfl, hs.car, hs.events⟩

/-- The condition of the end of recovery (R72). -/
def Carrier.recovered (k : Carrier) : Prop := k.state = .recovering ∧ k.cfg.recoveryPeriod ≤ k.recovery

theorem Sector.recoveryEnd_idle (h : ¬ (s.car c).recovered) : s.recoveryEnd c = s := if_neg h

theorem Sector.recoveryEnd_due (h : (s.car c).recovered) :
    s.recoveryEnd c = (s.modCar c fun k => { k with state := .up }).note (·.addCarrier c) := by
  refine (if_pos h).trans (Sector.setCarrierState_moved ?_)
  rw [h.1]
  decide

end

/-! ### The calendar cleared with the carrier (R63, R64, R73, R74) -/

theorem Sector.Swept.trans {c : CarrierNo} {f g : Terminal → Terminal} {m m' : Terminal → Prop} {l : List TermNo} {s b a : Sector}
    (h : Sector.Swept c f m l s b) (k : Sector.Swept c g m' l b a) :
    Sector.Swept c (fun r => g (f r)) (fun r => m' (f r)) l s a where
  term v := by
    rw [k.term, h.term]
    split <;> rfl
  onlyCar d hd := (k.onlyCar d hd).trans (h.onlyCar d hd)
  standing := k.standing.trans h.standing
  calendar := k.calendar.trans h.calendar
  carrier := k.carrier.trans h.carrier
  kept v hv := k.kept v (h.kept v hv)
  moved v hv hm := k.moved v hv (by rw [h.term, if_pos hv]; exact hm)

/-- The carrier with its calendar cleared and its recovery count 0. -/
def Carrier.cleared (k : Carrier) : Carrier := { k.clearCalendar with recovery := 0 }

/-- The sector with the calendar of carrier `c` cleared and its recovery count 0. -/
def Sector.cleared (s : Sector) (c : CarrierNo) : Sector := (s.clearCalendar c).modCar c fun k => { k with recovery := 0 }

theorem Sector.cleared_swept (s : Sector) (c : CarrierNo) :
    Sector.Swept c Terminal.grantCleared (fun _ => False) (s.boundTo c) (s.modCar c Carrier.cleared) (s.cleared c) := by
  have h := s.clearCalendar_swept c
  unfold Sector.cleared
  refine ⟨h.term, fun d hd => ?_, ?_, ?_, h.carrier, h.kept, h.moved⟩
  · rw [Sector.onlyCarrier_modCar _ c _ d hd, h.onlyCar d hd, Sector.onlyCarrier_modCar _ c _ d hd, Sector.onlyCarrier_modCar _ c _ d hd]
  · have hst := congrArg (fun k : Carrier => ({ k with recovery := 0 } : Carrier)) h.standing
    rw [Sector.car_modCar_self] at hst ⊢
    rw [Sector.car_modCar_self]
    exact hst
  · have hcal := h.calendar
    rw [Sector.car_modCar_self] at hcal ⊢
    rw [Sector.car_modCar_self]
    exact hcal

/-- An event at each terminal of a carrier whose calendar was cleared. -/
theorem Sector.swept_cleared {c : CarrierNo} {f : Terminal → Terminal} {moves : Terminal → Prop} {step : Sector → TermNo → Sector}
    (hstep : ∀ (x : Sector) (t : TermNo), (x.term t).cfg.carrier = c → Sector.Swept c f moves [t] x (step x t)) (s : Sector) :
    Sector.Swept c (fun r => f r.grantCleared) (fun r => moves r.grantCleared) (s.boundTo c) (s.modCar c Carrier.cleared)
      (((s.cleared c).boundTo c).foldl step (s.cleared c)) := by
  have h := s.cleared_swept c
  have hcfg (t : TermNo) : ((s.cleared c).term t).cfg = (s.term t).cfg := by
    rw [h.term]
    split <;> rfl
  rw [Sector.boundTo_congr hcfg]
  refine h.trans (Sector.Swept.foldl hstep _ (s.boundTo_nodup c) _ fun t ht => ?_)
  rw [hcfg]
  exact Sector.carrier_of_mem_boundTo ht

section
variable {k j : Carrier} (h : j.standing = k.standing)
include h

theorem Carrier.state_of_standing : j.state = k.state := by
  have hs := congrArg Carrier.state h
  exact hs

theorem Carrier.cfg_of_standing : j.cfg = k.cfg := by
  have hs := congrArg Carrier.cfg h
  exact hs

theorem Carrier.recovery_of_standing : j.recovery = k.recovery := by
  have hs := congrArg Carrier.recovery h
  exact hs

theorem Carrier.csp_of_standing : j.csp = k.csp := by
  have hs := congrArg Carrier.csp h
  exact hs

theorem Carrier.window_of_standing : j.res.window = k.res.window := by
  have hs := congrArg (fun x : Carrier => x.res.window) h
  exact hs

theorem Carrier.exponent_of_standing : j.res.exponent = k.res.exponent := by
  have hs := congrArg (fun x : Carrier => x.res.exponent) h
  exact hs

end

theorem Carrier.cleared_rows {k : Carrier} {row : Row} (h : row ∈ k.cleared.calendar) : row.filled = false ∧ row.cells = [] := by
  obtain ⟨r, -, rfl⟩ := List.mem_map.1 h
  exact ⟨rfl, rfl⟩

/-! ### Carrier loss (R63, R73) -/

/-- The link states that carrier loss takes to DARK (R63). -/
theorem LinkState.lostWithCarrier_iff {x : LinkState} :
    x.lostWithCarrier = true ↔ x = .called ∨ x = .trimming ∨ x = .admitting ∨ x = .serving ∨ x = .fading := by
  cases x with
  | called | trimming | admitting | serving | fading | held | dark | guard => simp [LinkState.lostWithCarrier]

theorem Terminal.lost_rest (r : Terminal) : r.lost.cfg = r.cfg ∧ r.lost.hold.queue = r.hold.queue ∧ r.lost.owed.halt = r.owed.halt := by
  unfold Terminal.lost
  split
  · split
    · exact ⟨rfl, rfl, rfl⟩
    · obtain ⟨hcfg, hq, -, hh⟩ := (r.withCause .carrier).darkened_rest
      exact ⟨hcfg, hq, hh⟩
  · exact ⟨rfl, rfl, rfl⟩

theorem Terminal.lost_stays {r : Terminal} (h : ¬ r.link.state.lostWithCarrier = true) : r.lost = r := if_neg h

theorem Terminal.lost_forced {r : Terminal} (h : r.link.state.lostWithCarrier = true) (hf : r.link.forced = true) :
    r.lost = r.suppressedOnce := (if_pos h).trans (if_pos hf)

theorem Terminal.lost_dark {r : Terminal} (h : r.link.state.lostWithCarrier = true) (hf : r.link.forced = false) :
    r.lost = (r.withCause .carrier).darkened := (if_pos h).trans (if_neg (by rw [hf]; decide))

/-- A carrier with its loss counted and DOWN. -/
def Carrier.lostDown (k : Carrier) : Carrier := { k.lostOnce with state := .down }

theorem Sector.carrierLost_idle {s : Sector} {c : CarrierNo} (h : ¬ ((s.car c).state = .up ∨ (s.car c).state = .recovering)) :
    s.carrierLost c = s.modCar c Carrier.lostOnce := if_neg h

/-- An UP or RECOVERING carrier is lost: it is DOWN and cleared, and each of its terminals takes the loss (R63, R73). -/
theorem Sector.carrierLost_swept {s : Sector} {c : CarrierNo} (h : (s.car c).state = .up ∨ (s.car c).state = .recovering) :
    Sector.Swept c (fun r => r.grantCleared.lost) (fun r => r.grantCleared.losesState) (s.boundTo c)
      (((s.modCar c Carrier.lostDown).note (·.addCarrier c)).modCar c Carrier.cleared) (s.carrierLost c) := by
  have hne : ((s.modCar c Carrier.lostOnce).car c).state ≠ .down := by
    rw [Sector.car_modCar_self]
    intro he
    rcases h with h | h <;> exact absurd (h.symm.trans he) (by decide)
  have hdown : (s.modCar c Carrier.lostOnce).setCarrierState c .down = (s.modCar c Carrier.lostDown).note (·.addCarrier c) := by
    rw [Sector.setCarrierState_moved hne, Sector.modCar_modCar]
    rfl
  have hlost : s.carrierLost c = (((((s.modCar c Carrier.lostDown).note (·.addCarrier c)).cleared c).boundTo c).foldl Sector.lossAt
      (((s.modCar c Carrier.lostDown).note (·.addCarrier c)).cleared c)) := by
    rw [← hdown]
    exact if_pos h
  rw [hlost]
  have hswept := Sector.swept_cleared (c := c) (fun x t hc => x.lossAt_swept t hc) ((s.modCar c Carrier.lostDown).note (·.addCarrier c))
  exact hswept

/-- Settles O42: the three indications, each by the carrier's state. -/
theorem carrierFoundRecoveredAndLost : Obligations.CarrierFoundRecoveredAndLost := by
  refine ⟨fun c s => ?found, fun c s => ⟨fun hst hp => ?recovers, fun h => ?waits⟩, fun c s => ?lost⟩
  case found =>
    refine ⟨_, rfl, State.event_only s _, ?_⟩
    rw [State.event_sector]
    by_cases hd : (s.sector.car c).state = .down
    · obtain ⟨hterms, hcar, hrec, hk, he⟩ := Sector.carrierFound_down hd
      exact ⟨hcar, hterms, hrec, fun _ => ⟨hk, he⟩, fun hn => absurd hd hn⟩
    · rw [Sector.carrierFound_idle hd]
      exact ⟨Sector.onlyCarrier_modCar _ _ _, rfl, ⟨rfl, rfl, rfl, rfl, rfl, rfl, rfl⟩, fun h => absurd h hd,
        fun _ => ⟨Sector.car_modCar_self _ _ _, rfl⟩⟩
  case recovers =>
    have hs := ((Sector.Turned.rfl' s.sector 0 c).modCar fun k => { k with state := .up }).note (·.addCarrier c)
    refine ⟨_, rfl, State.event_only s _, ?_⟩
    rw [State.event_sector, Sector.recoveryEnd_due ⟨hst, hp⟩]
    exact ⟨hs.car, hs.onlyCar, rfl, hs.onlyRecords rfl, hs.events⟩
  case waits => exact congrArg Host.Outcome.next (State.event_idle (Sector.recoveryEnd_idle h))
  case lost =>
    refine ⟨_, rfl, State.event_only s _, ?_⟩
    rw [State.event_sector]
    by_cases hup : (s.sector.car c).state = .up ∨ (s.sector.car c).state = .recovering
    · have hs := Sector.carrierLost_swept hup
      have hcar : ((((s.sector.modCar c Carrier.lostDown).note (·.addCarrier c)).modCar c Carrier.cleared).car c) =
          (s.sector.car c).lostDown.cleared := by
        rw [Sector.car_modCar_self, Sector.car_note, Sector.car_modCar_self]
      have hst := hs.standing
      have hcal := hs.calendar
      rw [hcar] at hst hcal
      have hcsp := Carrier.csp_of_standing hst
      have hcfg := Carrier.cfg_of_standing hst
      have hwindow := Carrier.window_of_standing hst
      have hexponent := Carrier.exponent_of_standing hst
      refine ⟨fun d hd => ?_, hcsp, hcfg, fun t ht => ?_, fun hn => ?_, fun _ =>
        ⟨Carrier.state_of_standing hst, Carrier.recovery_of_standing hst, fun row hrow => Carrier.cleared_rows (hcal ▸ hrow),
          hwindow, hexponent, ?_, fun t ht => ?_⟩⟩
      · rw [hs.onlyCar d hd, Sector.onlyCarrier_modCar _ c _ d hd, Sector.car_note, Sector.onlyCarrier_modCar _ c _ d hd]
      · rw [hs.term, if_neg fun hm => by rw [Sector.mem_boundTo_iff, ht] at hm; cases hm]
        rfl
      · rcases hup with h | h <;> rw [h] at hn <;> rcases hn with hn | hn <;> cases hn
      · rw [hs.carrier]
        exact mem_insertNo.2 (.inl rfl)
      · have hmem := Sector.mem_boundTo_iff.2 ht
        have hterm : (s.sector.carrierLost c).term t = (s.sector.term t).grantCleared.lost := by
          rw [hs.term, if_pos hmem]
          rfl
        have hmoved := hs.moved t hmem
        rw [hterm]
        obtain ⟨hcfg, hq, hh⟩ := Terminal.lost_rest (s.sector.term t).grantCleared
        refine ⟨hcfg, hq, hh, fun hn => ?_, fun hl hf => ?_, fun hl hf => ?_⟩
        · rw [Terminal.lost_stays (r := (s.sector.term t).grantCleared) fun hl => hn (LinkState.lostWithCarrier_iff.1 hl)]
          exact ⟨rfl, rfl⟩
        · rw [Terminal.lost_forced (r := (s.sector.term t).grantCleared) (LinkState.lostWithCarrier_iff.2 hl) hf]
          exact ⟨rfl, rfl⟩
        · rw [Terminal.lost_dark (r := (s.sector.term t).grantCleared) (LinkState.lostWithCarrier_iff.2 hl) hf]
          obtain ⟨hdark, hcause, hperm, -⟩ := ((s.sector.term t).grantCleared.withCause .carrier).darkened_link
          obtain ⟨-, -, hctr, -⟩ := ((s.sector.term t).grantCleared.withCause .carrier).darkened_rest
          exact ⟨hdark, hcause, hperm, hctr, hmoved ⟨LinkState.lostWithCarrier_iff.2 hl, hf⟩⟩
    · rw [Sector.carrierLost_idle hup]
      refine ⟨Sector.onlyCarrier_modCar _ _ _, ?_, ?_, fun _ _ => rfl, fun _ => ⟨Sector.car_modCar_self _ _ _, rfl, rfl⟩,
        fun h => absurd h hup⟩ <;> rw [Sector.car_modCar_self] <;> rfl

end Sys2Proof.Machine
end

section
/-! SUPPORT. CARRIER-RESTART (R64, R74, R179): O32. -/

namespace Sys2Proof.Machine

/-- The record with its forced mark clear and last cause RESTART (R64). -/
def Terminal.restartMarked (r : Terminal) : Terminal := { r with link := { r.link with forced := false, cause := .restart } }

/-- The record after the restart of its carrier (R64). -/
def Terminal.restarted (r : Terminal) : Terminal :=
  if r.link.state = .held then r
  else if r.link.state = .dark then r.restartMarked else r.restartMarked.darkened

/-- The records whose link state the restart of their carrier changes. -/
def Terminal.restartMoves (r : Terminal) : Prop := r.link.state ≠ .held ∧ r.link.state ≠ .dark

theorem Sector.restartAt_swept (x : Sector) (t : TermNo) {c : CarrierNo} (hc : (x.term t).cfg.carrier = c) :
    Sector.Swept c Terminal.restarted Terminal.restartMoves [t] x (x.restartAt t) := by
  have hself := Sector.Turned.rfl' x t c
  have hmarked := hself.modTerm Terminal.restartMarked
  unfold Sector.restartAt
  dsimp only
  by_cases hheld : (x.term t).link.state = .held
  · rw [if_pos hheld]
    refine hself.swept ?_ rfl rfl rfl (fun _ => id) fun hm => absurd hheld hm.1
    unfold Terminal.restarted
    rw [if_pos hheld]
  · rw [if_neg hheld]
    by_cases hdark : (x.term t).link.state = .dark
    · rw [if_pos hdark]
      refine hmarked.swept ?_ rfl rfl rfl (fun _ => id) fun hm => absurd hdark hm.2
      unfold Terminal.restarted
      rw [if_neg hheld, if_pos hdark]
    · rw [if_neg hdark]
      refine (hmarked.darkWithCarrier hc hdark).swept ?_ ?_ ?_ rfl (fun v hv => mem_insertNo.2 (.inr hv))
        fun _ => mem_insertNo.2 (.inl rfl)
      · unfold Terminal.restarted
        rw [if_neg hheld, if_neg hdark]
      · exact (Carrier.lentIf_standing _ _ _ _).trans (Carrier.left_standing _ _ _ _)
      · exact (Carrier.lentIf_calendar _ _ _ _).trans (Carrier.left_calendar t (by decide) _ _)

theorem Terminal.restarted_rest (r : Terminal) : r.restarted.cfg = r.cfg ∧ r.restarted.hold.queue = r.hold.queue := by
  obtain ⟨hcfg, hq, -, -⟩ := r.restartMarked.darkened_rest
  unfold Terminal.restarted
  split
  · exact ⟨rfl, rfl⟩
  · split
    · exact ⟨rfl, rfl⟩
    · exact ⟨hcfg, hq⟩

theorem Terminal.restarted_held {r : Terminal} (h : r.link.state = .held) : r.restarted = r := if_pos h

theorem Terminal.restarted_dark {r : Terminal} (h : r.link.state ≠ .held) :
    r.restarted.link.state = .dark ∧ r.restarted.link.forced = false ∧ r.restarted.link.cause = .restart := by
  unfold Terminal.restarted
  rw [if_neg h]
  split
  · next hd => exact ⟨hd, rfl, rfl⟩
  · obtain ⟨hst, hcause, -, hforced⟩ := r.restartMarked.darkened_link
    exact ⟨hst, hforced, hcause⟩

/-- The sector with its carrier's terminals restarted, before the carrier's own state is set. -/
def Sector.restartedTerms (s : Sector) (c : CarrierNo) : Sector := ((s.cleared c).boundTo c).foldl Sector.restartAt (s.cleared c)

theorem Sector.restartedTerms_swept (s : Sector) (c : CarrierNo) :
    Sector.Swept c (fun r => r.grantCleared.restarted) (fun r => r.grantCleared.restartMoves) (s.boundTo c) (s.modCar c Carrier.cleared)
      (s.restartedTerms c) :=
  Sector.swept_cleared (fun x t hc => x.restartAt_swept t hc) s

theorem Sector.setCarrierState_turned (s : Sector) (c : CarrierNo) (x : CarrierState) (t : TermNo) :
    s.Turned t c (s.term t) { s.car c with state := x } s.pld
      (if (s.car c).state = x then s.events else { s.events with carrier := insertNo c s.events.carrier }) (s.setCarrierState c x) := by
  have hset := (Sector.Turned.rfl' s t c).modCar fun k => { k with state := x }
  unfold Sector.setCarrierState
  dsimp only
  split
  · exact hset
  · exact hset.note (·.addCarrier c)

/-- What a CARRIER-RESTART makes of the sector (R64, R74, R179). -/
theorem Sector.carrierRestart_spec (s : Sector) (c : CarrierNo) :
    (∀ v, (s.carrierRestart c).term v = if v ∈ s.boundTo c then (s.term v).grantCleared.restarted else s.term v) ∧
      OnlyCarrier s (s.carrierRestart c) c ∧
      ((s.carrierRestart c).car c).standing = { (s.car c).cleared with state := .down }.standing ∧
      ((s.carrierRestart c).car c).calendar = (s.car c).cleared.calendar ∧
      ((s.car c).state ≠ .down → c ∈ (s.carrierRestart c).events.carrier) ∧
      ∀ v ∈ s.boundTo c, (s.term v).restartMoves → v ∈ (s.carrierRestart c).events.stateChange := by
  have hs := s.restartedTerms_swept c
  have hst := hs.standing
  have hcal := hs.calendar
  rw [Sector.car_modCar_self] at hst hcal
  have hset (v : TermNo) := Sector.setCarrierState_turned (s.restartedTerms c) c .down v
  have hrestart : s.carrierRestart c = (s.restartedTerms c).setCarrierState c .down := rfl
  rw [hrestart]
  refine ⟨fun v => ?_, fun d hd => ?_, ?_, ?_, fun hne => ?_, fun v hv hm => ?_⟩
  · rw [(hset v).term, hs.term]
    rfl
  · rw [(hset 0).onlyCar d hd, hs.onlyCar d hd, Sector.onlyCarrier_modCar s c _ d hd]
  · have hdown := congrArg (fun k : Carrier => ({ k with state := .down } : Carrier)) hst
    rw [(hset 0).car]
    exact hdown
  · rw [(hset 0).car]
    exact hcal
  · have hstate : ((s.restartedTerms c).car c).state ≠ .down := by
      rw [Carrier.state_of_standing hst]
      exact hne
    rw [(hset 0).events, if_neg hstate]
    exact mem_insertNo.2 (.inl rfl)
  · have hmoved := hs.moved v hv hm
    rw [(hset 0).events]
    split <;> exact hmoved

/-- Settles O32: each terminal of the carrier restarted, the carrier DOWN and cleared. -/
theorem carrierRestartTakesTerminalsDark : Obligations.CarrierRestartTakesTerminalsDark := by
  intro r c s h hc hb
  have hserve := State.serve_head Request.carrier? (emptyBody State.carrierRestartRequest) noField h (Request.carrier?_eq hc)
  have hown : emptyBody State.carrierRestartRequest r c s = s.carrierRestartRequest c := if_pos hb
  rw [hown] at hserve
  refine ⟨fun hd => ?refused, fun hd => ?restarts⟩
  case refused =>
    rw [show s.carrierRestartRequest c = (s, .plain .wrongState) from if_pos hd] at hserve
    refine ⟨_, congrArg Host.Outcome.next hserve, State.respond_answered s s r _ rfl rfl rfl, State.respond_onlyAnswered s r _⟩
  case restarts =>
    rw [show s.carrierRestartRequest c = (s.event fun x => x.carrierRestart c, .plain .done) from if_neg hd] at hserve
    have honly := State.event_only s fun x => x.carrierRestart c
    refine ⟨_, congrArg Host.Outcome.next hserve, honly.answered r _, honly.onlyLinkAnswered h.2.2.2 r _, ?_⟩
    rw [State.respond_sector, State.event_sector]
    obtain ⟨hterm, hcar, hst, hcal, hjoins, hmoved⟩ := s.sector.carrierRestart_spec c
    have hcfg := Carrier.cfg_of_standing hst
    have hwindow := Carrier.window_of_standing hst
    have hexponent := Carrier.exponent_of_standing hst
    refine ⟨Carrier.state_of_standing hst, Carrier.recovery_of_standing hst, hcfg, fun row hrow => Carrier.cleared_rows (hcal ▸ hrow),
      hwindow, hexponent, hcar, hjoins, fun t ht => ?_, fun t ht => ?_⟩
    · rw [hterm, if_neg fun hm => by rw [Sector.mem_boundTo_iff, ht] at hm; cases hm]
    · have hmem := Sector.mem_boundTo_iff.2 ht
      obtain ⟨htc, hq⟩ := Terminal.restarted_rest (s.sector.term t).grantCleared
      rw [hterm, if_pos hmem]
      refine ⟨htc, hq, fun hheld => ?_, fun hheld => ?_, fun hheld hdark => hmoved t hmem ⟨hheld, hdark⟩⟩
      · rw [Terminal.restarted_held (r := (s.sector.term t).grantCleared) hheld]
        rfl
      · exact Terminal.restarted_dark (r := (s.sector.term t).grantCleared) hheld

end Sys2Proof.Machine
end

section
/-! SUPPORT. Calendar cells read after a change (R76), and the dispatch of slot outcomes (R83 to R88, R107, R116, R117): O44 and O47. -/

namespace Sys2Proof.Machine

/-! ### Cells (R76) -/

theorem Carrier.row?_setCell (k : Carrier) (u w : FrameNo) (x : SlotNo) (z : Cell) :
    (k.setCell u x z).row? w = (k.row? w).map fun r => if r.frame = u then r.setCell x z else r := by
  unfold Carrier.row? Carrier.setCell
  dsimp only
  rw [List.find?_map]
  congr 1
  refine congrArg (fun f => List.find? f k.calendar) (funext fun r => ?_)
  rw [Function.comp_apply]
  split
  · rw [Row.setCell_frame]
  · rfl

theorem Carrier.frame_of_row? {k : Carrier} {u : FrameNo} {r : Row} (h : k.row? u = some r) : r.frame = u := by
  have hf := List.find?_some h
  simpa only [decide_eq_true_eq] using hf

/-- A cell read after a cell was set: that of the row set, where the calendar has one. -/
theorem Carrier.cell_setCell (k : Carrier) (u w : FrameNo) (x y : SlotNo) (z : Cell) :
    (k.setCell u x z).cell w y = if w = u ∧ y = x ∧ (k.row? u).isSome then z else k.cell w y := by
  unfold Carrier.cell
  rw [Carrier.row?_setCell]
  cases hr : k.row? w with
  | none =>
    rw [if_neg]
    · rfl
    · rintro ⟨rfl, -, hs⟩
      rw [hr] at hs
      cases hs
  | some r =>
    have hframe := Carrier.frame_of_row? hr
    rw [Option.map_some, hframe]
    by_cases hw : w = u
    · subst hw
      simp only [if_true, Row.cell_setCell, hr, Option.isSome_some, and_true, true_and]
    · simp only [hw, if_false, false_and]

theorem Carrier.cell_setCell_empty (k : Carrier) (u w : FrameNo) (x y : SlotNo) :
    (k.setCell u x .empty).cell w y = if w = u ∧ y = x then .empty else k.cell w y := by
  rw [Carrier.cell_setCell]
  by_cases hw : w = u ∧ y = x
  · obtain ⟨rfl, rfl⟩ := hw
    simp only [true_and, and_self, if_true]
    cases hr : k.row? w with
    | none => simp only [Carrier.cell, hr, ite_self]
    | some r => simp only [Option.isSome_some, if_true]
  · rw [if_neg fun h => hw ⟨h.1, h.2.1⟩, if_neg hw]

/-- Cells are read from the calendar alone. -/
theorem Carrier.cell_congr {k j : Carrier} (h : j.calendar = k.calendar) (u : FrameNo) (x : SlotNo) : j.cell u x = k.cell u x := by
  unfold Carrier.cell Carrier.row?
  rw [h]

/-- The carrier with the cell of an outcome consumed (R84). -/
def Carrier.consumed (u : FrameNo) (x : SlotNo) (k : Carrier) : Carrier := k.setCell u x .empty

theorem Carrier.cell_consumed (k : Carrier) (u : FrameNo) (x : SlotNo) : (k.consumed u x).cell u x = .empty :=
  (k.cell_setCell_empty u u x x).trans (if_pos ⟨rfl, rfl⟩)

theorem Carrier.cell_consumed_of_ne (k : Carrier) {u w : FrameNo} {x z : SlotNo} (h : w ≠ u ∨ z ≠ x) :
    (k.consumed u x).cell w z = k.cell w z :=
  (k.cell_setCell_empty u w x z).trans (if_neg fun ⟨hw, hz⟩ => h.elim (· hw) (· hz))

/-! ### Which cell and kind an outcome finds (R83 to R85) -/

theorem exec_slotOutcome {c : CarrierNo} {u : FrameNo} {slot : SlotNo} {o : SlotResult} {s : State} (hr : o.inRange = true) :
    exec (.slotOutcome c u slot o) s = .next (s.slotOutcome c u slot o) := congrArg Host.Outcome.next (if_pos hr)

section
variable {c : CarrierNo} {u : FrameNo} {slot : SlotNo} {o : SlotResult} {s : State}

/-- An outcome that carries no payload upstream is its one event. -/
theorem exec_slotOutcome_event (hr : o.inRange = true) (hp : s.sector.payloadOf c u slot o = none) :
    exec (.slotOutcome c u slot o) s = .next (s.event fun x => x.slotOutcome c u slot o) := by
  rw [exec_slotOutcome hr, State.slotOutcome, hp]

variable {x : Sector}

theorem Carrier.outcomeCell_current {k : Carrier} (hu : u = k.lastFrame) : k.outcomeCell u slot = k.cell u slot := if_pos hu

theorem Carrier.outcomeCell_empty {k : Carrier} (h : u ≠ k.lastFrame ∨ k.cell u slot = .empty) : k.outcomeCell u slot = .empty := by
  unfold Carrier.outcomeCell
  split
  · next hu => exact h.resolve_left fun hn => hn hu
  · rfl

theorem Sector.payloadOf_offered (h : (x.car c).outcomeCell u slot = .offered) : x.payloadOf c u slot o = none := by
  unfold Sector.payloadOf
  rw [h]

theorem Sector.payloadOf_granted {t : TermNo} {n : Nat} (h : (x.car c).outcomeCell u slot = .granted t n) :
    x.payloadOf c u slot o = none := by
  unfold Sector.payloadOf
  rw [h]

theorem Sector.payloadOf_stray (h : ∀ t, (x.car c).slotUse slot = .traffic t → (x.term t).link.state.inService = false) :
    x.payloadOf c u slot o = none := by
  unfold Sector.payloadOf
  split
  · next t _ ht => rw [h t ht, if_neg Bool.false_ne_true]
  all_goals rfl

theorem Sector.payloadOf_miss {t : TermNo} (ht : (x.car c).slotUse slot = .traffic t) (hg : goodFor t o = none) :
    x.payloadOf c u slot o = none := by
  unfold Sector.payloadOf
  split
  · next v _ hv =>
    have hvt : v = t := SlotUse.traffic.inj (hv.symm.trans ht)
    rw [hvt, hg, Option.map_none, ite_self]
  all_goals rfl

theorem Sector.slotOutcome_offered (h : (x.car c).outcomeCell u slot = .offered) :
    x.slotOutcome c u slot o = (x.modCar c (Carrier.consumed u slot)).offeredOutcome c o := by
  unfold Sector.slotOutcome
  rw [h]
  rfl

theorem Sector.slotOutcome_granted {t : TermNo} {n : Nat} (h : (x.car c).outcomeCell u slot = .granted t n) :
    x.slotOutcome c u slot o = (x.modCar c (Carrier.consumed u slot)).rngOutcome c u slot t (TrimOutcome.ofResult t o) := by
  unfold Sector.slotOutcome
  rw [h]
  rfl

/-- The sector with an outcome of another frame than the current one counted (R83). -/
def Sector.frameChecked (x : Sector) (c : CarrierNo) (u : FrameNo) : Sector :=
  x.modCar c fun k => { k with csp := { k.csp with
    outOfFrame := if u = k.lastFrame then k.csp.outOfFrame else k.csp.outOfFrame + 1 } }

theorem Sector.modCar_id (x : Sector) (c : CarrierNo) {f : Carrier → Carrier} (h : f (x.car c) = x.car c) : x.modCar c f = x := by
  unfold Sector.modCar
  rw [show f x.cars[c] = x.cars[c] from h]
  exact congrArg (fun v => ({ x with cars := v } : Sector)) (Vector.set_getElem_self _)

theorem Sector.slotOutcome_empty (h : (x.car c).outcomeCell u slot = .empty) :
    x.slotOutcome c u slot o = (x.frameChecked c u).byKind c slot o := by
  unfold Sector.slotOutcome
  rw [h]
  refine congrArg (Sector.byKind · c slot o) ?_
  unfold Sector.frameChecked
  split
  · next hu =>
    refine (Sector.modCar_id x c ?_).symm
    rw [if_pos hu]
  · next hu =>
    refine Sector.modCar_congr x c ?_
    rw [if_neg hu]

theorem Sector.byKind_stray (h : ∀ t, (x.car c).slotUse slot = .traffic t → (x.term t).link.state.inService = false) :
    x.byKind c slot o = x.stray c o := by
  unfold Sector.byKind
  split
  · next t ht => rw [h t ht, if_neg Bool.false_ne_true]
  all_goals rfl

theorem LinkState.inService_iff {l : LinkState} : l.inService = true ↔ l = .serving ∨ l = .fading := by
  cases l with
  | serving | fading | held | dark | called | trimming | admitting | guard => simp [LinkState.inService]

/-! ### Offered slots but for calls (R84, R88) -/

theorem Sector.offeredOutcome_empty : x.offeredOutcome c .empty = x.quietOffer c := rfl

theorem Sector.offeredOutcome_other (ho : o ≠ .empty) (hcall : ∀ b lock p, o = .burst b → b.kind ≠ .call lock p) :
    x.offeredOutcome c o = x.collision c := by
  unfold Sector.offeredOutcome
  split
  · exact absurd rfl ho
  · rfl
  · next b =>
    split
    · next lock p hk => exact absurd hk (hcall b lock p rfl)
    · rfl
    · rfl

end

section
variable {s a : Sector} {t : TermNo} {c : CarrierNo} {r : Terminal} {k : Carrier} {p : PldCounters} {e : EventSets}
  (h : s.Turned t c r k p e a)
include h

/-- An outcome joins the backoff window (R88). -/
theorem Sector.Turned.offerOutcome (x : OfferOutcome) :
    s.Turned t c r { k with res := { k.res with window := (k.res.window ++ [x]).drop (k.res.window.length + 1 - 64) } } p e
      (a.offerOutcome c x) := h.modCar fun k => { k with res := { k.res with window := pushWindow k.res.window x } }

theorem Sector.Turned.quietOffer : s.Turned t c r
    { k with res := { k.res with window := (k.res.window ++ [OfferOutcome.empty]).drop (k.res.window.length + 1 - 64) }
             resCtr := { k.resCtr with quietOffers := k.resCtr.quietOffers + 1 } } p e (a.quietOffer c) :=
  (h.offerOutcome .empty).modCar fun k => { k with resCtr := { k.resCtr with quietOffers := k.resCtr.quietOffers + 1 } }

theorem Sector.Turned.collision : s.Turned t c r
    { k with res := { k.res with window := (k.res.window ++ [OfferOutcome.garbled]).drop (k.res.window.length + 1 - 64) }
             resCtr := { k.resCtr with collisions := k.resCtr.collisions + 1 } } p e (a.collision c) :=
  (h.offerOutcome .garbled).modCar fun k => { k with resCtr := { k.resCtr with collisions := k.resCtr.collisions + 1 } }

end

/-- Settles O44: a quiet slot or a collision, and an outcome of which nothing is expected. -/
theorem quietCollidingAndStrayOutcomes : Obligations.QuietCollidingAndStrayOutcomes := by
  refine ⟨fun c u slot o s hr hcall hu hcell => ?offered, fun c u slot o s => ?stray⟩
  case offered =>
    have hfind : (s.sector.car c).outcomeCell u slot = .offered := (Carrier.outcomeCell_current hu).trans hcell
    have hconsumed := (Sector.Turned.rfl' s.sector 0 c).modCar (Carrier.consumed u slot)
    refine ⟨_, exec_slotOutcome_event hr (Sector.payloadOf_offered hfind), State.event_only s _, ?_⟩
    rw [State.event_sector, Sector.slotOutcome_offered hfind]
    by_cases ho : o = .empty
    · subst ho
      have hs := hconsumed.quietOffer
      rw [Sector.offeredOutcome_empty, if_pos rfl, if_pos rfl, hs.car]
      exact ⟨hs.onlyCar, rfl, hs.events, Carrier.cell_consumed _ u slot, rfl, rfl⟩
    · have hs := hconsumed.collision
      rw [Sector.offeredOutcome_other ho hcall, if_neg ho, if_neg ho, hs.car]
      exact ⟨hs.onlyCar, rfl, hs.events, Carrier.cell_consumed _ u slot, rfl, rfl⟩
  case stray =>
    intro k hr hcell hidle
    have hout (t : TermNo) (ht : (s.sector.car c).slotUse slot = .traffic t) : (s.sector.term t).link.state.inService = false := by
      rw [Bool.eq_false_iff, Ne, LinkState.inService_iff, not_or]
      exact hidle t ht
    have hchecks (t : TermNo) (ht : ((s.sector.frameChecked c u).car c).slotUse slot = .traffic t) :
        ((s.sector.frameChecked c u).term t).link.state.inService = false := by
      unfold Sector.frameChecked at ht
      rw [Sector.car_modCar_self] at ht
      exact hout t ht
    have hchecked := (Sector.Turned.rfl' s.sector 0 c).modCar fun k => { k with csp := { k.csp with
      outOfFrame := if u = k.lastFrame then k.csp.outOfFrame else k.csp.outOfFrame + 1 } }
    have hs := hchecked.modCar fun k => { k with csp := { k.csp with
      strayOutcomes := k.csp.strayOutcomes + 1
      strayBursts := if isBurst o then k.csp.strayBursts + 1 else k.csp.strayBursts } }
    refine ⟨_, exec_slotOutcome_event hr (Sector.payloadOf_stray hout), State.event_only s _, ?_⟩
    rw [State.event_sector, Sector.slotOutcome_empty (Carrier.outcomeCell_empty hcell), Sector.byKind_stray hchecks]
    exact ⟨hs.onlyCar, rfl, hs.events, hs.car⟩

/-! ### Stale and unsent outcomes (R107, R116, R117) -/

section
variable {x : Sector} {c : CarrierNo} {u : FrameNo} {slot : SlotNo} {t : TermNo} {o : TrimOutcome}

theorem Sector.rngOutcome_stale (h : ¬ ((x.term t).link.state = .trimming ∧ (x.term t).range.grant = some { frame := u, slot := slot })) :
    x.rngOutcome c u slot t o = x.staleOutcome c t o := if_neg h

theorem Sector.rngOutcome_unsent (h : (x.term t).link.state = .trimming) (hg : (x.term t).range.grant = some { frame := u, slot := slot })
    (ho : (x.term t).owed.grant.isSome = true) : x.rngOutcome c u slot t o = x.unsentOutcome (x.term t).cfg.carrier t :=
  (if_pos ⟨h, hg⟩).trans (if_pos ho)

theorem Sector.rngOutcome_current (h : (x.term t).link.state = .trimming) (hg : (x.term t).range.grant = some { frame := u, slot := slot })
    (ho : (x.term t).owed.grant = none) : x.rngOutcome c u slot t o = x.currentOutcome (x.term t).cfg.carrier t o :=
  (if_pos ⟨h, hg⟩).trans (if_neg (by rw [ho]; decide))

end

/-- A late trim burst is one of kind TRIM claiming the grantee. -/
theorem TrimOutcome.ofResult_trim {t : TermNo} {o : SlotResult} {b : Burst} {f : Fragment} (ho : o = .burst b) (hk : b.kind = .trim f)
    (hc : b.claimed = t) : TrimOutcome.ofResult t o = .trim b.offset b.snr f := by
  subst ho
  simp only [TrimOutcome.ofResult, hk, hc, if_true]

theorem TrimOutcome.ofResult_miss {t : TermNo} {o : SlotResult} (h : ∀ b f, o = .burst b → b.kind = .trim f → b.claimed ≠ t) :
    TrimOutcome.ofResult t o = .miss := by
  unfold TrimOutcome.ofResult
  split
  · next b =>
    split
    · next f hk => exact if_neg (h b f rfl hk)
    · rfl
    · rfl
  · rfl
  · rfl

section
variable {s a : Sector} {t : TermNo} {c : CarrierNo} {r : Terminal} {k : Carrier} {p : PldCounters} {e : EventSets}
  (h : s.Turned t c r k p e a)
include h

theorem Sector.Turned.staleMiss :
    s.Turned t c r { k with rng := { k.rng with staleOutcomes := k.rng.staleOutcomes + 1 } } p e (a.staleOutcome c t .miss) :=
  h.modCar fun k => { k with rng := { k.rng with staleOutcomes := k.rng.staleOutcomes + 1 } }

theorem Sector.Turned.staleTrim (x : Int) (n : Nat) (f : Fragment) :
    s.Turned t c (if r.cfg.configured then { r with ctr := { r.ctr with lateTrims := r.ctr.lateTrims + 1 } } else r)
      { k with rng := { k.rng with lateTrims := k.rng.lateTrims + 1 } } p e (a.staleOutcome c t (.trim x n f)) := by
  have hlate := h.modCar fun k => { k with rng := { k.rng with lateTrims := k.rng.lateTrims + 1 } }
  unfold Sector.staleOutcome
  dsimp only
  rw [h.term]
  split
  · exact hlate.modTerm fun r => { r with ctr := { r.ctr with lateTrims := r.ctr.lateTrims + 1 } }
  · exact hlate

theorem Sector.Turned.unsentOutcome :
    s.Turned t c { r with range := { r.range with attempts := r.range.attempts - 1, grant := none }
                          owed := { r.owed with grant := none } }
      { k with rng := { k.rng with unsentOutcomes := k.rng.unsentOutcomes + 1 } } p e (a.unsentOutcome c t) :=
  (h.modTerm fun r => { r with range := { r.range with attempts := r.range.attempts - 1, grant := none }
                               owed := { r.owed with grant := none } }).modCar
    fun k => { k with rng := { k.rng with unsentOutcomes := k.rng.unsentOutcomes + 1 } }

end

/-- Settles O47: the outcome sorted by the grantee's own fields. -/
theorem staleAndUnsentOutcomes : Obligations.StaleAndUnsentOutcomes := by
  refine ⟨fun c u slot t n o s => ?stale, fun c u slot t n o s => ?unsent⟩
  case stale =>
    intro k x hr hu hcell hnot late
    have hfind : (s.sector.car c).outcomeCell u slot = .granted t n := (Carrier.outcomeCell_current hu).trans hcell
    have hconsumed := (Sector.Turned.rfl' s.sector t c).modCar (Carrier.consumed u slot)
    refine ⟨_, exec_slotOutcome_event hr (Sector.payloadOf_granted hfind), State.event_only s _, ?_⟩
    rw [State.event_sector, Sector.slotOutcome_granted hfind, Sector.rngOutcome_stale (by rw [hconsumed.term]; exact hnot)]
    by_cases hlate : late
    · obtain ⟨b, f, hb, hk, hc⟩ := hlate
      have hs := hconsumed.staleTrim b.offset b.snr f
      rw [TrimOutcome.ofResult_trim hb hk hc, hs.car, hs.term]
      exact ⟨hs.only, hs.onlyCar, hs.events, Carrier.cell_consumed _ u slot, fun _ => ⟨rfl, rfl⟩,
        fun hn => absurd ⟨b, f, hb, hk, hc⟩ hn⟩
    · have hs := hconsumed.staleMiss
      rw [TrimOutcome.ofResult_miss fun b f hb hk hc => hlate ⟨b, f, hb, hk, hc⟩, hs.car, hs.term]
      exact ⟨hs.only, hs.onlyCar, hs.events, Carrier.cell_consumed _ u slot, fun hl => absurd hl hlate, fun _ => ⟨rfl, rfl⟩⟩
  case unsent =>
    intro k x hr hu hcell hst hg ho own h
    have hfind : (s.sector.car c).outcomeCell u slot = .granted t n := (Carrier.outcomeCell_current hu).trans hcell
    have hconsumed := (Sector.Turned.rfl' s.sector t c).modCar (Carrier.consumed u slot)
    have hs := (Sector.Turned.rfl' (s.sector.modCar c (Carrier.consumed u slot)) t (s.sector.term t).cfg.carrier).unsentOutcome
    refine ⟨_, exec_slotOutcome_event hr (Sector.payloadOf_granted hfind), State.event_only s _, ?_⟩
    rw [State.event_sector, Sector.slotOutcome_granted hfind, Sector.rngOutcome_unsent (by rw [hconsumed.term]; exact hst)
      (by rw [hconsumed.term]; exact hg) (by rw [hconsumed.term]; exact Option.isSome_iff_ne_none.2 ho), hconsumed.term]
    have honly (v : TermNo) (hv : v ≠ t) := hs.only v hv
    have hcars (d : CarrierNo) (hd : d ≠ c) (hdo : d ≠ own) := (hs.onlyCar d hdo).trans (hconsumed.onlyCar d hd)
    refine ⟨honly, hcars, hs.onlyRecords rfl, hs.events, ?_⟩
    by_cases hc : c = own
    · have hown : (s.sector.term t).cfg.carrier = c := hc.symm
      have hh : h = k := congrArg s.sector.car hown
      rw [hown] at hs ⊢
      rw [← hc, hh, hs.car, hconsumed.car, hs.term]
      exact ⟨Carrier.cell_consumed _ u slot, rfl, rfl, fun hn => absurd rfl hn, rfl, rfl, rfl, rfl⟩
    · rw [hs.onlyCar c hc, hconsumed.car, hs.car, hconsumed.onlyCar own (Ne.symm hc), hs.term]
      exact ⟨Carrier.cell_consumed _ u slot, rfl, rfl, fun _ => rfl, rfl, rfl, rfl, rfl⟩

end Sys2Proof.Machine
end

section
/-! SUPPORT. The PLD's operations on one terminal (R125 to R136), as changes of its record and of the PLD counters. -/

namespace Sys2Proof.Machine

/-! ### The pending profile (R130, R132, R135, R136) -/

/-- The record with `p` pending and a PROFILE owed. -/
def Terminal.pended (p : ProfileNo) (d : Direction) (r : Terminal) : Terminal :=
  { r with ladder := { r.ladder with pending := some { target := p, direction := d, apply := none } }
           owed := { r.owed with profile := true } }

/-- The PLD counters after a profile of a terminal whose pending profile was `old` became pending. -/
def PldCounters.pended (old : Option PendingProfile) (k : PldCounters) : PldCounters :=
  if old.isSome then { k with pendingReplaced := k.pendingReplaced + 1 } else k

/-- The record with a step-up count of `n`. -/
def Terminal.counting (n : Nat) (r : Terminal) : Terminal := { r with ladder := { r.ladder with stepUp := n } }

/-- A step-down of a fade is due to the profile named, when one is (R135). -/
def Terminal.fadesTo (r : Terminal) (q : Option ProfileNo) : Option ProfileNo :=
  match r.ladder.pending with
  | none => q
  | some x => if x.direction = .stepDown then none else q

/-- The record after a fade's step-down to the profile named, when one is (R135). -/
def Terminal.fadeStepped (r : Terminal) (q : Option ProfileNo) : Terminal :=
  match r.fadesTo q with
  | none => r
  | some p => r.pended p .stepDown

/-- The PLD counters after a fade's step-down (R135). -/
def PldCounters.fadeStepped (k : PldCounters) (r : Terminal) (q : Option ProfileNo) : PldCounters :=
  match r.fadesTo q with
  | none => k
  | some _ => { k.pended r.ladder.pending with fadeStepDowns := (k.pended r.ladder.pending).fadeStepDowns + 1 }

/-- The highest enabled profile below the current one and not below the floor (R135). -/
def Sector.fadeTarget (s : Sector) (r : Terminal) : Option ProfileNo := (s.lowerProfiles r.cfg.floor r.ladder.current).getLast?

/-! ### Report assembly (R125) -/

/-- The record with a partial assembly discarded and counted (R125, R127). -/
def Terminal.reportBroken (r : Terminal) : Terminal :=
  if r.ladder.assembly = [] then r
  else { r with ladder := { r.ladder with assembly := [] }, ctr := { r.ctr with brokenReports := r.ctr.brokenReports + 1 } }

/-- The PLD counters after a partial assembly of `r` was discarded (R125, R127). -/
def PldCounters.reportBroken (r : Terminal) (k : PldCounters) : PldCounters :=
  if r.ladder.assembly = [] then k else { k with brokenReports := k.brokenReports + 1 }

/-- The record with its assembly set. -/
def Terminal.assembling (l : List (BitVec 4)) (r : Terminal) : Terminal := { r with ladder := { r.ladder with assembly := l } }

/-- The record with a completed report (R126). -/
def Terminal.reported (x : Report) (r : Terminal) : Terminal :=
  { r with ladder := { r.ladder with assembly := [], report := some x } }

/-- The PLD counters after a completed report (R126). -/
def PldCounters.reported (k : PldCounters) : PldCounters := { k with reportsCompleted := k.reportsCompleted + 1 }

/-- The record with the upstream margin of a traffic burst (R128). -/
def Terminal.measuredUp (m : Int) (r : Terminal) : Terminal := { r with ladder := { r.ladder with upMargin := some m } }

theorem Terminal.reportBroken_empty (r : Terminal) : r.reportBroken.ladder.assembly = [] := by
  unfold Terminal.reportBroken
  split
  · next h => exact h
  · rfl

/-- The sector with the profile named, when one is, pending after a fade (R135). -/
def Sector.fadePended (a : Sector) (t : TermNo) : Option ProfileNo → Sector
  | none => a
  | some p => (a.makePending t p .stepDown).countPld fun k => { k with fadeStepDowns := k.fadeStepDowns + 1 }

section
variable {s a : Sector} {t : TermNo} {c : CarrierNo} {r : Terminal} {k : Carrier} {p : PldCounters} {e : EventSets}
  (h : s.Turned t c r k p e a)
include h

theorem Sector.Turned.makePending (q : ProfileNo) (d : Direction) :
    s.Turned t c (r.pended q d) k (p.pended r.ladder.pending) e (a.makePending t q d) := by
  unfold Sector.makePending PldCounters.pended
  dsimp only
  rw [h.term]
  split
  · exact (h.countPld fun k => { k with pendingReplaced := k.pendingReplaced + 1 }).modTerm (Terminal.pended q d)
  · exact h.modTerm (Terminal.pended q d)

theorem Sector.Turned.setStepUp (n : Nat) : s.Turned t c (r.counting n) k p e (a.setStepUp t n) := h.modTerm (Terminal.counting n)

theorem Sector.Turned.lowerProfiles (floor x : ProfileNo) : a.lowerProfiles floor x = s.lowerProfiles floor x := by
  unfold Sector.lowerProfiles
  simp only [h.profile]

/-- The PLD's part of entering FADING: the profile named, when one is, becomes pending (R135). -/
theorem Sector.Turned.fadeStepDown_eq : a.fadeStepDown t = a.fadePended t (r.fadesTo (s.fadeTarget r)) := by
  unfold Sector.fadeStepDown Terminal.fadesTo Sector.fadeTarget
  rw [h.term]
  dsimp only
  rw [h.lowerProfiles]
  cases (s.lowerProfiles r.cfg.floor r.ladder.current).getLast? with
  | none =>
    cases r.ladder.pending with
    | none => rfl
    | some x => exact (congrArg (a.fadePended t) (ite_self none)).symm
  | some q =>
    cases r.ladder.pending with
    | none => rfl
    | some x =>
      dsimp only
      split <;> rfl

theorem Sector.Turned.fadeStepDown :
    s.Turned t c (r.fadeStepped (s.fadeTarget r)) k (p.fadeStepped r (s.fadeTarget r)) e (a.fadeStepDown t) := by
  rw [h.fadeStepDown_eq]
  unfold Terminal.fadeStepped PldCounters.fadeStepped
  cases r.fadesTo (s.fadeTarget r) with
  | none => exact h
  | some q => exact (h.makePending q .stepDown).countPld fun k => { k with fadeStepDowns := k.fadeStepDowns + 1 }

theorem Sector.Turned.breakAssembly : s.Turned t c r.reportBroken k (p.reportBroken r) e (a.breakAssembly t) := by
  unfold Sector.breakAssembly Terminal.reportBroken PldCounters.reportBroken
  rw [h.term]
  cases hl : r.ladder.assembly with
  | nil => exact h
  | cons x l =>
    exact ((h.modTerm (Terminal.assembling [])).modTerm
      fun r => { r with ctr := { r.ctr with brokenReports := r.ctr.brokenReports + 1 } }).countPld
        fun k => { k with brokenReports := k.brokenReports + 1 }

/-- A fragment with a start mark (R125). -/
theorem Sector.Turned.takeFragment_start {f : Fragment} (hf : f.start = true) :
    s.Turned t c (r.reportBroken.assembling [f.bits]) k (p.reportBroken r) e (a.takeFragment t f) := by
  unfold Sector.takeFragment
  rw [if_pos hf]
  exact h.breakAssembly.modTerm (Terminal.assembling [f.bits])

/-- A fragment that no assembly is held for (R125). -/
theorem Sector.Turned.takeFragment_orphan {f : Fragment} (hf : f.start = false) (hl : r.ladder.assembly = []) :
    s.Turned t c r k { p with orphanFragments := p.orphanFragments + 1 } e (a.takeFragment t f) := by
  unfold Sector.takeFragment
  rw [hf, if_neg Bool.false_ne_true, h.term, hl]
  exact h.countPld fun k => { k with orphanFragments := k.orphanFragments + 1 }

/-- A fragment that follows others without completing the report (R125). -/
theorem Sector.Turned.takeFragment_joins {f : Fragment} (hf : f.start = false) (hne : r.ladder.assembly ≠ [])
    (hl : r.ladder.assembly.length ≠ 3) :
    s.Turned t c (r.assembling (r.ladder.assembly ++ [f.bits])) k p e (a.takeFragment t f) := by
  unfold Sector.takeFragment
  rw [hf, if_neg Bool.false_ne_true, h.term]
  split
  · next h0 => exact absurd h0 hne
  · next x y z h3 => exact absurd (congrArg List.length h3) hl
  · exact h.modTerm fun r' => { r' with ladder := { r'.ladder with assembly := r.ladder.assembly ++ [f.bits] } }

/-- The fragment that completes a report (R126). -/
theorem Sector.Turned.takeFragment_completes {f : Fragment} {x y z : BitVec 4} (hf : f.start = false)
    (hl : r.ladder.assembly = [x, y, z]) :
    ∃ b : Sector, s.Turned t c (r.reported (Report.ofFragments x y z f.bits)) k p.reported e b ∧
      a.takeFragment t f =
        if r.link.state = .serving then b.ladderDecision t (Report.ofFragments x y z f.bits) else b := by
  refine ⟨(a.modTerm t (Terminal.reported (Report.ofFragments x y z f.bits))).countPld PldCounters.reported,
    (h.modTerm (Terminal.reported _)).countPld PldCounters.reported, ?_⟩
  unfold Sector.takeFragment
  rw [hf, if_neg Bool.false_ne_true, h.term, hl]
  dsimp only
  unfold Sector.completeReport
  rw [h.term]
  rfl

end

/-! ### What a ladder decision leaves (R129) -/

/-- What of a record a ladder decision never changes. -/
structure Terminal.Decided (r y : Terminal) : Prop where
  ladder : y.ladder = { r.ladder with pending := y.ladder.pending, stepUp := y.ladder.stepUp }
  owed : y.owed = { r.owed with profile := y.owed.profile }
  cfg : y.cfg = r.cfg
  link : y.link = r.link
  range : y.range = r.range
  adm : y.adm = r.adm
  hold : y.hold = r.hold
  ctr : y.ctr = r.ctr

theorem Terminal.Decided.refl (r : Terminal) : r.Decided r := ⟨rfl, rfl, rfl, rfl, rfl, rfl, rfl, rfl⟩

theorem Terminal.Decided.trans {r x y : Terminal} (h : r.Decided x) (g : x.Decided y) : r.Decided y where
  ladder := by rw [g.ladder, h.ladder]
  owed := by rw [g.owed, h.owed]
  cfg := g.cfg.trans h.cfg
  link := g.link.trans h.link
  range := g.range.trans h.range
  adm := g.adm.trans h.adm
  hold := g.hold.trans h.hold
  ctr := g.ctr.trans h.ctr

theorem Terminal.counting_decided (n : Nat) (r : Terminal) : r.Decided (r.counting n) := ⟨rfl, rfl, rfl, rfl, rfl, rfl, rfl, rfl⟩

theorem Terminal.pended_decided (p : ProfileNo) (d : Direction) (r : Terminal) : r.Decided (r.pended p d) :=
  ⟨rfl, rfl, rfl, rfl, rfl, rfl, rfl, rfl⟩

theorem Terminal.clearPending_decided (r : Terminal) : r.Decided r.clearPending := ⟨rfl, rfl, rfl, rfl, rfl, rfl, rfl, rfl⟩

/-- What of the PLD counters a ladder decision never changes. -/
structure PldCounters.Decided (p q : PldCounters) : Prop where
  broken : q.brokenReports = p.brokenReports
  orphans : q.orphanFragments = p.orphanFragments
  completed : q.reportsCompleted = p.reportsCompleted

theorem PldCounters.Decided.refl (p : PldCounters) : p.Decided p := ⟨rfl, rfl, rfl⟩

theorem PldCounters.pended_decided (old : Option PendingProfile) (p : PldCounters) : p.Decided (p.pended old) := by
  unfold PldCounters.pended
  split <;> exact ⟨rfl, rfl, rfl⟩

section
variable {s a : Sector} {t : TermNo} {c : CarrierNo} {r : Terminal} {k : Carrier} {p : PldCounters} {e : EventSets}
  (h : s.Turned t c r k p e a)
include h

/-- The record and the PLD counters became others that a ladder decision may make of them. -/
def Sector.Turned.DecidedTo (_ : s.Turned t c r k p e a) (b : Sector) : Prop :=
  ∃ y q, s.Turned t c y k q e b ∧ r.Decided y ∧ p.Decided q

theorem Sector.Turned.judgeStepDown (m : Int) : h.DecidedTo (a.judgeStepDown t m) := by
  have hzero := h.setStepUp 0
  have hpend (x : ProfileNo) : h.DecidedTo
      (((a.setStepUp t 0).makePending t x .stepDown).countPld fun k => { k with stepDownDecisions := k.stepDownDecisions + 1 }) := by
    have hd := p.pended_decided r.ladder.pending
    exact ⟨_, _, (hzero.makePending x .stepDown).countPld _, (r.counting_decided 0).trans (Terminal.pended_decided _ _ _),
      ⟨hd.broken, hd.orphans, hd.completed⟩⟩
  have hself : h.DecidedTo (a.setStepUp t 0) := ⟨_, _, hzero, r.counting_decided 0, .refl p⟩
  unfold Sector.judgeStepDown
  dsimp only
  split
  · split
    · split
      · exact ⟨_, _, hzero.modTerm Terminal.clearPending, (r.counting_decided 0).trans (Terminal.clearPending_decided _), .refl p⟩
      · exact hself
    · exact hself
  · split
    · split
      · exact hself
      · exact hpend _
    · exact hpend _

theorem Sector.Turned.judgeStepUp (m : Int) (x : Report) : h.DecidedTo (a.judgeStepUp t m x) := by
  have hcount (n : Nat) : h.DecidedTo (a.setStepUp t n) := ⟨_, _, h.setStepUp n, r.counting_decided n, .refl p⟩
  unfold Sector.judgeStepUp
  dsimp only
  split
  · exact hcount 0
  · split
    · split
      · have hd := p.pended_decided r.ladder.pending
        exact ⟨_, _, ((h.setStepUp 0).makePending _ .stepUp).countPld _, (r.counting_decided 0).trans (Terminal.pended_decided _ _ _),
          ⟨hd.broken, hd.orphans, hd.completed⟩⟩
      · exact hcount _
    · exact hcount 0

theorem Sector.Turned.ladderDecision (x : Report) : h.DecidedTo (a.ladderDecision t x) := by
  unfold Sector.ladderDecision
  dsimp only
  split
  · exact h.judgeStepDown _
  · split
    · exact ⟨_, _, h, .refl r, .refl p⟩
    · exact h.judgeStepUp _ x

end

end Sys2Proof.Machine
end

section
/-! SUPPORT. A miss in a home slot of a terminal in service (R56, R85, R127): O45. -/

namespace Sys2Proof.Machine

/-! ### Entering FADING (R41, R135) -/

/-- The record of a terminal entering FADING on a carrier whose fade step-down is `b`, with the target `q` (R41, R135). -/
def Terminal.faded (b : Bool) (q : Option ProfileNo) (r : Terminal) : Terminal := if b then r.toFading.fadeStepped q else r.toFading

/-- The PLD counters after a terminal with record `r` entered FADING (R135). -/
def PldCounters.faded (b : Bool) (r : Terminal) (q : Option ProfileNo) (p : PldCounters) : PldCounters :=
  if b then p.fadeStepped r q else p

theorem Terminal.fadeStepped_decided (r : Terminal) (q : Option ProfileNo) : r.Decided (r.fadeStepped q) := by
  unfold Terminal.fadeStepped
  split
  · exact .refl r
  · exact r.pended_decided _ _

theorem Terminal.faded_decided (b : Bool) (q : Option ProfileNo) (r : Terminal) : r.toFading.Decided (r.faded b q) := by
  unfold Terminal.faded
  split
  · exact r.toFading.fadeStepped_decided q
  · exact .refl _

theorem PldCounters.faded_decided (b : Bool) (r : Terminal) (q : Option ProfileNo) (p : PldCounters) : p.Decided (p.faded b r q) := by
  have hd := p.pended_decided r.ladder.pending
  unfold PldCounters.faded PldCounters.fadeStepped
  split
  · split
    · exact .refl p
    · exact ⟨hd.broken, hd.orphans, hd.completed⟩
  · exact .refl p

section
variable {s a : Sector} {t : TermNo} {c : CarrierNo} {r : Terminal} {k : Carrier} {p : PldCounters} {e : EventSets}
  (h : s.Turned t c r k p e a)
include h

theorem Sector.Turned.enterFading (hc : r.cfg.carrier = c) :
    s.Turned t c (r.faded k.cfg.fadeStepDown (s.fadeTarget r)) k (p.faded k.cfg.fadeStepDown r (s.fadeTarget r)) e (a.enterFading t) := by
  have hentered := h.modTerm Terminal.toFading
  have hcarrier : a.carrierOf t = c := by rw [Sector.carrierOf, h.term, hc]
  unfold Sector.enterFading Terminal.faded PldCounters.faded
  dsimp only
  rw [hcarrier, h.car]
  split
  · exact hentered.fadeStepDown
  · exact hentered

/-! ### The supervisor takes a miss (R56, R52) -/

/-- The record with one miss more counted. -/
def Terminal.missedOnce (r : Terminal) : Terminal := { r with ctr := { r.ctr with misses := r.ctr.misses + 1 } }

/-- The record of a FADING terminal with its misses counted up to 15 (R56). -/
def Terminal.fadeMissed (r : Terminal) : Terminal := { r with link := { r.link with fadeMisses := min 15 (r.link.fadeMisses + 1) } }

theorem Sector.Turned.lsvMiss_forced (hf : r.link.forced = true) : s.Turned t c r.missedOnce.suppressedOnce k p e (a.lsvMiss t) := by
  have hmissed := (h.modTerm Terminal.missedOnce).suppress
  unfold Sector.lsvMiss
  dsimp only
  rw [h.term, if_pos hf]
  exact hmissed

theorem Sector.Turned.lsvMiss_serving (hf : r.link.forced = false) (hst : r.link.state = .serving) (hc : r.cfg.carrier = c) :
    s.Turned t c (r.missedOnce.faded k.cfg.fadeStepDown (s.fadeTarget r)) k
      (p.faded k.cfg.fadeStepDown r.missedOnce (s.fadeTarget r)) { e with stateChange := insertNo t e.stateChange } (a.lsvMiss t) := by
  have hfading := (h.modTerm Terminal.missedOnce).enterFading hc
  have hstate : (r.missedOnce.faded k.cfg.fadeStepDown (s.fadeTarget r)).link.state = .fading := by
    rw [(r.missedOnce.faded_decided _ _).link]
    rfl
  unfold Sector.lsvMiss
  dsimp only
  rw [h.term, hf, hst, if_neg Bool.false_ne_true]
  refine hfading.moved ?_
  rw [h.term, hst, show s.fadeTarget r.missedOnce = s.fadeTarget r from rfl, hstate]
  decide

theorem Sector.Turned.lsvMiss_fading (hf : r.link.forced = false) (hst : r.link.state = .fading)
    (hn : min 15 (r.link.fadeMisses + 1) < r.cfg.fadeMissLimit) : s.Turned t c r.missedOnce.fadeMissed k p e (a.lsvMiss t) := by
  have hmissed := (h.modTerm Terminal.missedOnce).modTerm Terminal.fadeMissed
  have hm : ((a.modTerm t Terminal.missedOnce).modTerm t fun r' =>
      { r' with link := { r'.link with fadeMisses := min 15 (r.link.fadeMisses + 1) } }) =
      (a.modTerm t Terminal.missedOnce).modTerm t Terminal.fadeMissed :=
    Sector.modTerm_congr (by rw [Sector.term_modTerm, if_pos rfl, h.term]; rfl)
  unfold Sector.lsvMiss
  dsimp only
  rw [h.term, hf, hst, if_neg Bool.false_ne_true, if_neg (not_le.2 hn)]
  rw [← hm] at hmissed
  exact hmissed

theorem Sector.Turned.lsvMiss_fades (hf : r.link.forced = false) (hst : r.link.state = .fading)
    (hn : r.cfg.fadeMissLimit ≤ min 15 (r.link.fadeMisses + 1)) (hc : r.cfg.carrier = c) :
    s.Turned t c
      (Terminal.toDark .fading
        { r.missedOnce.fadeMissed with link := { r.missedOnce.fadeMissed.link with cause := .fade, fadeOn := false } })
      (k.lentIf (decide (r.cfg.lendDelay = 0)) t r.cfg.homeSlots) p { e with stateChange := insertNo t e.stateChange } (a.lsvMiss t) := by
  have hmissed := (h.modTerm Terminal.missedOnce).modTerm Terminal.fadeMissed
  have hm : ((a.modTerm t Terminal.missedOnce).modTerm t fun r' =>
      { r' with link := { r'.link with fadeMisses := min 15 (r.link.fadeMisses + 1) } }) =
      (a.modTerm t Terminal.missedOnce).modTerm t Terminal.fadeMissed :=
    Sector.modTerm_congr (by rw [Sector.term_modTerm, if_pos rfl, h.term]; rfl)
  subst hc
  have hout := Sector.Turned.fadeOut (r := r.missedOnce.fadeMissed) hmissed hst
  unfold Sector.lsvMiss
  dsimp only
  rw [h.term, hf, hst, if_neg Bool.false_ne_true, if_pos hn]
  rw [← hm] at hout
  exact hout

/-! ### A miss at a terminal (R85) -/

/-- The record with a burst of another terminal in its slot counted (R85). -/
def Terminal.foreignCounted (b : Bool) (r : Terminal) : Terminal :=
  if b then { r with ctr := { r.ctr with foreignBursts := r.ctr.foreignBursts + 1 } } else r

theorem Sector.Turned.foreign (b : Bool) :
    s.Turned t c (r.foreignCounted b) k p e
      (if b then a.countTerm t fun k => { k with foreignBursts := k.foreignBursts + 1 } else a) := by
  unfold Terminal.foreignCounted
  split
  · exact h.modTerm fun r => { r with ctr := { r.ctr with foreignBursts := r.ctr.foreignBursts + 1 } }
  · exact h

/-- The part of a miss before the supervisor takes it: counted as foreign, a report broken (R85, R127). -/
theorem Sector.Turned.beforeMiss (o : SlotResult) :
    ∃ b : Sector, s.Turned t c (r.foreignCounted (foreignTo t o)).reportBroken k
      (p.reportBroken r) e b ∧ a.slotMiss t o = b.lsvMiss t := by
  have hp : p.reportBroken (r.foreignCounted (foreignTo t o)) = p.reportBroken r := by
    unfold PldCounters.reportBroken Terminal.foreignCounted
    split <;> rfl
  exact ⟨_, hp ▸ (h.foreign (foreignTo t o)).breakAssembly, rfl⟩

end

/-- What of a record the part of a miss before the supervisor changes. -/
structure Terminal.MissBegun (foreign : Bool) (x r : Terminal) : Prop where
  cfg : r.cfg = x.cfg
  link : r.link = x.link
  hold : r.hold = x.hold
  owed : r.owed = x.owed
  ladder : r.ladder = { x.ladder with assembly := [] }
  ctr : r.ctr = { x.ctr with
    brokenReports := if x.ladder.assembly = [] then x.ctr.brokenReports else x.ctr.brokenReports + 1
    foreignBursts := if foreign then x.ctr.foreignBursts + 1 else x.ctr.foreignBursts }

theorem Terminal.missBegun (foreign : Bool) (x : Terminal) : x.MissBegun foreign (x.foreignCounted foreign).reportBroken := by
  have hctr : (x.foreignCounted foreign).ctr =
      { x.ctr with foreignBursts := if foreign then x.ctr.foreignBursts + 1 else x.ctr.foreignBursts } := by
    cases foreign <;> rfl
  have hrest : (x.foreignCounted foreign).cfg = x.cfg ∧ (x.foreignCounted foreign).link = x.link ∧
      (x.foreignCounted foreign).hold = x.hold ∧ (x.foreignCounted foreign).owed = x.owed ∧
      (x.foreignCounted foreign).ladder = x.ladder := by
    cases foreign <;> exact ⟨rfl, rfl, rfl, rfl, rfl⟩
  obtain ⟨hcfg, hlink, hhold, howed, hladder⟩ := hrest
  unfold Terminal.reportBroken
  rw [hladder]
  split
  · next hl =>
    refine ⟨hcfg, hlink, hhold, howed, ?_, ?_⟩
    · rw [hladder, ← hl]
    · rw [hctr, if_pos hl]
  · next hl =>
    refine ⟨hcfg, hlink, hhold, howed, rfl, ?_⟩
    rw [hctr, if_neg hl]

/-- A slot outcome that is a miss of a terminal in service (R85). -/
theorem Sector.slotOutcome_miss {x : Sector} {c : CarrierNo} {u : FrameNo} {slot : SlotNo} {o : SlotResult} {t : TermNo}
    (hcell : u ≠ (x.car c).lastFrame ∨ (x.car c).cell u slot = .empty) (hslot : (x.car c).slotUse slot = .traffic t)
    (hst : (x.term t).link.state = .serving ∨ (x.term t).link.state = .fading) (hgood : goodFor t o = none) :
    x.slotOutcome c u slot o = (x.frameChecked c u).slotMiss t o := by
  rw [Sector.slotOutcome_empty (Carrier.outcomeCell_empty hcell)]
  have hslot' : ((x.frameChecked c u).car c).slotUse slot = .traffic t := by
    unfold Sector.frameChecked
    rw [Sector.car_modCar_self]
    exact hslot
  have hst' : ((x.frameChecked c u).term t).link.state.inService = true := LinkState.inService_iff.2 hst
  unfold Sector.byKind
  rw [hslot']
  dsimp only
  rw [if_pos hst', hgood]

theorem Terminal.toDark_fresh {old : LinkState} (h : old.startsOutage = true) (r : Terminal) :
    (r.toDark old).link.outage = 0 ∧ (r.toDark old).link.outageOn = true := by
  unfold Terminal.toDark
  dsimp only
  rw [if_pos h]
  exact ⟨rfl, rfl⟩

theorem Terminal.toDark_cause (old : LinkState) (r : Terminal) : (r.toDark old).link.cause = r.link.cause := by
  unfold Terminal.toDark LinkFields.startOutage
  dsimp only
  split <;> rfl

/-- Settles O45: the miss counted and the report broken, then the supervisor's part by link state and forced mark. -/
theorem missOutcomeInService : Obligations.MissOutcomeInService := by
  intro c u slot o t s k x hr hcell hslot hst hgood
  have hbase := Sector.Turned.rfl' (s.sector.frameChecked c u) t x.cfg.carrier
  obtain ⟨b, hbegun, hmiss⟩ := hbase.beforeMiss o
  have hb : x.MissBegun (foreignTo t o) _ := x.missBegun (foreignTo t o)
  refine ⟨_, exec_slotOutcome_event hr (Sector.payloadOf_miss hslot hgood), State.event_only s _, ?_⟩
  rw [State.event_sector, Sector.slotOutcome_miss hcell hslot hst hgood, hmiss]
  have hown : ((x.foreignCounted (foreignTo t o)).reportBroken).cfg.carrier = x.cfg.carrier := by rw [hb.cfg]
  have hbroken : (s.sector.pld.reportBroken x).brokenReports =
      if x.ladder.assembly = [] then s.sector.pld.brokenReports else s.sector.pld.brokenReports + 1 := by
    unfold PldCounters.reportBroken
    split <;> rfl
  generalize hx : (x.foreignCounted (foreignTo t o)).reportBroken = r at hb hown
  replace hbegun : (s.sector.frameChecked c u).Turned t x.cfg.carrier r _ (s.sector.pld.reportBroken x) s.sector.events b := hx ▸ hbegun
  cases hf : x.link.forced with
  | true =>
    have hs := hbegun.lsvMiss_forced (by rw [hb.link]; exact hf)
    have honly : OnlyRecord s.sector (b.lsvMiss t) t := hs.only
    rw [hs.term, hs.pld, hs.events]
    refine ⟨honly, hb.cfg, ?_, ?_, ?_, ?_, hbroken, ?_, fun _ => ⟨hb.link, ?_, rfl⟩, fun h => absurd h (by decide),
      fun h => absurd h (by decide), fun h => absurd h (by decide)⟩
    all_goals simp only [Terminal.missedOnce, Terminal.suppressedOnce, hb.ctr, hb.ladder, hb.hold]
  | false =>
    have hforced : r.link.forced = false := by rw [hb.link]; exact hf
    rcases hst with hst | hst
    · have hstate : r.link.state = .serving := by rw [hb.link]; exact hst
      have hs := hbegun.lsvMiss_serving hforced hstate hown
      have honly : OnlyRecord s.sector (b.lsvMiss t) t := hs.only
      rw [hs.term, hs.pld, hs.events]
      have hd := r.missedOnce.faded_decided ((s.sector.frameChecked c u).car x.cfg.carrier).cfg.fadeStepDown
        ((s.sector.frameChecked c u).fadeTarget r)
      have hp := (s.sector.pld.reportBroken x).faded_decided ((s.sector.frameChecked c u).car x.cfg.carrier).cfg.fadeStepDown r.missedOnce
        ((s.sector.frameChecked c u).fadeTarget r)
      dsimp only
      rw [hd.cfg, hd.ctr, hd.ladder, hd.hold, hd.link, hp.broken, hbroken]
      refine ⟨honly, hb.cfg, ?_, ?_, ?_, ?_, rfl, ?_, fun h => absurd h (by decide), fun _ _ => ⟨?_, ?_, mem_insertNo.2 (.inl rfl)⟩,
        fun _ h => absurd (hst.symm.trans h) (by decide), fun _ h => absurd (hst.symm.trans h) (by decide)⟩
      all_goals simp only [Terminal.missedOnce, Terminal.toFading, HoldFields.suspend, hb.ctr, hb.ladder, hb.hold, hb.link, hb.cfg]
      split <;> rfl
    · have hstate : r.link.state = .fading := by rw [hb.link]; exact hst
      have hmisses : r.link.fadeMisses = x.link.fadeMisses := by rw [hb.link]
      have hlimit : r.cfg.fadeMissLimit = x.cfg.fadeMissLimit := by rw [hb.cfg]
      by_cases hn : x.cfg.fadeMissLimit ≤ min 15 (x.link.fadeMisses + 1)
      · have hs := hbegun.lsvMiss_fades hforced hstate (by rw [hmisses, hlimit]; exact hn) hown
        have honly : OnlyRecord s.sector (b.lsvMiss t) t := hs.only
        rw [hs.term, hs.pld, hs.events]
        obtain ⟨hout, hon⟩ := Terminal.toDark_fresh (old := .fading) rfl
          { r.missedOnce.fadeMissed with link := { r.missedOnce.fadeMissed.link with cause := .fade, fadeOn := false } }
        refine ⟨honly, hb.cfg, ?_, rfl, ?_, ?_, hbroken, ?_, fun h => absurd h (by decide),
          fun _ h => absurd (hst.symm.trans h) (by decide), fun _ _ h => absurd h (not_lt.2 hn),
          fun _ _ _ => ⟨rfl, Terminal.toDark_cause _ _, hout, hon, mem_insertNo.2 (.inl rfl)⟩⟩
        all_goals simp only [Terminal.toDark, Terminal.ladderOut, Terminal.missedOnce, Terminal.fadeMissed,
          HoldFields.toIdle, hb.ctr, hb.hold]
      · have hs := hbegun.lsvMiss_fading hforced hstate (by rw [hmisses, hlimit]; exact not_le.1 hn)
        have honly : OnlyRecord s.sector (b.lsvMiss t) t := hs.only
        rw [hs.term, hs.pld, hs.events]
        refine ⟨honly, hb.cfg, ?_, ?_, ?_, ?_, hbroken, ?_, fun h => absurd h (by decide),
          fun _ h => absurd (hst.symm.trans h) (by decide), fun _ _ _ => ⟨?_, rfl⟩, fun _ _ h => absurd h hn⟩
        all_goals simp only [Terminal.missedOnce, Terminal.fadeMissed, hb.ctr, hb.ladder, hb.hold, hb.link]

end Sys2Proof.Machine
end

section
/-! SUPPORT. Fragments and reports (R125 to R128), and a good traffic burst (R13, R14, R55, R151): O46. -/

namespace Sys2Proof.Machine

/-! ### The sixteen bits of a report (Section 12.3) -/

theorem append_toNat (m : Nat) (a : BitVec m) (b : BitVec 4) : (a ++ b).toNat = 16 * a.toNat + b.toNat := by
  rw [BitVec.toNat_append, ← Nat.shiftLeft_add_eq_or_of_lt b.isLt, Nat.shiftLeft_eq]
  omega

theorem Report.ofFragments_eq (a b c d : BitVec 4) : Report.ofFragments a b c d =
    { margin := (a ++ b : BitVec 8).toInt
      trend := [Trend.falling, .steady, .rising, .unknown].getD (c.toNat / 4) .unknown
      headroom := 16 * (c.toNat % 4) + d.toNat } := by
  have hb := b.isLt
  have hc := c.isLt
  have hd := d.isLt
  have hbits : (a ++ b ++ c ++ d).toNat = 4096 * a.toNat + 256 * b.toNat + 16 * c.toNat + d.toNat := by
    rw [append_toNat, append_toNat, append_toNat]
    omega
  have hab := append_toNat 4 a b
  have hmargin : (a ++ b ++ c ++ d).extractLsb' 8 8 = (a ++ b : BitVec 8) := by
    refine BitVec.eq_of_toNat_eq ?_
    rw [BitVec.extractLsb'_toNat, hbits, hab, Nat.shiftRight_eq_div_pow]
    omega
  have htrend : ((a ++ b ++ c ++ d).extractLsb' 6 2).toNat = c.toNat / 4 := by
    rw [BitVec.extractLsb'_toNat, hbits, Nat.shiftRight_eq_div_pow]
    omega
  have hhead : ((a ++ b ++ c ++ d).extractLsb' 0 6).toNat = 16 * (c.toNat % 4) + d.toNat := by
    rw [BitVec.extractLsb'_toNat, hbits, Nat.shiftRight_eq_div_pow]
    omega
  have hof (x : BitVec 2) : Trend.ofBits x = [Trend.falling, .steady, .rising, .unknown].getD x.toNat .unknown := by
    revert x; decide
  unfold Report.ofFragments
  dsimp only
  rw [hof, htrend, hhead, hmargin]

/-! ### What a fragment taken makes of the record (R125 to R127) -/

/-- From `r` and `p` to `y` and `q` fragment `f` was taken into the assembly. -/
structure Terminal.Took (f : Fragment) (r y : Terminal) (p q : PldCounters) : Prop where
  cfg : y.cfg = r.cfg
  link : y.link = r.link
  range : y.range = r.range
  adm : y.adm = r.adm
  hold : y.hold = r.hold
  owed : y.owed = { r.owed with profile := y.owed.profile }
  ctr : y.ctr = { r.ctr with brokenReports :=
    if f.start = true ∧ r.ladder.assembly ≠ [] then r.ctr.brokenReports + 1 else r.ctr.brokenReports }
  current : y.ladder.current = r.ladder.current
  upMargin : y.ladder.upMargin = r.ladder.upMargin
  broken : q.brokenReports = if f.start = true ∧ r.ladder.assembly ≠ [] then p.brokenReports + 1 else p.brokenReports
  orphans : q.orphanFragments = if f.start = false ∧ r.ladder.assembly = [] then p.orphanFragments + 1 else p.orphanFragments
  completed : q.reportsCompleted =
    if f.start = false ∧ r.ladder.assembly.length = 3 then p.reportsCompleted + 1 else p.reportsCompleted
  assembled : y.ladder.assembly = if f.start = true then [f.bits]
    else if r.ladder.assembly = [] ∨ r.ladder.assembly.length = 3 then [] else r.ladder.assembly ++ [f.bits]
  report : f.start = true ∨ r.ladder.assembly.length ≠ 3 → y.ladder.report = r.ladder.report
  complete : ∀ a b c, f.start = false → r.ladder.assembly = [a, b, c] → y.ladder.report = some (Report.ofFragments a b c f.bits)
  undecided : r.link.state ≠ .serving → y.ladder.pending = r.ladder.pending ∧ y.ladder.stepUp = r.ladder.stepUp ∧
    y.owed.profile = r.owed.profile ∧ q.stepDownDecisions = p.stepDownDecisions ∧ q.stepUpDecisions = p.stepUpDecisions

theorem Terminal.reportBroken_took {f : Fragment} (hf : f.start = true) (r : Terminal) (p : PldCounters) :
    Terminal.Took f r (r.reportBroken.assembling [f.bits]) p (p.reportBroken r) := by
  have hne : ¬ f.start = false := by rw [hf]; decide
  unfold Terminal.reportBroken PldCounters.reportBroken
  by_cases hl : r.ladder.assembly = []
  · simp only [if_pos hl]
    exact
      { cfg := rfl, link := rfl, range := rfl, adm := rfl, hold := rfl, owed := rfl, current := rfl, upMargin := rfl
        ctr := by rw [if_neg fun h => h.2 hl]; rfl
        broken := by rw [if_neg fun h => h.2 hl]
        orphans := by rw [if_neg fun h => hne h.1]
        completed := by rw [if_neg fun h => hne h.1]
        assembled := by rw [if_pos hf]; rfl
        report := fun _ => rfl
        complete := fun _ _ _ h => absurd h hne
        undecided := fun _ => ⟨rfl, rfl, rfl, rfl, rfl⟩ }
  · simp only [if_neg hl]
    exact
      { cfg := rfl, link := rfl, range := rfl, adm := rfl, hold := rfl, owed := rfl, current := rfl, upMargin := rfl
        ctr := by rw [if_pos ⟨hf, hl⟩]; rfl
        broken := by rw [if_pos ⟨hf, hl⟩]
        orphans := by rw [if_neg fun h => hne h.1]
        completed := by rw [if_neg fun h => hne h.1]
        assembled := by rw [if_pos hf]; rfl
        report := fun _ => rfl
        complete := fun _ _ _ h => absurd h hne
        undecided := fun _ => ⟨rfl, rfl, rfl, rfl, rfl⟩ }

theorem Terminal.orphan_took {f : Fragment} (hf : f.start = false) {r : Terminal} (hl : r.ladder.assembly = []) (p : PldCounters) :
    Terminal.Took f r r p { p with orphanFragments := p.orphanFragments + 1 } := by
  have hne : ¬ f.start = true := by rw [hf]; decide
  exact
    { cfg := rfl, link := rfl, range := rfl, adm := rfl, hold := rfl, owed := rfl, current := rfl, upMargin := rfl
      ctr := by rw [if_neg fun h => hne h.1]
      broken := by rw [if_neg fun h => hne h.1]
      orphans := by rw [if_pos ⟨hf, hl⟩]
      completed := by rw [if_neg fun h => by rw [hl] at h; exact absurd h.2 (by decide)]
      assembled := by rw [if_neg hne, if_pos (.inl hl), hl]
      report := fun _ => rfl
      complete := fun _ _ _ _ h => by rw [hl] at h; cases h
      undecided := fun _ => ⟨rfl, rfl, rfl, rfl, rfl⟩ }

theorem Terminal.joins_took {f : Fragment} (hf : f.start = false) {r : Terminal} (hl : r.ladder.assembly ≠ [])
    (h3 : r.ladder.assembly.length ≠ 3) (p : PldCounters) : Terminal.Took f r (r.assembling (r.ladder.assembly ++ [f.bits])) p p := by
  have hne : ¬ f.start = true := by rw [hf]; decide
  exact
    { cfg := rfl, link := rfl, range := rfl, adm := rfl, hold := rfl, owed := rfl, current := rfl, upMargin := rfl
      ctr := by rw [if_neg fun h => hne h.1]; rfl
      broken := by rw [if_neg fun h => hne h.1]
      orphans := by rw [if_neg fun h => hl h.2]
      completed := by rw [if_neg fun h => h3 h.2]
      assembled := by rw [if_neg hne, if_neg fun h => h.elim hl h3]; rfl
      report := fun _ => rfl
      complete := fun _ _ _ _ h => by rw [h] at h3; exact absurd rfl h3
      undecided := fun _ => ⟨rfl, rfl, rfl, rfl, rfl⟩ }

theorem Terminal.reported_took {f : Fragment} (hf : f.start = false) {r y : Terminal} {p q : PldCounters} {a b c : BitVec 4}
    (hl : r.ladder.assembly = [a, b, c]) (hd : (r.reported (Report.ofFragments a b c f.bits)).Decided y) (hp : p.reported.Decided q)
    (hu : r.link.state ≠ .serving → y = r.reported (Report.ofFragments a b c f.bits) ∧ q = p.reported) : Terminal.Took f r y p q := by
  have hne : ¬ f.start = true := by rw [hf]; decide
  have h3 : r.ladder.assembly.length = 3 := by rw [hl]; rfl
  exact
    { cfg := hd.cfg, link := hd.link, range := hd.range, adm := hd.adm, hold := hd.hold, owed := hd.owed
      current := by rw [hd.ladder]; rfl
      upMargin := by rw [hd.ladder]; rfl
      ctr := by rw [hd.ctr, if_neg fun h => hne h.1]; rfl
      broken := by rw [hp.broken, if_neg fun h => hne h.1]; rfl
      orphans := by rw [hp.orphans, if_neg fun h => by rw [hl] at h; cases h.2]; rfl
      completed := by rw [hp.completed, if_pos ⟨hf, h3⟩]; rfl
      assembled := by rw [hd.ladder, if_neg hne, if_pos (.inr h3)]; rfl
      report := fun h => absurd h3 (h.resolve_left hne)
      complete := fun a' b' c' _ h => by
        have habc := hl.symm.trans h
        simp only [List.cons.injEq, and_true] at habc
        obtain ⟨rfl, rfl, rfl⟩ := habc
        rw [hd.ladder]
        rfl
      undecided := fun h => by
        obtain ⟨rfl, rfl⟩ := hu h
        exact ⟨rfl, rfl, rfl, rfl, rfl⟩ }

/-- A fragment taken (R125, R126). -/
theorem Sector.Turned.takeFragment {s a : Sector} {t : TermNo} {c : CarrierNo} {r : Terminal} {k : Carrier} {p : PldCounters}
    {e : EventSets} (h : s.Turned t c r k p e a) (f : Fragment) :
    ∃ y q, s.Turned t c y k q e (a.takeFragment t f) ∧ Terminal.Took f r y p q := by
  cases hf : f.start with
  | true => exact ⟨_, _, h.takeFragment_start hf, Terminal.reportBroken_took hf r p⟩
  | false =>
    by_cases hl : r.ladder.assembly = []
    · exact ⟨_, _, h.takeFragment_orphan hf hl, Terminal.orphan_took hf hl p⟩
    · by_cases h3 : r.ladder.assembly.length = 3
      · obtain ⟨x₁, x₂, x₃, hx⟩ := List.length_eq_three.1 h3
        obtain ⟨b, hb, hb'⟩ := h.takeFragment_completes hf hx
        rw [hb']
        by_cases hst : r.link.state = .serving
        · rw [if_pos hst]
          obtain ⟨y, q, hy, hd, hp⟩ := hb.ladderDecision (Report.ofFragments x₁ x₂ x₃ f.bits)
          exact ⟨y, q, hy, Terminal.reported_took hf hx hd hp fun hn => absurd hst hn⟩
        · rw [if_neg hst]
          exact ⟨_, _, hb, Terminal.reported_took hf hx (.refl _) (.refl _) fun _ => ⟨rfl, rfl⟩⟩
      · exact ⟨_, _, h.takeFragment_joins hf hl h3, Terminal.joins_took hf hl h3 p⟩

/-! ### The pause flag (R151, Table 8.3) -/

/-- The release state that a pause flag makes of `before` (Table 8.3). -/
def releaseAfter (mode : BackPressure) (pause : Bool) (before : ReleaseState) : ReleaseState :=
  if before = .idle then .idle
  else if pause then (if mode = .wait then .paused else .yielding)
  else if before = .yielding ∧ mode = .yielding then .yielding else .releasing

/-- Table 8.3, row by row, but for SUSPENDED, which the flag leaves. -/
theorem HoldFields.pauseFlag_release (mode : BackPressure) (period : Nat) (pause : Bool) {h : HoldFields} (hs : h.release ≠ .suspended) :
    (h.pauseFlag mode period pause).release = releaseAfter mode pause h.release ∧
      (releaseAfter mode pause h.release = .yielding →
        (h.pauseFlag mode period pause).yieldCount = if pause then period else h.yieldCount) := by
  obtain ⟨release, count, queue⟩ := h
  unfold HoldFields.pauseFlag releaseAfter
  cases release with
  | idle => exact ⟨rfl, fun h => nomatch h⟩
  | suspended => exact absurd rfl hs
  | releasing | paused | yielding =>
    cases mode <;> cases pause <;> simp

/-! ### A good traffic burst (R55, R85, R128) -/

/-- A FADING terminal without the forced mark returns to SERVING with a good burst (R55). -/
def Terminal.burstTaken (r : Terminal) : Terminal :=
  if r.link.state = .fading ∧ r.link.forced = false then Terminal.toServing { r with link := { r.link with fadeOn := false } } else r

theorem Terminal.burstTaken_cfg (r : Terminal) : r.burstTaken.cfg = r.cfg := by
  unfold Terminal.burstTaken
  split <;> rfl

/-- The event sets after a good burst of terminal `t` (R35). -/
def EventSets.burstTaken (t : TermNo) (r : Terminal) (e : EventSets) : EventSets :=
  if r.link.state = .fading ∧ r.link.forced = false then { e with stateChange := insertNo t e.stateChange } else e

section
variable {s a : Sector} {t : TermNo} {c : CarrierNo} {r : Terminal} {k : Carrier} {p : PldCounters} {e : EventSets}
  (h : s.Turned t c r k p e a)
include h

theorem Sector.Turned.lsvGoodBurst : s.Turned t c r.burstTaken k p (e.burstTaken t r) (a.lsvGoodBurst t) := by
  unfold Sector.lsvGoodBurst Terminal.burstTaken EventSets.burstTaken
  dsimp only
  rw [h.term]
  by_cases hr : r.link.state = .fading ∧ r.link.forced = false
  · rw [if_pos hr, if_pos hr, if_pos hr]
    refine (h.leave_fading .progress hr.1).enterServing.moved ?_
    rw [h.term, hr.1]
    exact show LinkState.fading ≠ .serving by decide
  · rw [if_neg hr, if_neg hr, if_neg hr]
    exact h

/-- The upstream margin of a burst measured at `snr` over the profile `cur` (R128). -/
def Sector.marginUp (s : Sector) (cur : ProfileNo) (snr : Nat) : Int := (snr : Int) - ((s.profile cur).requiredSnr : Int)

theorem Sector.Turned.takeSnr (snr : Nat) :
    s.Turned t c (r.measuredUp (s.marginUp r.ladder.current snr)) k p e (a.takeSnr t snr) := by
  have hup := h.modTerm (Terminal.measuredUp (s.marginUp r.ladder.current snr))
  have hsame : a.takeSnr t snr = a.modTerm t (Terminal.measuredUp (s.marginUp r.ladder.current snr)) := by
    unfold Sector.takeSnr Sector.modLadder
    refine Sector.modTerm_congr ?_
    rw [h.term]
    simp only [h.profile]
    rfl
  rw [hsame]
  exact hup

theorem Sector.Turned.takePauseFlag (hc : r.cfg.carrier = c) (flag : Bool) :
    s.Turned t c { r with hold := r.hold.pauseFlag r.cfg.backPressure k.cfg.yieldPeriod flag } k p e (a.takePauseFlag t flag) := by
  unfold Sector.takePauseFlag Sector.carrierOf
  rw [h.term, hc, h.car]
  exact h.modTerm fun r' => { r' with hold := r'.hold.pauseFlag r.cfg.backPressure k.cfg.yieldPeriod flag }

/-- A good burst of a terminal, its fragment's part told by `Terminal.Took` (R85). -/
theorem Sector.Turned.goodBurst (hc : r.cfg.carrier = c) (g : GoodBurst) :
    ∃ y q, s.Turned t c { y with hold := y.hold.pauseFlag y.cfg.backPressure k.cfg.yieldPeriod g.pause } k q (e.burstTaken t r)
        (a.goodBurst t g) ∧
      Terminal.Took g.fragment (r.burstTaken.measuredUp (s.marginUp r.burstTaken.ladder.current g.snr)) y p q := by
  obtain ⟨y, q, hy, ht⟩ := (h.lsvGoodBurst.takeSnr g.snr).takeFragment g.fragment
  have hyc : y.cfg.carrier = c := by
    rw [ht.cfg]
    exact (congrArg TermConfig.carrier r.burstTaken_cfg).trans hc
  exact ⟨y, q, hy.takePauseFlag hyc g.pause, ht⟩

end

/-! ### The slot of a terminal in service (R84, R85) -/

/-- What a good traffic burst hands on. -/
def goodOf (b : Burst) (f : Fragment) (pause : Bool) (payload : List (List Byte)) : GoodBurst :=
  { snr := b.snr, fragment := f, pause := pause, payload := payload }

section
variable {x : Sector} {c : CarrierNo} {u : FrameNo} {slot : SlotNo} {b : Burst} {f : Fragment} {pause : Bool}
  {payload : List (List Byte)}

theorem goodFor_traffic (hk : b.kind = .traffic f pause payload) : goodFor b.claimed (.burst b) = some (goodOf b f pause payload) := by
  simp only [goodFor, hk, if_true, goodOf]

variable (hk : b.kind = .traffic f pause payload) (hcell : u ≠ (x.car c).lastFrame ∨ (x.car c).cell u slot = .empty)
  (hslot : (x.car c).slotUse slot = .traffic b.claimed)
  (hst : (x.term b.claimed).link.state = .serving ∨ (x.term b.claimed).link.state = .fading)
include hk hcell hslot hst

theorem Sector.slotOutcome_good :
    x.slotOutcome c u slot (.burst b) = (x.frameChecked c u).goodBurst b.claimed (goodOf b f pause payload) := by
  rw [Sector.slotOutcome_empty (Carrier.outcomeCell_empty hcell)]
  have hslot' : ((x.frameChecked c u).car c).slotUse slot = .traffic b.claimed := by
    unfold Sector.frameChecked
    rw [Sector.car_modCar_self]
    exact hslot
  have hst' : ((x.frameChecked c u).term b.claimed).link.state.inService = true := LinkState.inService_iff.2 hst
  unfold Sector.byKind
  rw [hslot']
  dsimp only
  rw [if_pos hst', goodFor_traffic hk]

theorem Sector.payloadOf_good : x.payloadOf c u slot (.burst b) = some (b.claimed, payload) := by
  unfold Sector.payloadOf
  rw [Carrier.outcomeCell_empty hcell, hslot]
  dsimp only
  rw [if_pos (LinkState.inService_iff.2 hst), goodFor_traffic hk]
  rfl

end

theorem Sector.frameChecked_cfg (x : Sector) (c d : CarrierNo) (u : FrameNo) : ((x.frameChecked c u).car d).cfg = (x.car d).cfg := by
  unfold Sector.frameChecked
  rw [Sector.car_modCar]
  split
  · next h => rw [h]
  · rfl

/-! ### The payload sent on (R13, R14) -/

/-- A payload frame as it leaves under a home tag (R13). -/
def upstreamBytes (tag : Nat) (q : List Byte) : List Byte := sealFrame (withTag tag (q.take (q.length - checkLength)))

/-- A payload frame as it leaves, its first twelve bytes read from the frame itself. -/
theorem upstreamBytes_eq (tag : Nat) {q : List Byte} (h : 60 ≤ q.length) : upstreamBytes tag q =
    (let w := q.take 12 ++ [0x81, 0x00] ++ be16 tag ++ (q.take (q.length - 4)).drop 12
     w ++ beBytes 4 (Config.checkSequence w).toNat) := by
  unfold upstreamBytes sealFrame withTag checkLength
  rw [List.take_take, Nat.min_eq_left (by omega)]

theorem payloadFits_length {q : List Byte} (h : payloadFits q = true) : 60 ≤ q.length := by
  unfold payloadFits at h
  simp only [Bool.and_eq_true, decide_eq_true_eq] at h
  exact h.1.2

theorem counter_add_succ (x : Counter) (n : Nat) : x + 1 + BitVec.ofNat 32 n = x + BitVec.ofNat 32 (n + 1) := by
  rw [counter_succ, BitVec.add_assoc, BitVec.add_comm 1, ← BitVec.add_assoc]

theorem State.foldl_upstream_none (s : State) (l : List (List Byte)) : l.foldl (State.upstreamFrame none) s =
    { s with fcl := { s.fcl with upstreamNoTag := s.fcl.upstreamNoTag + BitVec.ofNat 32 l.length } } := by
  induction l generalizing s with
  | nil => rw [List.foldl_nil, List.length_nil, BitVec.add_zero]
  | cons q l ih =>
    rw [List.foldl_cons, ih, List.length_cons, ← counter_add_succ]
    rfl

theorem State.foldl_upstream_some (tag : Nat) (s : State) (l : List (List Byte)) : l.foldl (State.upstreamFrame (some tag)) s =
    { s with
      npTraffic := s.npTraffic ++ (l.filter payloadFits).map (upstreamBytes tag)
      fcl := { s.fcl with
        upstreamSent := s.fcl.upstreamSent + BitVec.ofNat 32 (l.countP payloadFits)
        upstreamFormat := s.fcl.upstreamFormat + BitVec.ofNat 32 (l.countP fun q => !payloadFits q) } } := by
  induction l generalizing s with
  | nil => simp only [List.foldl_nil, List.filter_nil, List.map_nil, List.append_nil, List.countP_nil, BitVec.add_zero]
  | cons q l ih =>
    rw [List.foldl_cons, ih]
    by_cases hq : payloadFits q = true
    · have hone : s.upstreamFrame (some tag) q = { s.countFcl (fun k => { k with upstreamSent := k.upstreamSent + 1 }) with
          npTraffic := s.npTraffic ++ [upstreamBytes tag q] } := if_pos hq
      rw [hone, List.filter_cons_of_pos hq, List.countP_cons_of_pos hq,
        List.countP_cons_of_neg (p := fun q => !payloadFits q) (by simpa using hq), ← counter_add_succ, List.map_cons]
      simp only [List.append_assoc, List.singleton_append]
      rfl
    · have hone : s.upstreamFrame (some tag) q = s.countFcl fun k => { k with upstreamFormat := k.upstreamFormat + 1 } := if_neg hq
      rw [hone, List.filter_cons_of_neg hq, List.countP_cons_of_neg hq,
        List.countP_cons_of_pos (p := fun q => !payloadFits q) (by simpa using hq), ← counter_add_succ]
      rfl

theorem State.upstream_none {s : State} {t : TermNo} (h : (s.sector.term t).cfg.homeTag = none) (l : List (List Byte)) :
    s.upstream t l = { s with fcl := { s.fcl with upstreamNoTag := s.fcl.upstreamNoTag + BitVec.ofNat 32 l.length } } := by
  unfold State.upstream
  rw [h]
  exact State.foldl_upstream_none s l

theorem State.upstream_some {s : State} {t : TermNo} {tag : Nat} (h : (s.sector.term t).cfg.homeTag = some tag) (l : List (List Byte)) :
    s.upstream t l =
      { s with
        npTraffic := s.npTraffic ++ (l.filter payloadFits).map (upstreamBytes tag)
        fcl := { s.fcl with
          upstreamSent := s.fcl.upstreamSent + BitVec.ofNat 32 (l.countP payloadFits)
          upstreamFormat := s.fcl.upstreamFormat + BitVec.ofNat 32 (l.countP fun q => !payloadFits q) } } := by
  unfold State.upstream
  rw [h]
  exact State.foldl_upstream_some tag s l

/-! ### The statement -/

theorem Terminal.burstTaken_facts {r : Terminal} (hst : r.link.state = .serving ∨ r.link.state = .fading) :
    r.burstTaken.link.state = (if r.link.forced = true then r.link.state else .serving) ∧
      r.burstTaken.hold.queue = r.hold.queue ∧ r.burstTaken.ladder.current = r.ladder.current ∧
      r.burstTaken.ladder.assembly = r.ladder.assembly ∧ r.burstTaken.ctr = r.ctr ∧ r.burstTaken.ladder.report = r.ladder.report := by
  unfold Terminal.burstTaken
  split
  · next hr =>
    rw [hr.2, if_neg Bool.false_ne_true]
    refine ⟨rfl, ?_, rfl, rfl, rfl, rfl⟩
    unfold Terminal.toServing HoldFields.startRelease HoldFields.toIdle
    dsimp only
    split <;> rfl
  · next hr =>
    refine ⟨?_, rfl, rfl, rfl, rfl, rfl⟩
    cases hf : r.link.forced with
    | true => rw [if_pos rfl]
    | false =>
      rw [if_neg Bool.false_ne_true]
      exact hst.resolve_right fun h => hr ⟨h, hf⟩

/-- The release state that the return to SERVING, or no return, leaves before the flag is taken (R40). -/
theorem Terminal.burstTaken_release (r : Terminal) :
    r.burstTaken.hold.release =
      (if r.link.state = .fading ∧ r.link.forced = false then (if r.hold.queue = [] then .idle else .releasing) else r.hold.release) ∧
    (r.burstTaken.hold.release = .yielding → r.burstTaken.hold.yieldCount = r.hold.yieldCount) := by
  unfold Terminal.burstTaken
  split
  · unfold Terminal.toServing HoldFields.startRelease HoldFields.toIdle
    dsimp only
    cases r.hold.queue with
    | nil => exact ⟨rfl, fun h => nomatch h⟩
    | cons x l => exact ⟨rfl, fun h => nomatch h⟩
  · exact ⟨rfl, fun _ => rfl⟩

/-- Settles O46: the supervisor's return, the flag by Table 8.3, and the payload frames in their order. -/
theorem goodTrafficBurst : Obligations.GoodTrafficBurst := by
  intro c u slot b f pause payload s k t r hr hk hcell hslot hst fits returns before after
  obtain ⟨y, q, hs, ht⟩ := (Sector.Turned.rfl' (s.sector.frameChecked c u) t r.cfg.carrier).goodBurst rfl (goodOf b f pause payload)
  obtain ⟨hstate, hqueue, -⟩ := Terminal.burstTaken_facts hst
  obtain ⟨hrelease, hcount⟩ := r.burstTaken_release
  have hhold : y.hold = r.burstTaken.hold := ht.hold
  have hcfg : y.cfg = r.cfg := ht.cfg.trans r.burstTaken_cfg
  have hpayload := Sector.payloadOf_good hk hcell hslot hst
  have hsector : (s.event fun x => x.slotOutcome c u slot (.burst b)).sector =
      (s.sector.frameChecked c u).goodBurst t (goodOf b f pause payload) := by
    rw [State.event_sector, Sector.slotOutcome_good hk hcell hslot hst]
  have honly := State.event_only s fun x => x.slotOutcome c u slot (.burst b)
  have hexec : exec (.slotOutcome c u slot (.burst b)) s =
      .next ((s.event fun x => x.slotOutcome c u slot (.burst b)).upstream t payload) := by
    rw [exec_slotOutcome hr, State.slotOutcome, hpayload]
  generalize s.event (fun x => x.slotOutcome c u slot (.burst b)) = v at hsector honly hexec
  obtain ⟨hpending, hshares, hstraps, htags, hfcl, hnp, hbuffer, -⟩ := honly
  obtain ⟨n, l, hup, -⟩ := State.upstream_cases v t payload
  have htag : (v.sector.term t).cfg.homeTag = r.cfg.homeTag := by
    rw [hsector, hs.term]
    exact congrArg TermConfig.homeTag hcfg
  have hyield : ((s.sector.frameChecked c u).car r.cfg.carrier).cfg.yieldPeriod = (s.sector.car r.cfg.carrier).cfg.yieldPeriod := by
    rw [Sector.frameChecked_cfg]
  have hbefore : y.hold.release = before := (congrArg HoldFields.release hhold).trans hrelease
  refine ⟨_, hexec, ?_, ?_, ?_, ?_, ?_, ?_, ?_, ?_, ?_, fun hsus => ?_, fun hnone => ?_, fun tag hsome => ?_⟩
  · rw [hup]; exact hpending
  · rw [hup]; exact hshares
  · rw [hup]; exact hstraps
  · rw [hup]; exact htags
  · rw [hup]; exact hbuffer
  · rw [hup]; exact hsector ▸ hs.only
  · rw [hup]; exact hsector ▸ hs.handed
  · rw [hup, hsector, hs.term]
    exact (congrArg LinkFields.state ht.link).trans hstate
  · rw [hup, hsector, hs.term]
    exact (HoldFields.pauseFlag_queue _ _ _ _).trans ((congrArg HoldFields.queue hhold).trans hqueue)
  · obtain ⟨hrel, hyc⟩ := HoldFields.pauseFlag_release y.cfg.backPressure
      ((s.sector.frameChecked c u).car r.cfg.carrier).cfg.yieldPeriod pause (h := y.hold) (by rw [hbefore]; exact hsus)
    rw [hbefore, hcfg] at hrel hyc
    rw [hup, hsector, hs.term, hcfg]
    refine ⟨hrel, fun ha => (hyc ha).trans ?_⟩
    cases hp : pause with
    | true => exact hyield
    | false =>
      have hyb : before = .yielding := by
        have hafter : releaseAfter r.cfg.backPressure pause before = .yielding := ha
        rw [hp] at hafter
        unfold releaseAfter at hafter
        by_cases hi : before = .idle
        · rw [if_pos hi] at hafter; cases hafter
        · rw [if_neg hi, if_neg Bool.false_ne_true] at hafter
          by_contra hn
          rw [if_neg fun h => hn h.1] at hafter
          cases hafter
      rw [hhold]
      exact hcount (hrelease.trans hyb)
  · rw [State.upstream_none (htag.trans hnone)]
    refine ⟨hnp, ?_⟩
    dsimp only
    rw [hfcl]
  · rw [State.upstream_some (htag.trans hsome)]
    dsimp only
    rw [hfcl, hnp]
    refine ⟨congrArg (s.npTraffic ++ ·) (List.map_congr_left fun q hq => ?_), rfl⟩
    exact upstreamBytes_eq tag (payloadFits_length (List.mem_filter.1 hq).2)

end Sys2Proof.Machine
end

section
/-! SUPPORT. Ladder decisions (R129 to R132): O50. -/

namespace Sys2Proof.Machine

/-! ### The first and the last of an ascending list -/

theorem getLast?_of_greatest {n : Nat} {l : List (Fin n)} (hl : l.Pairwise (· < ·)) {p : Fin n} (hp : p ∈ l)
    (hmax : ∀ q ∈ l, q ≤ p) :
    l.getLast? = some p := by
  obtain ⟨x, hx⟩ : ∃ x, l.getLast? = some x := ⟨_, List.getLast?_eq_some_getLast (List.ne_nil_of_mem hp)⟩
  obtain ⟨ys, rfl⟩ := List.getLast?_eq_some_iff.1 hx
  have hle : p ≤ x := by
    rcases List.mem_append.1 hp with h | h
    · exact ((List.pairwise_append.1 hl).2.2 p h x (List.mem_singleton.2 rfl)).le
    · exact (List.mem_singleton.1 h).le
  rw [hx, le_antisymm hle (hmax x (List.getLast?_eq_some_iff.2 ⟨ys, rfl⟩ |> List.mem_of_getLast?))]

theorem find?_of_least {n : Nat} {l : List (Fin n)} (hl : l.Pairwise (· < ·)) {f : Fin n → Bool} {p : Fin n} (hp : p ∈ l)
    (hf : f p = true) (hmin : ∀ q ∈ l, f q = true → p ≤ q) : l.find? f = some p := by
  rw [List.find?_eq_some_iff_append]
  obtain ⟨as, bs, rfl⟩ := List.append_of_mem hp
  refine ⟨hf, as, bs, rfl, fun q hq => ?_⟩
  have hlt : q < p := (List.pairwise_append.1 hl).2.2 q hq p List.mem_cons_self
  rw [Bool.not_eq_true']
  by_contra hfq
  exact absurd (hmin q (List.mem_append_left _ hq) (by simpa using hfq)) (not_le.2 hlt)

theorem allProfiles_ascending : allProfiles.Pairwise (· < ·) := List.pairwise_lt_finRange 8

theorem mem_allProfiles (p : ProfileNo) : p ∈ allProfiles := List.mem_finRange p

/-! ### The targets (R130, R131) -/

section
variable {s : Sector} {floor ceiling cur p : ProfileNo} {m : Int}

theorem Sector.mem_lowerProfiles : p ∈ s.lowerProfiles floor cur ↔ (s.profile p).enabled = true ∧ floor ≤ p ∧ p < cur := by
  unfold Sector.lowerProfiles
  simp only [List.mem_filter, Bool.and_eq_true, decide_eq_true_eq, mem_allProfiles, true_and, and_assoc]

theorem Sector.lowerProfiles_ascending : (s.lowerProfiles floor cur).Pairwise (· < ·) := allProfiles_ascending.filter _

/-- A profile that a step-down may go to (R130). -/
def Sector.stepsDownTo (s : Sector) (m : Int) (floor cur p : ProfileNo) : Prop :=
  (s.profile p).enabled = true ∧ floor ≤ p ∧ p < cur ∧ (s.profile p).downMargin ≤ s.marginOver m cur p

theorem Sector.mem_stepsDown :
    p ∈ ((s.lowerProfiles floor cur).filter fun p => decide ((s.profile p).downMargin ≤ s.marginOver m cur p)) ↔
    s.stepsDownTo m floor cur p := by
  rw [List.mem_filter, Sector.mem_lowerProfiles, decide_eq_true_eq, and_assoc, and_assoc]
  rfl

theorem Sector.stepDownTarget_greatest (h : s.stepsDownTo m floor cur p) (hmax : ∀ q, s.stepsDownTo m floor cur q → q ≤ p) :
    s.stepDownTarget m floor cur = p := by
  unfold Sector.stepDownTarget
  rw [getLast?_of_greatest (Sector.lowerProfiles_ascending.filter _) (Sector.mem_stepsDown.2 h)
    fun q hq => hmax q (Sector.mem_stepsDown.1 hq)]
  rfl

theorem Sector.stepDownTarget_floor (h : ∀ q, ¬ s.stepsDownTo m floor cur q) : s.stepDownTarget m floor cur = floor := by
  unfold Sector.stepDownTarget
  rw [List.eq_nil_iff_forall_not_mem.2 fun q hq => h q (Sector.mem_stepsDown.1 hq)]
  rfl

/-- A profile that a step-up may go to (R131). -/
def Sector.stepsUpTo (s : Sector) (ceiling cur p : ProfileNo) : Prop := (s.profile p).enabled = true ∧ cur < p ∧ p ≤ ceiling

theorem Sector.stepsUpTo_iff :
    ((s.profile p).enabled && decide (cur < p) && decide (p ≤ ceiling)) = true ↔ s.stepsUpTo ceiling cur p := by
  simp only [Bool.and_eq_true, decide_eq_true_eq, and_assoc]
  rfl

theorem Sector.stepUpCandidate_least (h : s.stepsUpTo ceiling cur p) (hmin : ∀ q, s.stepsUpTo ceiling cur q → p ≤ q) :
    s.stepUpCandidate ceiling cur = some p :=
  find?_of_least allProfiles_ascending (mem_allProfiles p) (Sector.stepsUpTo_iff.2 h) fun q _ hq => hmin q (Sector.stepsUpTo_iff.1 hq)

theorem Sector.stepUpCandidate_none (h : ∀ q, ¬ s.stepsUpTo ceiling cur q) : s.stepUpCandidate ceiling cur = none :=
  List.find?_eq_none.2 fun q _ hq => h q (Sector.stepsUpTo_iff.1 hq)

end

/-! ### The decision, case by case (R129 to R132) -/

section
variable {s a : Sector} {t : TermNo} {c : CarrierNo} {r : Terminal} {k : Carrier} {p : PldCounters} {e : EventSets}
  (h : s.Turned t c r k p e a) {m : Int} {x : Report}
include h

theorem Sector.Turned.marginOver (cur q : ProfileNo) : a.marginOver m cur q = s.marginOver m cur q := by
  unfold Sector.marginOver
  simp only [h.profile]

theorem Sector.Turned.stepDownTarget (floor cur : ProfileNo) : a.stepDownTarget m floor cur = s.stepDownTarget m floor cur := by
  unfold Sector.stepDownTarget
  simp only [h.profile, h.lowerProfiles, h.marginOver]

theorem Sector.Turned.stepUpCandidate (ceiling cur : ProfileNo) : a.stepUpCandidate ceiling cur = s.stepUpCandidate ceiling cur := by
  unfold Sector.stepUpCandidate
  simp only [h.profile]

theorem Sector.Turned.qualifies (cur q : ProfileNo) : a.qualifies m cur q x = s.qualifies m cur q x := by
  unfold Sector.qualifies
  simp only [h.profile, h.marginOver]

/-- On the floor a pending step-up is cleared (R130). -/
theorem Sector.Turned.judgeStepDown_clears (hf : r.ladder.current ≤ r.cfg.floor) {d : PendingProfile} (hd : r.ladder.pending = some d)
    (hup : d.direction = .stepUp) : s.Turned t c (r.counting 0).clearPending k p e (a.judgeStepDown t m) := by
  unfold Sector.judgeStepDown
  dsimp only
  rw [h.term, if_pos hf, hd]
  dsimp only
  rw [if_pos hup]
  exact (h.setStepUp 0).modTerm Terminal.clearPending

/-- On the floor nothing else becomes of a step-down (R130). -/
theorem Sector.Turned.judgeStepDown_floor (hf : r.ladder.current ≤ r.cfg.floor)
    (hd : ¬ ∃ d, r.ladder.pending = some d ∧ d.direction = .stepUp) : s.Turned t c (r.counting 0) k p e (a.judgeStepDown t m) := by
  unfold Sector.judgeStepDown
  dsimp only
  rw [h.term, if_pos hf]
  split
  · next d hpd =>
    rw [if_neg fun hup => hd ⟨d, hpd, hup⟩]
    exact h.setStepUp 0
  · exact h.setStepUp 0

/-- A pending step-down to the same target stays (R130). -/
theorem Sector.Turned.judgeStepDown_same (hf : ¬ r.ladder.current ≤ r.cfg.floor)
    (hd : ∃ d, r.ladder.pending = some d ∧ d.direction = .stepDown ∧ d.target = s.stepDownTarget m r.cfg.floor r.ladder.current) :
    s.Turned t c (r.counting 0) k p e (a.judgeStepDown t m) := by
  obtain ⟨d, hpd, hdir, htarget⟩ := hd
  unfold Sector.judgeStepDown
  dsimp only
  rw [h.term, if_neg hf, hpd, h.stepDownTarget]
  dsimp only
  rw [if_pos ⟨hdir, htarget⟩]
  exact h.setStepUp 0

/-- A step-down becomes pending (R130). -/
theorem Sector.Turned.judgeStepDown_pends (hf : ¬ r.ladder.current ≤ r.cfg.floor)
    (hd : ¬ ∃ d, r.ladder.pending = some d ∧ d.direction = .stepDown ∧ d.target = s.stepDownTarget m r.cfg.floor r.ladder.current) :
    s.Turned t c ((r.counting 0).pended (s.stepDownTarget m r.cfg.floor r.ladder.current) .stepDown) k
      { p.pended r.ladder.pending with stepDownDecisions := (p.pended r.ladder.pending).stepDownDecisions + 1 } e
      (a.judgeStepDown t m) := by
  have hpends := ((h.setStepUp 0).makePending (s.stepDownTarget m r.cfg.floor r.ladder.current) .stepDown).countPld
    fun k => { k with stepDownDecisions := k.stepDownDecisions + 1 }
  unfold Sector.judgeStepDown
  dsimp only
  rw [h.term, if_neg hf, h.stepDownTarget]
  split
  · next d hpd =>
    rw [if_neg fun hs => hd ⟨d, hpd, hs⟩]
    exact hpends
  · exact hpends

theorem Sector.Turned.judgeStepUp_none (hn : s.stepUpCandidate r.cfg.ceiling r.ladder.current = none) :
    s.Turned t c (r.counting 0) k p e (a.judgeStepUp t m x) := by
  unfold Sector.judgeStepUp
  dsimp only
  rw [h.term, h.stepUpCandidate, hn]
  exact h.setStepUp 0

variable {q : ProfileNo} (hq : s.stepUpCandidate r.cfg.ceiling r.ladder.current = some q)
include hq

theorem Sector.Turned.judgeStepUp_unfit (hn : s.qualifies m r.ladder.current q x = false) :
    s.Turned t c (r.counting 0) k p e (a.judgeStepUp t m x) := by
  unfold Sector.judgeStepUp
  dsimp only
  rw [h.term, h.stepUpCandidate, hq]
  dsimp only
  rw [h.qualifies, hn, if_neg Bool.false_ne_true]
  exact h.setStepUp 0

theorem Sector.Turned.judgeStepUp_counts (hn : s.qualifies m r.ladder.current q x = true)
    (hlt : min 63 (r.ladder.stepUp + 1) < (s.profile q).stepUpHold) :
    s.Turned t c (r.counting (min 63 (r.ladder.stepUp + 1))) k p e (a.judgeStepUp t m x) := by
  unfold Sector.judgeStepUp
  dsimp only
  rw [h.term, h.stepUpCandidate, hq]
  dsimp only
  rw [h.qualifies, hn, if_pos rfl, h.profile, if_neg (not_le.2 hlt)]
  exact h.setStepUp _

theorem Sector.Turned.judgeStepUp_pends (hn : s.qualifies m r.ladder.current q x = true)
    (hle : (s.profile q).stepUpHold ≤ min 63 (r.ladder.stepUp + 1)) :
    s.Turned t c ((r.counting 0).pended q .stepUp) k
      { p.pended r.ladder.pending with stepUpDecisions := (p.pended r.ladder.pending).stepUpDecisions + 1 } e
      (a.judgeStepUp t m x) := by
  unfold Sector.judgeStepUp
  dsimp only
  rw [h.term, h.stepUpCandidate, hq]
  dsimp only
  rw [h.qualifies, hn, if_pos rfl, h.profile, if_pos hle]
  exact ((h.setStepUp 0).makePending q .stepUp).countPld fun k => { k with stepUpDecisions := k.stepUpDecisions + 1 }

end

section
variable {s a : Sector} {t : TermNo} {c : CarrierNo} {r : Terminal} {k : Carrier} {p : PldCounters} {e : EventSets}
  (h : s.Turned t c r k p e a) {up : Int} (hup : r.ladder.upMargin = some up) {x : Report}
include h hup

theorem Sector.Turned.ladderDecision_down (hm : min x.margin up < (s.profile r.ladder.current).downMargin) :
    a.ladderDecision t x = a.judgeStepDown t (min x.margin up) := by
  unfold Sector.ladderDecision
  dsimp only
  rw [h.term, hup, h.profile]
  exact if_pos hm

theorem Sector.Turned.ladderDecision_pending (hm : ¬ min x.margin up < (s.profile r.ladder.current).downMargin)
    (hp : r.ladder.pending ≠ none) : a.ladderDecision t x = a := by
  unfold Sector.ladderDecision
  dsimp only
  rw [h.term, hup, h.profile]
  exact (if_neg hm).trans (if_pos (Option.isSome_iff_ne_none.2 hp))

theorem Sector.Turned.ladderDecision_up (hm : ¬ min x.margin up < (s.profile r.ladder.current).downMargin)
    (hp : r.ladder.pending = none) : a.ladderDecision t x = a.judgeStepUp t (min x.margin up) x := by
  unfold Sector.ladderDecision
  dsimp only
  rw [h.term, hup, h.profile]
  exact (if_neg hm).trans (if_neg (by rw [hp]; decide))

end

/-! ### The statement -/

theorem Terminal.burstTaken_ladder (r : Terminal) :
    r.burstTaken.ladder.pending = r.ladder.pending ∧ r.burstTaken.owed.profile = r.owed.profile ∧
      (r.link.state = .serving → r.burstTaken.ladder.stepUp = r.ladder.stepUp) ∧
      (r.link.state = .fading → r.link.forced = false → r.burstTaken.ladder.stepUp = 0) := by
  unfold Terminal.burstTaken
  split
  · next hr => exact ⟨rfl, rfl, fun h => absurd (hr.1.symm.trans h) (by decide), fun _ _ => rfl⟩
  · next hr => exact ⟨rfl, rfl, fun _ => rfl, fun h hf => absurd ⟨h, hf⟩ hr⟩

theorem falling_iff (n : Nat) (h : n < 4) :
    [Trend.falling, .steady, .rising, .unknown].getD n .unknown ≠ .falling ↔ ¬ n = 0 := by
  interval_cases n <;> decide

/-- The report of the fragments held and the last one (R126). -/
def reportOf (x₁ x₂ x₃ last : BitVec 4) : Report :=
  { margin := (x₁ ++ x₂ : BitVec 8).toInt
    trend := [Trend.falling, .steady, .rising, .unknown].getD (x₃.toNat / 4) .unknown
    headroom := 16 * (x₃.toNat % 4) + last.toNat }

/-- What the decision that a completed report drives finds (R126, R128, R129): record `r` of a terminal whose record was `x`. -/
structure Terminal.Drives (x r : Terminal) (up : Int) : Prop where
  cfg : r.cfg = x.cfg
  current : r.ladder.current = x.ladder.current
  pending : r.ladder.pending = x.ladder.pending
  profile : r.owed.profile = x.owed.profile
  upMargin : r.ladder.upMargin = some up
  stepUp : r.ladder.stepUp = if x.link.state = .serving then x.ladder.stepUp else 0

/-- A good burst whose fragment completes a report in service drives one decision. -/
theorem Sector.goodBurst_completes {z : Sector} {t : TermNo} {g : GoodBurst} {x₁ x₂ x₃ : BitVec 4}
    (hst : (z.term t).link.state = .serving ∨ ((z.term t).link.state = .fading ∧ (z.term t).link.forced = false))
    (hheld : (z.term t).ladder.assembly = [x₁, x₂, x₃]) (hstart : g.fragment.start = false) :
    ∃ d r k e, z.Turned t (z.term t).cfg.carrier r k z.pld.reported e d ∧
      z.goodBurst t g = (d.ladderDecision t (reportOf x₁ x₂ x₃ g.fragment.bits)).takePauseFlag t g.pause ∧
      (z.term t).Drives r (z.marginUp (z.term t).ladder.current g.snr) := by
  obtain ⟨hstate, -, hcur, hasm, -, -⟩ := Terminal.burstTaken_facts (hst.imp id And.left)
  obtain ⟨hpend, howed, hcount, hzero⟩ := (z.term t).burstTaken_ladder
  have hserving : (z.term t).burstTaken.link.state = .serving := by
    rw [hstate]
    rcases hst with h | ⟨-, hf⟩
    · rw [h, ite_self]
    · rw [hf, if_neg Bool.false_ne_true]
  have hbase := (Sector.Turned.rfl' z t (z.term t).cfg.carrier).lsvGoodBurst.takeSnr g.snr
  have hcfg := (z.term t).burstTaken_cfg
  generalize (z.term t).burstTaken = y at hbase hserving hcur hasm hpend howed hcount hzero hcfg
  obtain ⟨d, hd, htaken⟩ := hbase.takeFragment_completes hstart (hasm.trans hheld)
  rw [if_pos (show (y.measuredUp (z.marginUp y.ladder.current g.snr)).link.state = .serving from hserving)] at htaken
  rw [Report.ofFragments_eq] at hd htaken
  refine ⟨d, _, _, _, hd, congrArg (Sector.takePauseFlag · t g.pause) htaken, hcfg, hcur, hpend, howed, ?_, ?_⟩
  · exact congrArg (fun x => some (z.marginUp x g.snr)) hcur
  · rcases hst with h | ⟨h, hf⟩
    · rw [if_pos h]; exact hcount h
    · rw [if_neg (by rw [h]; decide)]; exact hzero h hf

/-- The ladder and owed marks of the burst's terminal, and the PLD counters, are those its decision leaves. -/
theorem Sector.Turned.paused {z b : Sector} {t : TermNo} {c : CarrierNo} {y : Terminal} {k : Carrier} {q : PldCounters}
    {e : EventSets} (h : z.Turned t c y k q e b) (hc : y.cfg.carrier = c) (pause : Bool) :
    ((b.takePauseFlag t pause).term t).ladder = y.ladder ∧ ((b.takePauseFlag t pause).term t).owed = y.owed ∧
      (b.takePauseFlag t pause).pld = q := by
  have hs := h.takePauseFlag hc pause
  rw [hs.term, hs.pld]
  exact ⟨rfl, rfl, rfl⟩

/-- A decision that replaces a pending profile counts it. -/
theorem PldCounters.pended_eq (old : Option PendingProfile) (k : PldCounters) : k.pended old =
    { k with pendingReplaced := if old = none then k.pendingReplaced else k.pendingReplaced + 1 } := by
  cases old <;> rfl

/-- A good traffic burst of a terminal in service, as the sector takes it. -/
theorem exec_goodBurst {c : CarrierNo} {u : FrameNo} {slot : SlotNo} {b : Burst} {f : Fragment} {pause : Bool}
    {payload : List (List Byte)} {s : State} (hr : (SlotResult.burst b).inRange = true) (hk : b.kind = .traffic f pause payload)
    (hcell : u ≠ (s.sector.car c).lastFrame ∨ (s.sector.car c).cell u slot = .empty)
    (hslot : (s.sector.car c).slotUse slot = .traffic b.claimed)
    (hst : (s.sector.term b.claimed).link.state = .serving ∨ (s.sector.term b.claimed).link.state = .fading) :
    ∃ v, exec (.slotOutcome c u slot (.burst b)) s = .next v ∧
      v.sector = (s.sector.frameChecked c u).goodBurst b.claimed (goodOf b f pause payload) := by
  have hpayload := Sector.payloadOf_good hk hcell hslot hst
  obtain ⟨n, l, hup, -⟩ := State.upstream_cases (s.event fun x => x.slotOutcome c u slot (.burst b)) b.claimed payload
  refine ⟨(s.event fun x => x.slotOutcome c u slot (.burst b)).upstream b.claimed payload, ?_, ?_⟩
  · rw [exec_slotOutcome hr, State.slotOutcome, hpayload]
  · rw [hup]
    dsimp only
    rw [State.event_sector, Sector.slotOutcome_good hk hcell hslot hst]

theorem Sector.qualifies_iff {s : Sector} {m : Int} {cur p : ProfileNo} {x₁ x₂ x₃ last : BitVec 4} :
    s.qualifies m cur p (reportOf x₁ x₂ x₃ last) = true ↔
      (s.profile p).upMargin ≤ s.marginOver m cur p ∧ ¬ x₃.toNat / 4 = 0 ∧
      (s.profile p).neededHeadroom ≤ 16 * (x₃.toNat % 4) + last.toNat := by
  have hx₃ : x₃.toNat / 4 < 4 := by have := x₃.isLt; omega
  unfold Sector.qualifies reportOf
  simp only [Bool.and_eq_true, decide_eq_true_eq, falling_iff _ hx₃, and_assoc]

/-- Settles O50: the decision that the completed report drives, by the margins and the pending profile. -/
theorem ladderDecidesOnReports : Obligations.LadderDecidesOnReports := by
  intro c u slot b f pause payload x₁ x₂ x₃ s k t x prof hr hk hcell hslot hst hheld hstart now margin falling headroom m onto counted
    lower higher down
  have hservice : x.link.state = .serving ∨ x.link.state = .fading := hst.imp id And.left
  obtain ⟨v, hexec, hsector⟩ := exec_goodBurst hr hk hcell hslot hservice
  obtain ⟨d, r, k', e, hd, hgood, hx⟩ := Sector.goodBurst_completes (z := s.sector.frameChecked c u) (g := goodOf b f pause payload)
    hst hheld hstart
  replace hgood : (s.sector.frameChecked c u).goodBurst t (goodOf b f pause payload) =
      (d.ladderDecision t (reportOf x₁ x₂ x₃ f.bits)).takePauseFlag t pause := hgood
  have hfin {y : Terminal} {q : PldCounters} {z : Sector} (hz : (s.sector.frameChecked c u).Turned t x.cfg.carrier y k' q e z)
      (hy : r.Decided y) := hz.paused (hy.cfg ▸ hx.cfg ▸ rfl) pause
  have hdown (h : down) : d.ladderDecision t (reportOf x₁ x₂ x₃ f.bits) = d.judgeStepDown t m :=
    hd.ladderDecision_down hx.upMargin (x := reportOf x₁ x₂ x₃ f.bits) (by rw [hx.current]; exact h)
  have hnot (h : ¬ down) : ¬ min (reportOf x₁ x₂ x₃ f.bits).margin ((s.sector.frameChecked c u).marginUp x.ladder.current b.snr) <
      ((s.sector.frameChecked c u).profile r.ladder.current).downMargin := by rw [hx.current]; exact h
  have hjudge (h : ¬ down) (hp : x.ladder.pending = none) : d.ladderDecision t (reportOf x₁ x₂ x₃ f.bits) =
      d.judgeStepUp t m (reportOf x₁ x₂ x₃ f.bits) := hd.ladderDecision_up hx.upMargin (hnot h) (hx.pending.trans hp)
  have hstays {n : Nat} {y : Terminal} {z : Sector} (hy : y = r.counting n)
      (hz : (s.sector.frameChecked c u).Turned t x.cfg.carrier y k' s.sector.pld.reported e z) :
      ((z.takePauseFlag t pause).term t).ladder.pending = x.ladder.pending ∧
      ((z.takePauseFlag t pause).term t).owed.profile = x.owed.profile ∧
      ((z.takePauseFlag t pause).term t).ladder.stepUp = n ∧ (z.takePauseFlag t pause).pld = s.sector.pld.reported := by
    subst hy
    obtain ⟨hl, ho, hp⟩ := hfin hz (r.counting_decided n)
    rw [hl, ho, hp]
    exact ⟨hx.pending, hx.profile, rfl, rfl⟩
  have habove (hfloor : x.cfg.floor < now) : ¬ r.ladder.current ≤ r.cfg.floor := by
    rw [hx.current, hx.cfg]
    exact not_le.2 hfloor
  have htarget (p : ProfileNo) (hp : (lower p ∧ ∀ q, lower q → q ≤ p) ∨ ((∀ q, ¬ lower q) ∧ p = x.cfg.floor)) :
      (s.sector.frameChecked c u).stepDownTarget m r.cfg.floor r.ladder.current = p := by
    rw [hx.cfg, hx.current]
    rcases hp with ⟨hp, hmax⟩ | ⟨hnone, rfl⟩
    · exact Sector.stepDownTarget_greatest hp hmax
    · exact Sector.stepDownTarget_floor hnone
  have hup (p : ProfileNo) (hp : higher p) (hmin : ∀ q, higher q → p ≤ q) :
      (s.sector.frameChecked c u).stepUpCandidate r.cfg.ceiling r.ladder.current = some p := by
    rw [hx.cfg, hx.current]
    exact Sector.stepUpCandidate_least hp hmin
  refine ⟨v, hexec, ?_⟩
  rw [hsector, hgood]
  refine ⟨?current, fun h hfloor => ⟨fun ⟨p, hp, hpd⟩ => ?clears, fun hn => ?floorStays⟩,
    fun p h hfloor hp => ⟨fun hsame => ?same, fun hn => ?pendsDown⟩, fun h hp => ?waits, fun h hp hnone => ?noneHigher,
    fun p h hp hhigh hmin => ⟨fun hq => ?unfit, fun hq hlt => ?counts, fun hq hle => ?pendsUp⟩⟩
  case current =>
    obtain ⟨y, q, hy, hdec, -⟩ := hd.ladderDecision (reportOf x₁ x₂ x₃ f.bits)
    rw [(hfin hy hdec).1, hdec.ladder]
    exact hx.current
  case clears =>
    have hz := hd.judgeStepDown_clears (m := m) (by rw [hx.current, hx.cfg]; exact hfloor.le) (hx.pending.trans hp) hpd
    obtain ⟨hl, ho, hq⟩ := hfin hz ((r.counting_decided 0).trans (Terminal.clearPending_decided _))
    rw [hdown h, hl, ho, hq]
    exact ⟨rfl, rfl, rfl, rfl⟩
  case floorStays =>
    rw [hdown h]
    refine hstays rfl (hd.judgeStepDown_floor (m := m) (by rw [hx.current, hx.cfg]; exact hfloor.le) ?_)
    rw [hx.pending]
    exact hn
  case same =>
    obtain ⟨d', hd', hdir, htarget'⟩ := hsame
    rw [hdown h]
    exact hstays rfl (hd.judgeStepDown_same (m := m) (habove hfloor)
      ⟨d', hx.pending.trans hd', hdir, htarget'.trans (htarget p hp).symm⟩)
  case pendsDown =>
    have hz := hd.judgeStepDown_pends (m := m) (habove hfloor) (by rw [htarget p hp, hx.pending]; exact hn)
    rw [htarget p hp, hx.pending] at hz
    obtain ⟨hl, ho, hq⟩ := hfin hz ((r.counting_decided 0).trans (Terminal.pended_decided _ _ _))
    rw [hdown h, hl, ho, hq]
    rw [PldCounters.pended_eq]
    exact ⟨rfl, rfl, rfl, rfl⟩
  case waits =>
    rw [hd.ladderDecision_pending hx.upMargin (hnot h) (by rw [hx.pending]; exact hp)]
    exact hstays (n := counted) (by rw [show counted = r.ladder.stepUp from hx.stepUp.symm]; rfl) hd
  case noneHigher =>
    rw [hjudge h hp]
    refine hstays rfl (hd.judgeStepUp_none ?_)
    rw [hx.cfg, hx.current]
    exact Sector.stepUpCandidate_none hnone
  case unfit =>
    rw [hjudge h hp]
    refine hstays rfl (hd.judgeStepUp_unfit (hup p hhigh hmin) (Bool.eq_false_iff.2 fun hfit => hq ?_))
    rw [hx.current] at hfit
    exact Sector.qualifies_iff.1 hfit
  case counts =>
    have hlt' : min 63 (r.ladder.stepUp + 1) < (s.sector.profile p).stepUpHold := by rw [hx.stepUp]; exact hlt
    rw [hjudge h hp]
    refine hstays ?_ (hd.judgeStepUp_counts (hup p hhigh hmin) (by rw [hx.current]; exact Sector.qualifies_iff.2 hq) hlt')
    exact congrArg (fun n => r.counting (min 63 (n + 1))) hx.stepUp
  case pendsUp =>
    have hle' : (s.sector.profile p).stepUpHold ≤ min 63 (r.ladder.stepUp + 1) := by rw [hx.stepUp]; exact hle
    have hfit : (s.sector.frameChecked c u).qualifies m r.ladder.current p (reportOf x₁ x₂ x₃ f.bits) = true := by
      rw [hx.current]
      exact Sector.qualifies_iff.2 hq
    have hz := hd.judgeStepUp_pends (hup p hhigh hmin) hfit hle'
    rw [hx.pending.trans hp] at hz
    obtain ⟨hl, ho, hpld⟩ := hfin hz ((r.counting_decided 0).trans (Terminal.pended_decided _ _ _))
    rw [hjudge h hp, hl, ho, hpld]
    exact ⟨rfl, rfl, rfl, rfl⟩

end Sys2Proof.Machine
end

section
/-! SUPPORT. Entering ADMITTING (R39), and the current outcome of a grant (R108 to R115): O48, and the trim bursts of O49. -/

namespace Sys2Proof.Machine

/-! ### Entering ADMITTING (R39, R59, R81) -/

/-- Some of the slots `l` is LENT for `t`. -/
def Carrier.lends (t : TermNo) (l : List SlotNo) (k : Carrier) : Prop := ∃ z ∈ l, ∃ m, k.slotUse z = .lent t m

/-- The carrier whose slots `l`, where LENT for `t`, have the reclaim mark (R81). -/
def Carrier.marked (t : TermNo) (l : List SlotNo) (k : Carrier) : Carrier := k.mapSlots (SlotUse.mark t) l

theorem SlotUse.mark_lent {t : TermNo} {u : SlotUse} {m : Bool} (h : u = .lent t m) : u.mark t = .lent t true := by
  subst h
  exact if_pos rfl

theorem SlotUse.mark_other {t : TermNo} {u : SlotUse} (h : ∀ m, u ≠ .lent t m) : u.mark t = u := by
  cases u with
  | lent o m => exact if_neg fun ho => h m (congrArg (SlotUse.lent · m) ho)
  | opened | reentry | traffic o => rfl

theorem Carrier.slotUse_marked (t : TermNo) (l : List SlotNo) (k : Carrier) (x : SlotNo) :
    (k.marked t l).slotUse x = if x ∈ l then (k.slotUse x).mark t else k.slotUse x :=
  Carrier.slotUse_mapSlots (SlotUse.mark_idem t) l k x

theorem Carrier.marked_frame (t : TermNo) (l : List SlotNo) (k : Carrier) :
    { k.marked t l with slots := [] } = { k with slots := [] } := Carrier.mapSlots_frame _ _ _

/-- The marked slots are those that were LENT. -/
theorem Carrier.slotUse_marked_lent {t : TermNo} {l : List SlotNo} {k : Carrier} {x : SlotNo} (hx : x ∈ l) (b : Bool) :
    (k.marked t l).slotUse x = .lent t b ↔ b = true ∧ ∃ m, k.slotUse x = .lent t m := by
  rw [Carrier.slotUse_marked, if_pos hx]
  by_cases hl : ∃ m, k.slotUse x = .lent t m
  · obtain ⟨m, hm⟩ := hl
    rw [SlotUse.mark_lent hm]
    exact ⟨fun h => ⟨by injection h with _ h; exact h.symm, m, hm⟩, fun h => by rw [h.1]⟩
  · rw [SlotUse.mark_other fun m hm => hl ⟨m, hm⟩]
    exact ⟨fun h => absurd ⟨b, h⟩ hl, fun h => absurd h.2 hl⟩

theorem Carrier.lends_marked {t : TermNo} {l : List SlotNo} {k : Carrier} : (k.marked t l).lends t l ↔ k.lends t l :=
  ⟨fun ⟨z, hz, m, hm⟩ => ⟨z, hz, ((Carrier.slotUse_marked_lent hz m).1 hm).2⟩,
    fun ⟨z, hz, hm⟩ => ⟨z, hz, true, (Carrier.slotUse_marked_lent hz true).2 ⟨rfl, hm⟩⟩⟩

/-- The record of a terminal that enters ADMITTING, before the examination: `ok` says that its current profile may stay, `b` that
a home slot is to be reclaimed (R39). -/
def Terminal.toAdmitting (ok b : Bool) (r : Terminal) : Terminal :=
  { r with link := { r.link with state := .admitting }
           adm := { wait := 0, reclaimPending := b, sent := none }
           ladder := { r.ladder with current := if ok then r.ladder.current else r.cfg.reentry, stepUp := 0 } }

/-- The conditions of R59 for a terminal that enters ADMITTING on carrier `k`. -/
def Terminal.readyOn (t : TermNo) (k : Carrier) (r : Terminal) : Prop :=
  r.owed.admission = false ∧ ¬ k.lends t r.cfg.homeSlots ∧ (r.link.permit = true ∨ r.cfg.autoAdmit = true)

section
variable {s a : Sector} {t : TermNo} {c : CarrierNo} {r : Terminal} {k : Carrier} {p : PldCounters} {e : EventSets}
  (h : s.Turned t c r k p e a)
include h

theorem Sector.Turned.someLent_iff (hc : r.cfg.carrier = c) : a.someLent t ↔ k.lends t r.cfg.homeSlots := by
  unfold Sector.someLent Carrier.lends
  rw [h.term, hc, h.car]

theorem Sector.Turned.anyReclaiming_iff (hc : r.cfg.carrier = c) :
    a.anyReclaiming t = true ↔ ∃ z ∈ r.cfg.homeSlots, k.slotUse z = .lent t true := by
  unfold Sector.anyReclaiming
  dsimp only
  rw [h.term, hc, List.any_eq_true]
  simp only [Sector.reclaiming_iff, decide_eq_true_eq, h.car]

/-- The home slots LENT for the terminal take the mark (R81). -/
theorem Sector.Turned.startReclaim (hc : r.cfg.carrier = c) : ∃ b : Bool, (b = true ↔ k.lends t r.cfg.homeSlots) ∧
    s.Turned t c { r with adm := { r.adm with reclaimPending := b } } (k.marked t r.cfg.homeSlots) p e (a.startReclaim t) := by
  have hmarked := h.modCar (Carrier.marked t r.cfg.homeSlots)
  refine ⟨(a.modCar c (Carrier.marked t r.cfg.homeSlots)).anyReclaiming t, ?_, ?_⟩
  · rw [hmarked.anyReclaiming_iff hc]
    exact exists_congr fun z => and_congr_right fun hz => (Carrier.slotUse_marked_lent hz true).trans (and_iff_right rfl)
  · unfold Sector.startReclaim
    dsimp only
    rw [h.term, hc]
    exact hmarked.modTerm fun x =>
      { x with adm := { x.adm with reclaimPending := (a.modCar c (Carrier.marked t r.cfg.homeSlots)).anyReclaiming t } }

/-- Entering ADMITTING: the conditions are examined at once (R39, R59). -/
theorem Sector.Turned.enterAdmitting (hc : r.cfg.carrier = c) : ∃ b : Bool, (b = true ↔ k.lends t r.cfg.homeSlots) ∧
    ((r.readyOn t k ∧ s.Turned t c (r.toAdmitting (s.usable r.cfg r.ladder.current) b).owingAdmit (k.marked t r.cfg.homeSlots) p e
        (a.enterAdmitting t)) ∨
      (¬ r.readyOn t k ∧ s.Turned t c (r.toAdmitting (s.usable r.cfg r.ladder.current) b) (k.marked t r.cfg.homeSlots) p e
        (a.enterAdmitting t))) := by
  have hentered := h.modTerm (Terminal.toAdmitting (s.usable r.cfg r.ladder.current) false)
  obtain ⟨b, hb, hmarked⟩ := hentered.startReclaim hc
  replace hmarked : s.Turned t c (r.toAdmitting (s.usable r.cfg r.ladder.current) b) (k.marked t r.cfg.homeSlots) p e
      ((a.modTerm t (Terminal.toAdmitting (s.usable r.cfg r.ladder.current) false)).startReclaim t) := hmarked
  have hready : ((a.modTerm t (Terminal.toAdmitting (s.usable r.cfg r.ladder.current) false)).startReclaim t).admits t ↔
      r.readyOn t k := by
    unfold Sector.admits
    rw [Sector.admissible_iff, hmarked.someLent_iff hc, hmarked.term]
    refine ⟨fun ⟨_, ho, _, hl, _, hp⟩ => ⟨ho, fun hk => hl (Carrier.lends_marked.2 hk), hp⟩,
      fun ⟨ho, hl, hp⟩ => ⟨rfl, ho, rfl, fun hk => hl (Carrier.lends_marked.1 hk), ?_, hp⟩⟩
    exact Bool.eq_false_iff.2 fun hpend => hl (hb.1 hpend)
  refine ⟨b, hb, ?_⟩
  unfold Sector.enterAdmitting
  dsimp only
  rw [h.term, h.usable]
  exact hmarked.examine.imp (fun hx => ⟨hready.1 hx.1, hx.2⟩) fun hx => ⟨fun hr => hx.1 (hready.2 hr), hx.2⟩

end

/-! ### The ends of an exchange (R112 to R115) -/

theorem Terminal.left_progress {r : Terminal} (hs : r.link.state = .trimming) :
    r.left .progress = { r with range := { r.range with grant := none } } := by
  unfold Terminal.left
  rw [hs]

theorem Carrier.left_progress {t : TermNo} {r : Terminal} {k : Carrier} (hs : r.link.state = .trimming) :
    k.left t .progress r = k.unranged t := by
  unfold Carrier.left
  rw [hs]

/-- The record of an exchange that converges, as it leaves TRIMMING (R113). -/
def Terminal.converging (r : Terminal) : Terminal := { r with range := { r.range with stored := some r.range.correction, grant := none } }

/-- The carrier of an exchange that converges, as its terminal leaves TRIMMING (R113). -/
def Carrier.converging (t : TermNo) (k : Carrier) : Carrier :=
  { k with rng := { k.rng with convergences := k.rng.convergences + 1 } }.unranged t

/-- From `s`, with `r`, `k`, `p` and `e` as record, carrier, PLD counters and event sets, to `a` the exchange converged (R113). -/
def Sector.Converged (s : Sector) (t : TermNo) (c : CarrierNo) (r : Terminal) (k : Carrier) (p : PldCounters) (e : EventSets)
    (a : Sector) : Prop :=
  ∃ b : Bool, (b = true ↔ k.lends t r.cfg.homeSlots) ∧
    ((r.readyOn t k ∧ s.Turned t c (r.converging.toAdmitting (s.usable r.cfg r.ladder.current) b).owingAdmit
        ((k.converging t).marked t r.cfg.homeSlots) p { e with stateChange := insertNo t e.stateChange } a) ∨
      (¬ r.readyOn t k ∧ s.Turned t c (r.converging.toAdmitting (s.usable r.cfg r.ladder.current) b)
        ((k.converging t).marked t r.cfg.homeSlots) p { e with stateChange := insertNo t e.stateChange } a))

/-- The record of an exchange that fails (R115). -/
def Terminal.rangeFailed (r : Terminal) : Terminal :=
  let out := Terminal.toGuard { r with range := { r.range with stored := none, grant := none }
                                       ctr := { r.ctr with rangingFailures := r.ctr.rangingFailures + 1 }
                                       link := { r.link with cause := .rangeFail } }
  { out with owed := { out.owed with halt := true } }

/-- The carrier of an exchange that fails (R115). -/
def Carrier.rangeFailed (t : TermNo) (r : Terminal) (k : Carrier) : Carrier :=
  Carrier.lentIf r.link.lendTaken t r.cfg.homeSlots ({ k with rng := { k.rng with failures := k.rng.failures + 1 } }.unranged t)

section
variable {s a : Sector} {t : TermNo} {c : CarrierNo} {r : Terminal} {k : Carrier} {p : PldCounters} {e : EventSets}
  (h : s.Turned t c r k p e a)
include h

theorem Sector.Turned.leaveTrimming (hs : r.link.state = .trimming) (hc : r.cfg.carrier = c) :
    s.Turned t c { r with range := { r.range with grant := none } } (k.unranged t) p e (a.leave t .progress) := by
  have hleft := h.leave .progress hc
  rwa [Terminal.left_progress hs, Carrier.left_progress hs] at hleft

/-- Convergence (R113). -/
theorem Sector.Turned.converge (hs : r.link.state = .trimming) (hc : r.cfg.carrier = c) :
    s.Converged t c r k p e (a.converge c t) := by
  have hstored := (h.modTerm fun r => { r with range := { r.range with stored := some r.range.correction } }).modCar
    fun k => { k with rng := { k.rng with convergences := k.rng.convergences + 1 } }
  obtain ⟨b, hb, hentered⟩ := (hstored.leaveTrimming hs hc).enterAdmitting hc
  have hne : (a.term t).link.state ≠ .admitting := by
    rw [h.term, hs]
    decide
  exact ⟨b, hb, hentered.imp (fun hx => ⟨hx.1, hx.2.moved (before := a) hne⟩) fun hx => ⟨hx.1, hx.2.moved (before := a) hne⟩⟩

/-- Failure (R115). -/
theorem Sector.Turned.failExchange (hs : r.link.state = .trimming) (hc : r.cfg.carrier = c) :
    s.Turned t c r.rangeFailed (k.rangeFailed t r) p
      { e with rangeFail := insertNo t e.rangeFail, stateChange := insertNo t e.stateChange } (a.failExchange c t) := by
  have hfailed := (((h.modTerm fun r => { r with range := { r.range with stored := none } }).modTerm
    fun r => { r with ctr := { r.ctr with rangingFailures := r.ctr.rangingFailures + 1 } }).modCar
      fun k => { k with rng := { k.rng with failures := k.rng.failures + 1 } }).note (·.addRangeFail t)
  have hleft := (hfailed.setCause .rangeFail).leaveTrimming hs hc
  have hne : (a.term t).link.state ≠ .guard := by
    rw [h.term, hs]
    decide
  exact (hleft.enterGuard hc).oweHalt.moved (before := a) hne

end

/-! ### An attempt that ends unconverged (R112) -/

/-- Record `y`, carrier `j` and event sets `e`: what the end of an unconverged attempt makes of record `r` of `t` and carrier
`k` (R112, R115). -/
structure Terminal.Unconverged (t : TermNo) (r y : Terminal) (k j : Carrier) (e : EventSets) : Prop where
  cfg : y.cfg = r.cfg
  range : y.range = { r.range with stored := y.range.stored, settle := y.range.settle, grant := y.range.grant }
  grant : r.range.grant = none → y.range.grant = none
  ctr : y.ctr = { r.ctr with rangingFailures := y.ctr.rangingFailures }
  report : y.ladder.report = r.ladder.report
  upMargin : y.ladder.upMargin = r.ladder.upMargin
  assembly : y.ladder.assembly = r.ladder.assembly ∨ y.link.state = .guard ∧ y.ladder.assembly = []
  rng : j.rng = { k.rng with failures := j.rng.failures }
  fails : k.cfg.trimLimit ≤ r.range.attempts → y.link.state = .guard ∧ y.link.cause = .rangeFail ∧ y.range.stored = none ∧
    y.owed.halt = true ∧ y.ladder.assembly = [] ∧ t ∈ e.rangeFail ∧ t ∈ e.stateChange
  settles : ¬ k.cfg.trimLimit ≤ r.range.attempts →
    y.link = r.link ∧ y.range.settle = k.cfg.settle ∧ y.range.stored = r.range.stored

theorem Carrier.rangeFailed_rng (t : TermNo) (r : Terminal) (k : Carrier) :
    (k.rangeFailed t r).rng = { k.rng with failures := k.rng.failures + 1 } := by
  have hrng := congrArg Carrier.rng (Carrier.lentIf_frame r.link.lendTaken t r.cfg.homeSlots
    ({ k with rng := { k.rng with failures := k.rng.failures + 1 } }.unranged t))
  exact hrng

/-- The record after a measurement that does not converge: it is cold (R111). -/
def Terminal.fallenBack (r : Terminal) : Terminal := { r with range := { r.range with warm := false } }

/-- The carrier after a measurement of terminal record `r` that does not converge (R111). -/
def Carrier.fallenBack (r : Terminal) (k : Carrier) : Carrier :=
  { k with rng := { k.rng with warmFallbacks := if r.range.warm then k.rng.warmFallbacks + 1 else k.rng.warmFallbacks } }

theorem Terminal.fallenBack_of_cold {r : Terminal} (h : r.range.warm = false) : r.fallenBack = r :=
  congrArg (fun w => { r with range := { r.range with warm := w } : Terminal }) h.symm

theorem Carrier.fallenBack_of_cold {r : Terminal} (h : r.range.warm = false) (k : Carrier) : k.fallenBack r = k := by
  unfold Carrier.fallenBack
  rw [h]
  rfl

theorem Terminal.reportBroken_kept (r : Terminal) : r.reportBroken.link = r.link ∧ r.reportBroken.cfg = r.cfg ∧
    r.reportBroken.range = r.range ∧ r.reportBroken.ladder.report = r.ladder.report ∧
    r.reportBroken.ladder.upMargin = r.ladder.upMargin ∧ r.reportBroken.ctr = { r.ctr with brokenReports :=
      if r.ladder.assembly = [] then r.ctr.brokenReports else r.ctr.brokenReports + 1 } := by
  unfold Terminal.reportBroken
  split <;> exact ⟨rfl, rfl, rfl, rfl, rfl, rfl⟩

/-- The record after a measurement (R110). -/
def Terminal.measured (target : Nat) (offset : Int) (snr : Nat) (r : Terminal) : Terminal :=
  { r with range := RangeFields.measure target offset snr r.range }

theorem clampTo_eq {lo hi : Int} (h : lo ≤ hi) (x : Int) : clampTo lo hi x = max lo (min hi x) := by
  unfold clampTo
  split
  · omega
  · split <;> omega

section
variable {s a : Sector} {t : TermNo} {c : CarrierNo} {r : Terminal} {k : Carrier} {p : PldCounters} {e : EventSets}
  (h : s.Turned t c r k p e a)
include h

/-- The end of an unconverged attempt (R112). -/
theorem Sector.Turned.endUnconverged (hs : r.link.state = .trimming) (hc : r.cfg.carrier = c) :
    ∃ y j e', s.Turned t c y j p e' (a.endUnconverged c t) ∧ Terminal.Unconverged t r y k j e' := by
  unfold Sector.endUnconverged
  dsimp only
  rw [h.term, h.car]
  by_cases hlimit : k.cfg.trimLimit ≤ r.range.attempts
  · rw [if_pos hlimit]
    exact ⟨_, _, _, h.failExchange hs hc,
      { cfg := rfl, range := rfl, grant := fun _ => rfl, ctr := rfl, report := rfl, upMargin := rfl, assembly := .inr ⟨rfl, rfl⟩
        rng := by rw [Carrier.rangeFailed_rng]
        fails := fun _ => ⟨rfl, rfl, rfl, rfl, rfl, mem_insertNo.2 (.inl rfl), mem_insertNo.2 (.inl rfl)⟩
        settles := fun hn => absurd hlimit hn }⟩
  · rw [if_neg hlimit]
    exact ⟨_, _, _, h.modTerm fun r => { r with range := { r.range with settle := k.cfg.settle } },
      { cfg := rfl, range := rfl, grant := id, ctr := rfl, report := rfl, upMargin := rfl, assembly := .inl rfl, rng := rfl
        fails := fun hl => absurd hl hlimit
        settles := fun _ => ⟨rfl, rfl, rfl⟩ }⟩

/-- A current outcome taken as a miss (R111, R127). -/
theorem Sector.Turned.rangingMiss (hs : r.link.state = .trimming) (hc : r.cfg.carrier = c) :
    ∃ y j e', s.Turned t c y j (p.reportBroken r) e' (a.rangingMiss c t) ∧
      Terminal.Unconverged t r.reportBroken y { k with rng := { k.rng with misses := k.rng.misses + 1 } } j e' :=
  (h.breakAssembly.modCar fun k => { k with rng := { k.rng with misses := k.rng.misses + 1 } }).endUnconverged
    (r.reportBroken_kept.1 ▸ hs) (r.reportBroken_kept.2.1 ▸ hc)

theorem Sector.Turned.fallBack : s.Turned t c r.fallenBack (k.fallenBack r) p e (a.fallBack c t) := by
  unfold Sector.fallBack
  rw [h.term]
  cases hw : r.range.warm with
  | true =>
    rw [if_pos rfl]
    unfold Carrier.fallenBack
    rw [hw]
    exact (h.modTerm Terminal.fallenBack).modCar
      fun k => { k with rng := { k.rng with warmFallbacks := k.rng.warmFallbacks + 1 } }
  | false =>
    rw [if_neg Bool.false_ne_true, Terminal.fallenBack_of_cold hw, Carrier.fallenBack_of_cold hw]
    exact h

end
end Sys2Proof.Machine
end

section
/-! SUPPORT. Measurements and misses of an exchange (R108 to R111): O48, O49. -/

namespace Sys2Proof.Machine

theorem CarrierConfig.withinWindows_iff {cfg : CarrierConfig} {offset : Int} {snr : Nat} : cfg.withinWindows offset snr = true ↔
    offset.natAbs ≤ cfg.fineWindow ∧ ((snr : Int) - (cfg.targetSnr : Int)).natAbs ≤ cfg.powerWindow := by
  unfold CarrierConfig.withinWindows
  simp only [Bool.and_eq_true, decide_eq_true_eq]

/-- A measurement that converges: within both windows, and warm or the second of its exchange (R111). -/
def Terminal.convergesBy (cfg : CarrierConfig) (offset : Int) (snr : Nat) (r : Terminal) : Prop :=
  cfg.withinWindows offset snr = true ∧ (r.range.warm = true ∨ 1 ≤ r.range.measured)

/-- The carrier with one measurement more (R110). -/
def Carrier.measured (k : Carrier) : Carrier := { k with rng := { k.rng with measurements := k.rng.measurements + 1 } }

/-- The record whose current outcome is taken (R108). -/
def Terminal.judged (r : Terminal) : Terminal :=
  { r with range := { r.range with grant := none }, ctr := { r.ctr with rangingAttempts := r.ctr.rangingAttempts + 1 } }

/-- The carrier of an exchange whose current outcome is taken (R108). -/
def Carrier.judged (k : Carrier) : Carrier := { k with rng := { k.rng with outcomes := k.rng.outcomes + 1 } }

/-- The record of a trim burst outside the search window (R109). -/
def Terminal.overflowed (r : Terminal) : Terminal := { r with ctr := { r.ctr with rangingOverflows := r.ctr.rangingOverflows + 1 } }

/-- The carrier of a trim burst outside the search window (R109). -/
def Carrier.overflowed (k : Carrier) : Carrier := { k with rng := { k.rng with overflows := k.rng.overflows + 1 } }

/-- The carrier of a current outcome taken as a miss (R111). -/
def Carrier.rangingMissed (k : Carrier) : Carrier := { k with rng := { k.rng with misses := k.rng.misses + 1 } }

theorem Sector.measurement_eq (x : Sector) (c : CarrierNo) (t : TermNo) (offset : Int) (snr : Nat) (f : Fragment)
    {y : Sector} {g : RangeFields} {cfg : CarrierConfig} (hcfg : (x.car c).cfg = cfg)
    (hy : ((x.modTerm t (Terminal.measured cfg.targetSnr offset snr)).modCar c Carrier.measured).takeFragment t f = y)
    (hg : (y.term t).range = g) : x.measurement c t offset snr f =
      if g.warm = true ∨ 2 ≤ g.measured then
        if cfg.withinWindows offset snr then y.converge c t else (y.fallBack c t).endUnconverged c t
      else y.endUnconverged c t := by
  subst hcfg hy hg
  rfl

section
variable {s a : Sector} {t : TermNo} {c : CarrierNo} {r : Terminal} {k : Carrier} {p : PldCounters} {e : EventSets}
  (h : s.Turned t c r k p e a)
include h

/-- A measurement that does not converge (R111, R112). -/
theorem Sector.Turned.unconvergedMeasurement (hs : r.link.state = .trimming) (hc : r.cfg.carrier = c) :
    ∃ y j e', s.Turned t c y j p e' ((a.fallBack c t).endUnconverged c t) ∧
      Terminal.Unconverged t r.fallenBack y (k.fallenBack r) j e' := h.fallBack.endUnconverged hs hc

/-- A trim burst taken as a measurement (R110, R111). -/
theorem Sector.Turned.measurement (hs : r.link.state = .trimming) (hc : r.cfg.carrier = c) (offset : Int) (snr : Nat) (f : Fragment) :
    ∃ w q, Terminal.Took f (r.measured k.cfg.targetSnr offset snr) w p q ∧
      ((r.convergesBy k.cfg offset snr ∧ s.Converged t c w k.measured q e (a.measurement c t offset snr f)) ∨
        (¬ r.convergesBy k.cfg offset snr ∧ ∃ y j e', s.Turned t c y j q e' (a.measurement c t offset snr f) ∧
          Terminal.Unconverged t w.fallenBack y (k.measured.fallenBack w) j e')) := by
  obtain ⟨w, q, hw, htook⟩ := ((h.modTerm (Terminal.measured k.cfg.targetSnr offset snr)).modCar Carrier.measured).takeFragment f
  have hws : w.link.state = .trimming := (congrArg LinkFields.state htook.link).trans hs
  have hwc : w.cfg.carrier = c := (congrArg TermConfig.carrier htook.cfg).trans hc
  have hsecond : (w.range.warm = true ∨ 2 ≤ w.range.measured) ↔ (r.range.warm = true ∨ 1 ≤ r.range.measured) := by
    rw [htook.range]
    exact or_congr_right Nat.succ_le_succ_iff
  refine ⟨w, q, htook, ?_⟩
  rw [Sector.measurement_eq a c t offset snr f (congrArg Carrier.cfg h.car) rfl (congrArg Terminal.range hw.term)]
  by_cases hsec : w.range.warm = true ∨ 2 ≤ w.range.measured
  · rw [if_pos hsec]
    by_cases hwithin : k.cfg.withinWindows offset snr = true
    · rw [if_pos hwithin]
      exact .inl ⟨⟨hwithin, hsecond.1 hsec⟩, hw.converge hws hwc⟩
    · rw [if_neg hwithin]
      exact .inr ⟨fun hn => hwithin hn.1, hw.unconvergedMeasurement hws hwc⟩
  · rw [if_neg hsec]
    have hcold : w.range.warm = false := Bool.eq_false_iff.2 fun hwarm => hsec (.inl hwarm)
    refine .inr ⟨fun hn => hsec (hsecond.2 hn.2), ?_⟩
    rw [Terminal.fallenBack_of_cold hcold, Carrier.fallenBack_of_cold hcold]
    exact hw.endUnconverged hws hwc

end

/-! ### The current outcome of a grant (R108, R109) -/

section
variable {x : Sector} {c : CarrierNo} {t : TermNo} {offset : Int} {snr : Nat} {f : Fragment}

/-- The sector as the current outcome of `t` is taken (R108). -/
def Sector.judged (x : Sector) (c : CarrierNo) (t : TermNo) : Sector :=
  ((x.modTerm t fun r => { r with range := { r.range with grant := none } }).modTerm t
    fun r => { r with ctr := { r.ctr with rangingAttempts := r.ctr.rangingAttempts + 1 } }).modCar c Carrier.judged

theorem Sector.currentOutcome_miss : x.currentOutcome c t .miss = (x.judged c t).rangingMiss c t := rfl

theorem Sector.currentOutcome_overflow (h : (x.car c).cfg.searchWindow < offset.natAbs) : x.currentOutcome c t (.trim offset snr f) =
    (((x.judged c t).modTerm t Terminal.overflowed).modCar c Carrier.overflowed).rangingMiss c t := if_pos h

theorem Sector.currentOutcome_measured (h : offset.natAbs ≤ (x.car c).cfg.searchWindow) :
    x.currentOutcome c t (.trim offset snr f) = (x.judged c t).measurement c t offset snr f := if_neg (not_lt.2 h)

/-- The consumed cell apart, the carriers are as they were. -/
theorem Sector.car_consumed (d : CarrierNo) {u : FrameNo} {slot : SlotNo} :
    ((x.modCar c (Carrier.consumed u slot)).car d).cfg = (x.car d).cfg ∧
      ((x.modCar c (Carrier.consumed u slot)).car d).rng = (x.car d).rng ∧
      ((x.modCar c (Carrier.consumed u slot)).car d).slotUse = (x.car d).slotUse := by
  rw [Sector.car_modCar]
  by_cases hd : d = c
  · subst hd
    rw [if_pos rfl]
    exact ⟨rfl, rfl, rfl⟩
  · rw [if_neg hd]
    exact ⟨rfl, rfl, rfl⟩

end

/-- A slot outcome that is the current outcome of terminal `t`'s grant. -/
theorem exec_currentOutcome {c : CarrierNo} {u : FrameNo} {slot : SlotNo} {t : TermNo} {n : Nat} {o : SlotResult} {s : State}
    (hr : o.inRange = true) (hu : u = (s.sector.car c).lastFrame) (hcell : (s.sector.car c).cell u slot = .granted t n)
    (hst : (s.sector.term t).link.state = .trimming) (hg : (s.sector.term t).range.grant = some { frame := u, slot := slot })
    (ho : (s.sector.term t).owed.grant = none) :
    ∃ v, exec (.slotOutcome c u slot o) s = .next v ∧ OnlyLinkSide s v ∧ v.sector =
      (s.sector.modCar c (Carrier.consumed u slot)).currentOutcome (s.sector.term t).cfg.carrier t (TrimOutcome.ofResult t o) := by
  have hfind : (s.sector.car c).outcomeCell u slot = .granted t n := (Carrier.outcomeCell_current hu).trans hcell
  refine ⟨_, exec_slotOutcome_event hr (Sector.payloadOf_granted hfind), State.event_only s _, ?_⟩
  rw [State.event_sector, Sector.slotOutcome_granted hfind]
  exact Sector.rngOutcome_current hst hg ho

/-- The sector of the grantee's exchange, its cell consumed and its outcome taken. -/
theorem Sector.judged_turned (x : Sector) (c : CarrierNo) (t : TermNo) :
    x.Turned t c (x.term t).judged (x.car c).judged x.pld x.events (x.judged c t) :=
  (((Sector.Turned.rfl' x t c).modTerm fun r => { r with range := { r.range with grant := none } }).modTerm
    fun r => { r with ctr := { r.ctr with rangingAttempts := r.ctr.rangingAttempts + 1 } }).modCar Carrier.judged

theorem Terminal.Unconverged.outcome {t : TermNo} {r y : Terminal} {k j : Carrier} {e : EventSets} {cfg : CarrierConfig}
    {g : RangeFields} {l : LinkFields} (h : Terminal.Unconverged t r y k j e) (hcfg : k.cfg = cfg)
    (hattempts : r.range.attempts = g.attempts) (hstored : r.range.stored = g.stored) (hlink : r.link = l) :
    if cfg.trimLimit ≤ g.attempts then y.link.state = .guard ∧ y.link.cause = .rangeFail ∧ y.range.stored = none ∧
      y.owed.halt = true ∧ y.ladder.assembly = [] ∧ t ∈ e.rangeFail ∧ t ∈ e.stateChange
    else y.link = l ∧ y.range.settle = cfg.settle ∧ y.range.stored = g.stored := by
  subst hcfg hlink
  rw [← hattempts, ← hstored]
  split
  · next hl => exact h.fails hl
  · next hl => exact h.settles hl

/-- What convergence makes of the record (R113). -/
structure Terminal.Admitted (r y : Terminal) : Prop where
  cfg : y.cfg = r.cfg
  state : y.link.state = .admitting
  range : y.range = r.converging.range
  ctr : y.ctr = r.ctr
  report : y.ladder.report = r.ladder.report
  upMargin : y.ladder.upMargin = r.ladder.upMargin
  assembly : y.ladder.assembly = r.ladder.assembly

theorem Sector.Converged.record {s a : Sector} {t : TermNo} {c : CarrierNo} {r : Terminal} {k : Carrier} {p : PldCounters}
    {e : EventSets} (h : s.Converged t c r k p e a) : ∃ y, r.Admitted y ∧ s.Turned t c y ((k.converging t).marked t r.cfg.homeSlots) p
      { e with stateChange := insertNo t e.stateChange } a := by
  obtain ⟨b, -, ⟨-, hy⟩ | ⟨-, hy⟩⟩ := h
  · exact ⟨(r.converging.toAdmitting _ b).owingAdmit, ⟨rfl, rfl, rfl, rfl, rfl, rfl, rfl⟩, hy⟩
  · exact ⟨r.converging.toAdmitting _ b, ⟨rfl, rfl, rfl, rfl, rfl, rfl, rfl⟩, hy⟩

theorem Carrier.converging_rng (t : TermNo) (l : List SlotNo) (k : Carrier) :
    ((k.converging t).marked t l).rng = { k.rng with convergences := k.rng.convergences + 1 } := by
  have hrng := congrArg Carrier.rng (Carrier.marked_frame t l (k.converging t))
  exact hrng

end Sys2Proof.Machine
end

section
/-! SUPPORT. The current outcome of a TRIMMING terminal's grant (R108 to R115): O48. -/

namespace Sys2Proof.Machine

/-- Record `y`, carrier `j` and event sets `e`: what a current outcome taken as a miss makes of record `r` of `t` and carrier `k`
(R111, R112, R115, R127). -/
structure Terminal.RangingMissed (t : TermNo) (r y : Terminal) (k j : Carrier) (e : EventSets) : Prop where
  cfg : y.cfg = r.cfg
  grant : y.range.grant = none
  range : y.range = { r.range with stored := y.range.stored, settle := y.range.settle, grant := y.range.grant }
  ctr : y.ctr = { r.ctr with
    brokenReports := if r.ladder.assembly = [] then r.ctr.brokenReports else r.ctr.brokenReports + 1
    rangingFailures := y.ctr.rangingFailures }
  assembly : y.ladder.assembly = []
  rng : j.rng = { k.rng with misses := k.rng.misses + 1, failures := j.rng.failures }
  outcome : if k.cfg.trimLimit ≤ r.range.attempts then y.link.state = .guard ∧ y.link.cause = .rangeFail ∧ y.range.stored = none ∧
      y.owed.halt = true ∧ y.ladder.assembly = [] ∧ t ∈ e.rangeFail ∧ t ∈ e.stateChange
    else y.link = r.link ∧ y.range.settle = k.cfg.settle ∧ y.range.stored = r.range.stored

theorem Sector.Turned.rangingMissed {s a : Sector} {t : TermNo} {c : CarrierNo} {r : Terminal} {k : Carrier} {p : PldCounters}
    {e : EventSets} (h : s.Turned t c r k p e a) (hs : r.link.state = .trimming) (hc : r.cfg.carrier = c) (hg : r.range.grant = none) :
    ∃ y j e', s.Turned t c y j (p.reportBroken r) e' (a.rangingMiss c t) ∧ Terminal.RangingMissed t r y k j e' := by
  obtain ⟨y, j, e', hy, hun⟩ := h.rangingMiss hs hc
  obtain ⟨hlink, hcfg, hrange, -, -, hctr⟩ := r.reportBroken_kept
  have hgrant : y.range.grant = none := hun.grant (hrange ▸ hg)
  refine ⟨y, j, e', hy, hun.cfg.trans hcfg, hgrant, ?range, ?ctr, ?assembly, hun.rng, ?outcome⟩
  case range =>
    exact hun.range.trans (congrArg
      (fun g => { g with stored := y.range.stored, settle := y.range.settle, grant := y.range.grant : RangeFields }) hrange)
  case ctr => rw [hun.ctr, hctr]
  case assembly => exact hun.assembly.elim (fun ha => ha.trans r.reportBroken_empty) And.right
  case outcome => exact hun.outcome rfl (congrArg RangeFields.attempts hrange) (congrArg RangeFields.stored hrange) hlink

/-- Settles O48: the outcome taken as a miss, as one outside the search window, or as a measurement. -/
theorem rangingOutcomeJudgesAttempt : Obligations.RangingOutcomeJudgesAttempt := by
  intro c u slot t n o s k x hr hu hcell hst hforced hg ho own h correction fails settles breaks missed
  obtain ⟨v, hexec, hlink, hsector⟩ := exec_currentOutcome hr hu hcell hst hg ho
  have hz := Sector.judged_turned (s.sector.modCar c (Carrier.consumed u slot)) own t
  obtain ⟨hcfg, hrng, -⟩ := Sector.car_consumed (x := s.sector) (c := c) (u := u) (slot := slot) own
  have houtcomes := congrArg RngCounters.outcomes hrng
  have hmisses := congrArg RngCounters.misses hrng
  have hfalls := congrArg RngCounters.warmFallbacks hrng
  have hframe {y : Terminal} {j : Carrier} {q : PldCounters} {e : EventSets}
      (hy : (s.sector.modCar c (Carrier.consumed u slot)).Turned t own y j q e v.sector) : OnlyRecord s.sector v.sector t ∧
        (∀ d, d ≠ c → d ≠ own → v.sector.car d = s.sector.car d) ∧ (c ≠ own → (v.sector.car c).rng = k.rng) := by
    refine ⟨hy.only, fun d hd hdo => (hy.onlyCar d hdo).trans ?_, fun hco => (congrArg Carrier.rng (hy.onlyCar c hco)).trans ?_⟩
    · exact (Sector.car_modCar _ _ _ _).trans (if_neg hd)
    · exact (Sector.car_consumed c).2.1
  have hmiss {r : Terminal} {j : Carrier} 
      (hm : Terminal.RangingMissed t r (v.sector.term t) j (v.sector.car own) v.sector.events) (hlink' : r.link = x.link)
      (hrange : r.range = x.judged.range) (hladder : r.ladder = x.ladder) 
      (hbroken : r.ctr.brokenReports = x.ctr.brokenReports) (hjcfg : j.cfg = h.cfg) (hjm : j.rng.misses = h.rng.misses)
      (hjw : j.rng.warmFallbacks = h.rng.warmFallbacks) (hpld : v.sector.pld = s.sector.pld.reportBroken r) :
      (if h.cfg.trimLimit ≤ x.range.attempts then fails (v.sector.term t) v else settles (v.sector.term t)) ∧
        breaks (v.sector.term t) v ∧ (v.sector.term t).range.correction = x.range.correction ∧ missed (v.sector.term t) v := by
    have hkept := hm.range
    have hctr := congrArg TermCounters.brokenReports hm.ctr
    have hout := hm.outcome
    rw [hrange] at hkept
    rw [hrange, hlink', hjcfg] at hout
    rw [hladder, hbroken] at hctr
    have hcorrection := congrArg RangeFields.correction hkept
    have hmeasured := congrArg RangeFields.measured hkept
    have hlast := congrArg RangeFields.last hkept
    have hpower := congrArg RangeFields.power hkept
    have hwarm := congrArg RangeFields.warm hkept
    refine ⟨hout, ⟨hm.assembly, hctr, ?_⟩, hcorrection, hmeasured, hlast, hpower, hwarm, ?_, ?_⟩
    · rw [hpld, PldCounters.reportBroken, hladder]
      split <;> rfl
    · rw [hm.rng, ← hjm]
    · rw [hm.rng, ← hjw]
  refine ⟨v, hexec, hlink, ?_⟩
  by_cases hown : ∃ b f, o = .burst b ∧ b.kind = .trim f ∧ b.claimed = t
  · obtain ⟨b, f, rfl, hk, hclaim⟩ := hown
    rw [TrimOutcome.ofResult_trim rfl hk hclaim] at hsector
    by_cases hover : h.cfg.searchWindow < b.offset.natAbs
    · rw [Sector.currentOutcome_overflow (by rw [hcfg]; exact hover)] at hsector
      obtain ⟨y, j, e, hy, hm⟩ := ((hz.modTerm Terminal.overflowed).modCar Carrier.overflowed).rangingMissed hst rfl rfl
      rw [← hsector] at hy
      obtain ⟨hrec, hcars, hother⟩ := hframe hy
      have hterm := hy.term
      have hcar := hy.car
      have hevents := hy.events
      subst hterm hcar hevents
      have hout := congrArg RngCounters.outcomes hm.rng
      have hoverflows := congrArg TermCounters.rangingOverflows hm.ctr
      have hjudged := hmiss hm rfl rfl rfl rfl hcfg hmisses hfalls hy.pld
      refine ⟨hrec, hcars, hother, hm.cfg, hm.grant, congrArg TermCounters.rangingAttempts hm.ctr, ?_,
        fun hno => absurd hclaim (hno b f rfl hk), fun b' f' hb _ _ _ => ?_, fun b' f' hb _ _ hin => ?_⟩
      · rw [← hrng]
        exact hout
      · exact ⟨hjudged.1, hjudged.2.1, hjudged.2.2.1, hjudged.2.2.2, hoverflows⟩
      · injection hb with hb
        subst hb
        exact absurd hin (not_le.2 hover)
    · have hin : b.offset.natAbs ≤ h.cfg.searchWindow := not_lt.1 hover
      rw [Sector.currentOutcome_measured (by rw [hcfg]; exact hin)] at hsector
      obtain ⟨w, q, hw, hend⟩ := hz.measurement hst rfl b.offset b.snr f
      rw [← hsector] at hend
      have hwr : w.range = RangeFields.measure h.cfg.targetSnr b.offset b.snr x.judged.range := by
        rw [← hcfg]
        exact hw.range
      have hby : x.judged.convergesBy ((s.sector.modCar c (Carrier.consumed u slot)).car own).cfg b.offset b.snr ↔
          (b.offset.natAbs ≤ h.cfg.fineWindow ∧ ((b.snr : Int) - (h.cfg.targetSnr : Int)).natAbs ≤ h.cfg.powerWindow) ∧
            (x.range.warm = true ∨ 1 ≤ x.range.measured) := by
        rw [hcfg]
        exact and_congr_left fun _ => CarrierConfig.withinWindows_iff
      have hcorrection : (w.range.correction = correction b.offset) := by
        rw [hwr]
        exact clampTo_eq (by decide) _
      have hpower : w.range.power = max (-12) (min 12 ((h.cfg.targetSnr : Int) - (b.snr : Int))) := by
        rw [hwr]
        exact clampTo_eq (by decide) _
      have hlast : w.range.last = some { offset := b.offset, snr := b.snr } := by rw [hwr]; rfl
      have hmeasured : w.range.measured = x.range.measured + 1 := by rw [hwr]; rfl
      have hwarm : w.range.warm = x.range.warm := by rw [hwr]; rfl
      have hattempts := congrArg TermCounters.rangingAttempts hw.ctr
      rcases hend with ⟨hyes, hconv⟩ | ⟨hno, y, j, e, hy, hun⟩
      · obtain ⟨y, hadm, hy⟩ := hconv.record
        obtain ⟨hrec, hcars, hother⟩ := hframe hy
        replace hyes := hby.1 hyes
        have hrng' := (congrArg Carrier.rng hy.car).trans (Carrier.converging_rng t w.cfg.homeSlots _)
        have hout' := (congrArg RngCounters.outcomes hrng').trans (congrArg (· + 1) houtcomes)
        have hmisses' := (congrArg RngCounters.misses hrng').trans hmisses
        have hfalls' := (congrArg RngCounters.warmFallbacks hrng').trans hfalls
        have hchange : t ∈ v.sector.events.stateChange := by
          rw [hy.events]
          exact mem_insertNo.2 (.inl rfl)
        have hterm := hy.term
        subst hterm
        have hrange := hadm.range
        refine ⟨hrec, hcars, hother, hadm.cfg.trans hw.cfg, ?_, ?_, hout',
          fun hno => absurd hclaim (hno b f rfl hk), fun b' f' hb _ _ hout => ?_, fun b' f' hb _ _ _ => ?_⟩
        · rw [hrange]; rfl
        · rw [hadm.ctr]; exact hattempts
        · injection hb with hb
          subst hb
          exact absurd hout hover
        · injection hb with hb
          subst hb
          rw [hrange]
          exact ⟨hcorrection, hmeasured, hpower, hlast, hmisses', fun _ hout => absurd hyes.1 hout, fun _ => ⟨hwarm, hfalls'⟩,
            fun _ _ => ⟨hadm.state, congrArg some hcorrection, hchange⟩, fun hno => absurd hyes hno⟩
      · obtain ⟨hrec, hcars, hother⟩ := hframe hy
        replace hno := fun hn => hno (hby.2 hn)
        have hterm := hy.term
        have hcar := hy.car
        have hevents := hy.events
        subst hterm hcar hevents
        have hrange := hun.range
        have hcorrection' := (congrArg RangeFields.correction hrange).trans hcorrection
        have hmeasured' := (congrArg RangeFields.measured hrange).trans hmeasured
        have hpower' := (congrArg RangeFields.power hrange).trans hpower
        have hlast' := (congrArg RangeFields.last hrange).trans hlast
        have hcold := congrArg RangeFields.warm hrange
        have hattempts' := (congrArg TermCounters.rangingAttempts hun.ctr).trans hattempts
        have hout' := (congrArg RngCounters.outcomes hun.rng).trans (congrArg (· + 1) houtcomes)
        have hmisses' := (congrArg RngCounters.misses hun.rng).trans hmisses
        have hfalls' : (v.sector.car own).rng.warmFallbacks = if w.range.warm then
            ((s.sector.modCar c (Carrier.consumed u slot)).car own).rng.warmFallbacks + 1
          else ((s.sector.modCar c (Carrier.consumed u slot)).car own).rng.warmFallbacks :=
          congrArg RngCounters.warmFallbacks hun.rng
        rw [hwarm, hfalls] at hfalls'
        have hwa := congrArg RangeFields.attempts hwr
        have hwst := congrArg RangeFields.stored hwr
        have hend := hun.outcome (g := x.range) hcfg hwa hwst hw.link
        have hcoldx (hx : x.range.warm = false ∨ (b.offset.natAbs ≤ h.cfg.fineWindow ∧
            ((b.snr : Int) - (h.cfg.targetSnr : Int)).natAbs ≤ h.cfg.powerWindow)) : x.range.warm = false :=
          hx.elim id fun hin => Bool.eq_false_iff.2 fun hwarm => hno ⟨hin, .inl hwarm⟩
        refine ⟨hrec, hcars, hother, hun.cfg.trans hw.cfg, hun.grant ?_, hattempts', hout',
          fun hno => absurd hclaim (hno b f rfl hk), fun b' f' hb _ _ hout => ?_, fun b' f' hb _ _ _ => ?_⟩
        · exact congrArg RangeFields.grant hwr
        · injection hb with hb
          subst hb
          exact absurd hout hover
        · injection hb with hb
          subst hb
          refine ⟨hcorrection', hmeasured', hpower', hlast', hmisses', fun hx _ => ⟨hcold, ?_⟩, fun hx => ⟨?_, ?_⟩,
            fun hin hsec => absurd ⟨hin, hsec⟩ hno, fun _ => ?_⟩
          · rw [hfalls', if_pos hx]
          · rw [hcoldx hx]
            exact hcold
          · rw [hfalls', hcoldx hx]
            rfl
          · exact hend
  · rw [TrimOutcome.ofResult_miss fun b f hb hk hc => hown ⟨b, f, hb, hk, hc⟩, Sector.currentOutcome_miss] at hsector
    obtain ⟨y, j, e, hy, hm⟩ := hz.rangingMissed hst rfl rfl
    rw [← hsector] at hy
    obtain ⟨hrec, hcars, hother⟩ := hframe hy
    have hterm := hy.term
    have hcar := hy.car
    have hevents := hy.events
    subst hterm hcar hevents
    refine ⟨hrec, hcars, hother, hm.cfg, hm.grant, congrArg TermCounters.rangingAttempts hm.ctr, ?_, fun _ => ?_,
      fun b f hb hk hc => absurd ⟨b, f, hb, hk, hc⟩ hown, fun b f hb hk hc => absurd ⟨b, f, hb, hk, hc⟩ hown⟩
    · rw [hm.rng, ← hrng]
      rfl
    · exact hmiss hm rfl rfl rfl rfl hcfg hmisses hfalls hy.pld
end Sys2Proof.Machine
end

section
/-! SUPPORT. The fragments of traffic and trim bursts (R125 to R128): O49. -/

namespace Sys2Proof.Machine

/-- A record `y` that keeps what the assembly made of it, but for entering GUARD. -/
structure Terminal.KeepsReport (w y : Terminal) : Prop where
  broken : y.ctr.brokenReports = w.ctr.brokenReports
  report : y.ladder.report = w.ladder.report
  upMargin : y.ladder.upMargin = w.ladder.upMargin
  assembly : y.ladder.assembly = w.ladder.assembly ∨ y.link.state = .guard ∧ y.ladder.assembly = []

theorem Terminal.Admitted.keeps {w y : Terminal} (h : w.Admitted y) : w.KeepsReport y :=
  ⟨congrArg TermCounters.brokenReports h.ctr, h.report, h.upMargin, .inl h.assembly⟩

theorem Terminal.Unconverged.keeps {t : TermNo} {w y : Terminal} {k j : Carrier} {e : EventSets}
    (h : Terminal.Unconverged t w.fallenBack y k j e) : w.KeepsReport y := by
  have hbroken := congrArg TermCounters.brokenReports h.ctr
  exact ⟨hbroken, h.report, h.upMargin, h.assembly⟩

section
variable {f : Fragment} {x r w y : Terminal} {p q : PldCounters} (ht : Terminal.Took f r w p q) (hy : w.KeepsReport y)
  (hheld : r.ladder.assembly = x.ladder.assembly) (hreport : r.ladder.report = x.ladder.report)
  (hbroken : r.ctr.brokenReports = x.ctr.brokenReports)
include ht hy hheld

theorem Terminal.Took.assembly_of_not_guard (hg : y.link.state ≠ .guard) : y.ladder.assembly = if f.start = true then [f.bits]
    else if x.ladder.assembly = [] ∨ x.ladder.assembly.length = 3 then [] else x.ladder.assembly ++ [f.bits] := by
  rw [← hheld, ← ht.assembled]
  exact hy.assembly.resolve_right fun h => hg h.1

theorem Terminal.Took.assembly_empty (hf : f.start = false) (he : x.ladder.assembly = [] ∨ x.ladder.assembly.length = 3) :
    y.ladder.assembly = [] := by
  rcases hy.assembly with h | h
  · rw [h, ht.assembled, hheld, if_neg (by rw [hf]; decide), if_pos he]
  · exact h.2

include hbroken in
theorem Terminal.Took.broken_reports :
    (f.start = true → q.brokenReports = (if x.ladder.assembly = [] then p.brokenReports else p.brokenReports + 1) ∧
      y.ctr.brokenReports = (if x.ladder.assembly = [] then x.ctr.brokenReports else x.ctr.brokenReports + 1)) ∧
    (f.start = false → q.brokenReports = p.brokenReports ∧ y.ctr.brokenReports = x.ctr.brokenReports) := by
  have hc := hy.broken.trans (congrArg TermCounters.brokenReports ht.ctr)
  rw [ht.broken, hc, hheld]
  dsimp only
  rw [hbroken]
  refine ⟨fun hf => ?_, fun hf => ?_⟩
  · simp only [hf, true_and, ne_eq, ite_not, and_self]
  · simp only [hf, Bool.false_eq_true, false_and, if_false, and_self]

include hreport in
theorem Terminal.Took.completed_report :
    (∀ x₁ x₂ x₃, f.start = false → x.ladder.assembly = [x₁, x₂, x₃] →
      q.reportsCompleted = p.reportsCompleted + 1 ∧ y.ladder.report = some
        { margin := (x₁ ++ x₂ : BitVec 8).toInt
          trend := [Trend.falling, .steady, .rising, .unknown].getD (x₃.toNat / 4) .unknown
          headroom := 16 * (x₃.toNat % 4) + f.bits.toNat }) ∧
    (f.start = true ∨ x.ladder.assembly.length < 3 →
      q.reportsCompleted = p.reportsCompleted ∧ y.ladder.report = x.ladder.report) := by
  refine ⟨fun x₁ x₂ x₃ hf hx => ?_, fun hn => ?_⟩
  · have hx' := hheld.trans hx
    rw [ht.completed, hx', if_pos ⟨hf, rfl⟩, hy.report, ht.complete x₁ x₂ x₃ hf hx', Report.ofFragments_eq]
    exact ⟨rfl, rfl⟩
  · have hn' : f.start = true ∨ r.ladder.assembly.length ≠ 3 := hn.imp id fun h => by rw [hheld]; omega
    have hne : ¬ (f.start = false ∧ r.ladder.assembly.length = 3) := fun h => hn'.elim (by rw [h.1]; decide) fun hl => hl h.2
    rw [ht.completed, if_neg hne, hy.report, ht.report hn', hreport]
    exact ⟨rfl, rfl⟩

end

theorem Terminal.burstTaken_report (r : Terminal) : r.burstTaken.ladder.assembly = r.ladder.assembly ∧
    r.burstTaken.ladder.report = r.ladder.report ∧ r.burstTaken.ctr = r.ctr ∧ r.burstTaken.ladder.current = r.ladder.current := by
  unfold Terminal.burstTaken
  split <;> exact ⟨rfl, rfl, rfl, rfl⟩

/-- Settles O49: the fragment taken into the assembly, by a traffic burst in service or by a measured trim burst. -/
theorem reportsAreAssembled : Obligations.ReportsAreAssembled := by
  intro c u slot b f s k t x held hr hcase
  suffices hall : ∃ v r w, exec (.slotOutcome c u slot (.burst b)) s = .next v ∧
      Terminal.Took f r w s.sector.pld v.sector.pld ∧ w.KeepsReport (v.sector.term t) ∧
      (r.ladder.assembly = held ∧ r.ladder.report = x.ladder.report ∧ r.ctr.brokenReports = x.ctr.brokenReports) ∧
      (∀ pause payload, b.kind = .traffic f pause payload → (v.sector.term t).ladder.upMargin =
        some ((b.snr : Int) - ((s.sector.profile x.ladder.current).requiredSnr : Int))) ∧
      (b.kind = .trim f → (v.sector.term t).ladder.upMargin = x.ladder.upMargin ∧
        v.sector.pld.stepDownDecisions = s.sector.pld.stepDownDecisions ∧
        v.sector.pld.stepUpDecisions = s.sector.pld.stepUpDecisions) by
    obtain ⟨v, r, w, hexec, ht, hy, ⟨hheld, hreport, hbroken⟩, htraffic, htrim⟩ := hall
    obtain ⟨hstarts, hgoes⟩ := ht.broken_reports hy hheld hbroken
    obtain ⟨hcomplete, hrest⟩ := ht.completed_report hy hheld hreport
    refine ⟨v, hexec, fun hf => ⟨fun hg => ?_, hstarts hf⟩, hgoes, fun hf he => ht.assembly_empty hy hheld hf (.inl he), ?_,
      fun hf hl hg => ?_, fun x₁ x₂ x₃ hf hx =>
        ⟨ht.assembly_empty hy hheld hf (.inr (congrArg List.length hx)), hcomplete x₁ x₂ x₃ hf hx⟩,
      hrest, htraffic, htrim⟩
    · rw [ht.assembly_of_not_guard hy hheld hg, if_pos hf]
    · rw [ht.orphans, hheld]
    · have hne : ¬ (held = [] ∨ held.length = 3) := fun h => by
        rcases h with h | h
        · rw [h] at hl; exact absurd hl (by decide)
        · omega
      rw [ht.assembly_of_not_guard hy hheld hg, if_neg (by rw [hf]; decide), if_neg hne]
  rcases hcase with ⟨⟨pause, payload, hk⟩, hcell, hslot, hst⟩ | ⟨hk, hu, ⟨n, hcell⟩, hst, hg, ho, hin⟩
  · obtain ⟨v, hexec, hsector⟩ := exec_goodBurst hr hk hcell hslot hst
    obtain ⟨w, q, hw, ht⟩ := (Sector.Turned.rfl' (s.sector.frameChecked c u) t x.cfg.carrier).goodBurst rfl (goodOf b f pause payload)
    rw [← hsector] at hw
    obtain ⟨hasm, hrep, hctr, hcur⟩ := x.burstTaken_report
    refine ⟨v, x.burstTaken.measuredUp ((s.sector.frameChecked c u).marginUp x.burstTaken.ladder.current b.snr), w, hexec, ?_, ?_,
      ⟨hasm, hrep, congrArg TermCounters.brokenReports hctr⟩, fun _ _ _ => ?_, fun hn => ?_⟩
    · rw [hw.pld]; exact ht
    · rw [hw.term]; exact ⟨rfl, rfl, rfl, .inl rfl⟩
    · rw [hw.term]
      exact ht.upMargin.trans (congrArg (fun q => some ((s.sector.frameChecked c u).marginUp q b.snr)) hcur)
    · rw [hk] at hn; cases hn
  · obtain ⟨v, hexec, -, hsector⟩ := exec_currentOutcome hr hu hcell hst hg ho
    have hz := Sector.judged_turned (s.sector.modCar c (Carrier.consumed u slot)) x.cfg.carrier t
    rw [TrimOutcome.ofResult_trim rfl hk rfl, Sector.currentOutcome_measured (by rw [(Sector.car_consumed _).1]; exact hin)] at hsector
    obtain ⟨w, q, hw, hend⟩ := hz.measurement hst rfl b.offset b.snr f
    rw [← hsector] at hend
    obtain ⟨hpld, hkeeps⟩ : v.sector.pld = q ∧ w.KeepsReport (v.sector.term t) := by
      rcases hend with ⟨-, hconv⟩ | ⟨-, y, j, e, hy, hun⟩
      · obtain ⟨y, hadm, hy⟩ := hconv.record
        exact ⟨hy.pld, hy.term ▸ hadm.keeps⟩
      · exact ⟨hy.pld, hy.term ▸ hun.keeps⟩
    obtain ⟨-, -, -, hdown, hup⟩ := hw.undecided fun hserving => absurd (hst.symm.trans hserving) (by decide)
    refine ⟨v, x.judged.measured _ b.offset b.snr, w, hexec, (by rw [hpld]; exact hw), hkeeps, ⟨rfl, rfl, rfl⟩, fun _ _ hn => ?_,
      fun _ => ⟨hkeeps.upMargin.trans hw.upMargin, ?_, ?_⟩⟩
    · rw [hk] at hn; cases hn
    · rw [hpld]; exact hdown
    · rw [hpld]; exact hup

end Sys2Proof.Machine
end

section
/-! SUPPORT. What entering each link state does (R37 to R43): O22. -/

namespace Sys2Proof.Machine

/-! ### The records of the entries (R37, R38, R40 to R43) -/

theorem LinkState.startsOutage_iff {x : LinkState} : x.startsOutage = true ↔ x = .serving ∨ x = .fading ∨ x = .held := by
  cases x <;> decide

theorem Terminal.toDark_outage {old : LinkState} (h : old.startsOutage = true) (r : Terminal) : Terminal.toDark old r =
    { r with
      link := { r.link with state := .dark, outage := 0, outageOn := true, lendActive := r.cfg.lendDelay
                            warmActive := r.cfg.warmLimit, lendTaken := decide (r.cfg.lendDelay = 0)
                            warmClosed := decide (r.cfg.warmLimit = 0) }
      ladder := { r.ladder with pending := none, assembly := [], stepUp := 0 }
      hold := { r.hold with release := .idle, yieldCount := 0 }
      owed := { r.owed with profile := false, admission := false } } := by
  unfold Terminal.toDark
  rw [if_pos h]
  rfl

theorem Terminal.toDark_absent {old : LinkState} (h : ¬ old.startsOutage = true) (r : Terminal) : Terminal.toDark old r =
    { r with
      link := { r.link with state := .dark }
      ladder := { r.ladder with pending := none, assembly := [], stepUp := 0 }
      hold := { r.hold with release := .idle, yieldCount := 0 }
      owed := { r.owed with profile := false, admission := false } } := by
  unfold Terminal.toDark
  rw [if_neg h]
  rfl

theorem HoldFields.startRelease_eq (h : HoldFields) : h.startRelease =
    if h.queue = [] then { h with release := .idle, yieldCount := 0 } else { h with release := .releasing, yieldCount := 0 } := by
  unfold HoldFields.startRelease
  simp only [List.isEmpty_iff]
  rfl

theorem HoldFields.suspend_eq (h : HoldFields) : h.suspend =
    if h.release = .releasing ∨ h.release = .paused ∨ h.release = .yielding then { h with release := .suspended, yieldCount := 0 }
    else h := by
  unfold HoldFields.suspend
  cases h.release with
  | idle | suspended => rfl
  | releasing => rfl
  | paused => rfl
  | yielding => rfl

/-! ### Entering FADING (R41, R135) -/

section
variable {r : Terminal} {q : Option ProfileNo} {p : PldCounters}

theorem Terminal.fadesTo_none (h : q = none ∨ ∃ d, r.ladder.pending = some d ∧ d.direction = .stepDown) : r.fadesTo q = none := by
  unfold Terminal.fadesTo
  rcases h with rfl | ⟨d, hd, hdir⟩
  · cases r.ladder.pending with
    | none => rfl
    | some d => exact ite_self none
  · rw [hd]
    exact if_pos hdir

theorem Terminal.fadesTo_some (h : ¬ ∃ d, r.ladder.pending = some d ∧ d.direction = .stepDown) : r.fadesTo q = q := by
  unfold Terminal.fadesTo
  cases hd : r.ladder.pending with
  | none => rfl
  | some d => exact if_neg fun hdir => h ⟨d, hd, hdir⟩

theorem Terminal.faded_kept (b : Bool) (q : Option ProfileNo) (r : Terminal) : (r.faded b q).link.state = .fading ∧
    (r.faded b q).ladder.stepUp = 0 ∧ (r.faded b q).ladder.current = r.ladder.current := by
  unfold Terminal.faded Terminal.fadeStepped
  cases b with
  | false => exact ⟨rfl, rfl, rfl⟩
  | true =>
    cases r.toFading.fadesTo q with
    | none => exact ⟨rfl, rfl, rfl⟩
    | some p => exact ⟨rfl, rfl, rfl⟩

/-- Entering FADING with no step-down due to it. -/
theorem Terminal.faded_idle {b : Bool} (h : ¬ b = true ∨ r.fadesTo q = none) : r.faded b q = r.toFading ∧ p.faded b r q = p := by
  unfold Terminal.faded PldCounters.faded Terminal.fadeStepped PldCounters.fadeStepped
  rcases h with hb | hn
  · rw [if_neg hb, if_neg hb]
    exact ⟨rfl, rfl⟩
  · rw [show r.toFading.fadesTo q = r.fadesTo q from rfl, hn]
    exact ⟨ite_self _, ite_self _⟩

/-- Entering FADING with a step-down to `x`. -/
theorem Terminal.faded_steps {x : ProfileNo} (h : r.fadesTo q = some x) : r.faded true q = r.toFading.pended x .stepDown ∧
    p.faded true r q = { p.pended r.ladder.pending with fadeStepDowns := (p.pended r.ladder.pending).fadeStepDowns + 1 } := by
  unfold Terminal.faded PldCounters.faded Terminal.fadeStepped PldCounters.fadeStepped
  rw [show r.toFading.fadesTo q = r.fadesTo q from rfl, h]
  exact ⟨rfl, rfl⟩

end

theorem Sector.fadeTarget_greatest {s : Sector} {r : Terminal} {p : ProfileNo}
    (h : (s.profile p).enabled = true ∧ r.cfg.floor ≤ p ∧ p < r.ladder.current)
    (hmax : ∀ q, (s.profile q).enabled = true ∧ r.cfg.floor ≤ q ∧ q < r.ladder.current → q ≤ p) : s.fadeTarget r = some p :=
  getLast?_of_greatest Sector.lowerProfiles_ascending (Sector.mem_lowerProfiles.2 h) fun q hq => hmax q (Sector.mem_lowerProfiles.1 hq)

theorem Sector.fadeTarget_none {s : Sector} {r : Terminal}
    (h : ∀ p, ¬ ((s.profile p).enabled = true ∧ r.cfg.floor ≤ p ∧ p < r.ladder.current)) : s.fadeTarget r = none := by
  unfold Sector.fadeTarget
  rw [List.eq_nil_iff_forall_not_mem.2 fun q hq => h q (Sector.mem_lowerProfiles.1 hq)]
  rfl

theorem Sector.usable_iff {s : Sector} {cfg : TermConfig} {p : ProfileNo} :
    s.usable cfg p = true ↔ (s.profile p).enabled = true ∧ cfg.floor ≤ p ∧ p ≤ cfg.ceiling := by
  unfold Sector.usable
  simp only [Bool.and_eq_true, decide_eq_true_eq, and_assoc]

/-- Settles O22: the records of the entries, then ADMITTING by a measurement and FADING by a miss. -/
theorem entryEffectsOfLinkStates : Obligations.EntryEffectsOfLinkStates := by
  refine ⟨fun r old lock => ?records, fun c u slot t n b f s => ?admitting, fun c u slot o t s => ?fading⟩
  case records =>
    refine ⟨fun h => r.toDark_outage (LinkState.startsOutage_iff.2 h),
      fun h => r.toDark_absent fun ho => h (LinkState.startsOutage_iff.1 ho), rfl, ?_, ?_, rfl, rfl⟩
    · unfold Terminal.toServing
      rw [HoldFields.startRelease_eq]
    · unfold Terminal.toFading
      rw [HoldFields.suspend_eq]
  case admitting =>
    intro k x own h hr hk hclaim hu hcell hst hforced hg ho hsearch hfine hpower hsecond now usable lent owes
    obtain ⟨v, hexec, hlink, hsector⟩ := exec_currentOutcome hr hu hcell hst hg ho
    obtain ⟨hcfg, -, hslots⟩ := Sector.car_consumed (x := s.sector) (c := c) (u := u) (slot := slot) own
    have hz := Sector.judged_turned (s.sector.modCar c (Carrier.consumed u slot)) own t
    rw [TrimOutcome.ofResult_trim rfl hk hclaim, Sector.currentOutcome_measured (by rw [hcfg]; exact hsearch)] at hsector
    obtain ⟨w, q, hw, ⟨-, pend, hpend, hend⟩ | ⟨hno, -⟩⟩ := hz.measurement hst rfl b.offset b.snr f
    case inr =>
      have hcfg' : ((s.sector.modCar c (Carrier.consumed u slot)).car own).judged.cfg = h.cfg := hcfg
      exact absurd ⟨by rw [hcfg']; exact CarrierConfig.withinWindows_iff.2 ⟨hfine, hpower⟩, hsecond⟩ hno
    rw [← hsector] at hend
    have hwcfg : w.cfg = x.cfg := hw.cfg
    have hwlink : w.link = x.link := hw.link
    have howed := congrArg OwedMarks.admission hw.owed
    replace howed : w.owed.admission = x.owed.admission := howed
    have hcur : w.ladder.current = now := hw.current
    have hkslots : ((s.sector.modCar c (Carrier.consumed u slot)).car own).judged.measured.slotUse = h.slotUse := hslots
    have hone (z : SlotNo) : (z ∈ w.cfg.homeSlots ∧
        ∃ m, ((s.sector.modCar c (Carrier.consumed u slot)).car own).judged.measured.slotUse z = .lent t m) ↔ lent z := by
      rw [hwcfg, hkslots, Bool.exists_bool, or_comm]
    have hlends := exists_congr hone
    have hready : w.readyOn t ((s.sector.modCar c (Carrier.consumed u slot)).car own).judged.measured ↔ owes := by
      unfold Terminal.readyOn Carrier.lends
      rw [hlends, howed, hwlink, hwcfg, not_exists]
    have hstays : (if s.sector.usable w.cfg w.ladder.current then w.ladder.current else w.cfg.reentry) =
        if usable then now else x.cfg.reentry := by
      rw [hcur, hwcfg]
      exact if_congr Sector.usable_iff rfl rfl
    have hmarks {j : Carrier} (hj : j = ((((s.sector.modCar c (Carrier.consumed u slot)).car own).judged.measured.converging t).marked t
        w.cfg.homeSlots)) (z : SlotNo) : (lent z → j.slotUse z = .lent t true) ∧ (¬ lent z → j.slotUse z = h.slotUse z) := by
      subst hj
      refine ⟨fun hl => (Carrier.slotUse_marked_lent ((hone z).2 hl).1 true).2 ⟨rfl, ((hone z).2 hl).2⟩, fun hl => ?_⟩
      rw [Carrier.slotUse_marked]
      split
      · next hz =>
        exact (SlotUse.mark_other fun m hm => hl ((hone z).1 ⟨hz, m, hm⟩)).trans (congrFun hkslots z)
      · exact congrFun hkslots z
    refine ⟨v, hexec, hlink, ?_, ?_⟩
    · rcases hend with ⟨hyes, hy⟩ | ⟨hno, hy⟩
      · rw [hy.term, hy.events]
        refine ⟨rfl, rfl, hpend.trans hlends, hstays, rfl, fun _ => ⟨rfl, ?_⟩, fun hn => absurd (hready.1 hyes) hn, rfl⟩
        rw [← hwlink, ← hwcfg]
        rfl
      · rw [hy.term, hy.events]
        refine ⟨rfl, rfl, hpend.trans hlends, hstays, rfl, fun hn => absurd (hready.2 hn) hno, fun _ => ⟨howed, ?_⟩, rfl⟩
        rw [← hwlink]
        rfl
    · exact hmarks (hend.elim (fun hy => hy.2.car) fun hy => hy.2.car)
  case fading =>
    intro k x hr hcell hslot hst hforced hgood lower down steps
    obtain ⟨a, hbegun, hmiss⟩ := (Sector.Turned.rfl' (s.sector.frameChecked c u) t x.cfg.carrier).beforeMiss o
    have hb : x.MissBegun (foreignTo t o) (x.foreignCounted (foreignTo t o)).reportBroken := x.missBegun (foreignTo t o)
    replace hbegun : (s.sector.frameChecked c u).Turned t x.cfg.carrier (x.foreignCounted (foreignTo t o)).reportBroken
      ((s.sector.frameChecked c u).car x.cfg.carrier) (s.sector.pld.reportBroken x) s.sector.events a := hbegun
    refine ⟨_, exec_slotOutcome_event hr (Sector.payloadOf_miss hslot hgood), State.event_only s _, ?_⟩
    rw [State.event_sector, Sector.slotOutcome_miss hcell hslot (.inl hst) hgood, hmiss]
    generalize (x.foreignCounted (foreignTo t o)).reportBroken = r at hb hbegun
    have hs := hbegun.lsvMiss_serving (by rw [hb.link]; exact hforced) (by rw [hb.link]; exact hst) (by rw [hb.cfg])
    rw [Sector.frameChecked_cfg] at hs
    have hpending := congrArg LadderFields.pending hb.ladder
    have hcurrent := congrArg LadderFields.current hb.ladder
    replace hpending : r.missedOnce.ladder.pending = x.ladder.pending := hpending
    replace hcurrent : r.missedOnce.ladder.current = x.ladder.current := hcurrent
    have hprofile : r.missedOnce.owed.profile = x.owed.profile := congrArg OwedMarks.profile hb.owed
    have hpld : (s.sector.pld.reportBroken x).fadeStepDowns = s.sector.pld.fadeStepDowns ∧
        (s.sector.pld.reportBroken x).pendingReplaced = s.sector.pld.pendingReplaced := by
      unfold PldCounters.reportBroken
      split <;> exact ⟨rfl, rfl⟩
    obtain ⟨hstate, hup, hcur⟩ := r.missedOnce.faded_kept (s.sector.car x.cfg.carrier).cfg.fadeStepDown
      ((s.sector.frameChecked c u).fadeTarget r)
    rw [hs.term, hs.pld]
    refine ⟨hstate, hup, hcur.trans hcurrent, fun hidle => ?_, fun p hsteps hdown hp hmax => ?_⟩
    · have hnone : ¬ (s.sector.car x.cfg.carrier).cfg.fadeStepDown = true ∨
          r.missedOnce.fadesTo ((s.sector.frameChecked c u).fadeTarget r) = none := by
        refine hidle.imp id fun hn => Terminal.fadesTo_none (hn.symm.imp (fun hlower => ?_) fun hd => ?_)
        · exact Sector.fadeTarget_none fun p hp => hlower p (by rw [hb.cfg, hb.ladder] at hp; exact hp)
        · rw [hpending]; exact hd
      obtain ⟨hrec, hq⟩ := Terminal.faded_idle (p := s.sector.pld.reportBroken x) hnone
      rw [hrec, hq]
      exact ⟨hpending, hprofile, hpld⟩
    · have htarget : (s.sector.frameChecked c u).fadeTarget r = some p :=
        Sector.fadeTarget_greatest (by rw [hb.cfg, hb.ladder]; exact hp) fun q hq => hmax q (by rw [hb.cfg, hb.ladder] at hq; exact hq)
      have hto : r.missedOnce.fadesTo ((s.sector.frameChecked c u).fadeTarget r) = some p :=
        (Terminal.fadesTo_some (by rw [hpending]; exact hdown)).trans htarget
      obtain ⟨hrec, hq⟩ := Terminal.faded_steps (p := s.sector.pld.reportBroken x) hto
      rw [show (s.sector.car x.cfg.carrier).cfg.fadeStepDown = true from hsteps, hrec, hq, hpending, PldCounters.pended_eq, hpld.1, hpld.2]
      refine ⟨rfl, rfl, rfl, ?_⟩
      cases x.ladder.pending <;> rfl

end Sys2Proof.Machine
end

section
/-! SUPPORT. Calls in offered slots (R53, R54, R62, R87): O43. -/

namespace Sys2Proof.Machine

/-- The carrier whose re-entry queue terminal `t` joined (R38, R91). -/
def Carrier.queued (t : TermNo) (cls : Fin 4) (p : ProfileNo) (k : Carrier) : Carrier :=
  { k with res := { k.res with
    queue := enqueue { terminal := t, cls := cls, lastProfile := p, stamp := k.res.nextOrder } k.res.queue
    nextOrder := k.res.nextOrder + 1 } }

theorem mem_enqueue_self (e : QueueEntry) (l : List QueueEntry) : e ∈ enqueue e l := by
  induction l with
  | nil => exact List.mem_cons_self
  | cons x l ih =>
    unfold enqueue
    split
    · exact List.mem_cons_self
    · exact List.mem_cons_of_mem x ih

/-- What an accepted call without the forced mark makes of a terminal in link state `x`: of its record `r`, its carrier `k` and the
event sets `e` it makes `y`, `j` and `d` (R52 to R54, R62, Table 3.4). -/
def Terminal.CallEffect (t : TermNo) (lock : Bool) (p : ProfileNo) (r y : Terminal) (k j : Carrier) (e d : EventSets) (x : LinkState) :
    Prop :=
  match x with
  | .dark => y.link = { r.link with state := .called, keptLock := lock, repeatCalls := 0 } ∧ y.ladder.current = r.cfg.reentry ∧
      y.owed.halt = false ∧ (∃ x ∈ j.res.queue, x.terminal = t ∧ x.cls = r.cfg.cls ∧ x.lastProfile = p) ∧
      d = { e with stateChange := insertNo t e.stateChange }
  | .called => y.link = { r.link with keptLock := lock, repeatCalls := min 255 (r.link.repeatCalls + 1) } ∧
      y.ctr.repeatCalls = r.ctr.repeatCalls + 1 ∧
      j.res.queue = k.res.queue.map (fun x => if x.terminal = t then { x with lastProfile := p } else x)
  | .guard => y.ctr.guardHits = r.ctr.guardHits + 1 ∧
      y.link = if k.cfg.guardRestart then { r.link with guardOn := true, guardCount := 0, guardActive := r.cfg.guardPeriod } else r.link
  | .held | .trimming | .admitting => y.link = r.link ∧ y.ctr.ignoredCalls = r.ctr.ignoredCalls + 1
  | .serving | .fading =>
      y.link.state = .called ∧ y.link.cause = .recall ∧ y.link.outage = 0 ∧ y.link.outageOn = true ∧ y.link.keptLock = lock

/-- What an accepted call makes of a terminal, with the forced mark and without. -/
structure Terminal.CallTaken (t : TermNo) (lock : Bool) (p : ProfileNo) (r y : Terminal) (k j : Carrier) (e d : EventSets) : Prop where
  calendar : j.calendar = k.calendar
  window : j.res.window = k.res.window
  resCtr : j.resCtr = k.resCtr
  accepted : y.ctr.callsAccepted = r.ctr.callsAccepted
  plain : r.link.forced = false → Terminal.CallEffect t lock p r y k j e d r.link.state
  forced : r.link.forced = true → y.link = r.link ∧ y.ctr.ignoredCalls = r.ctr.ignoredCalls + 1 ∧ j.res.queue = k.res.queue ∧
    y.ctr.suppressed = if r.link.state = .dark ∨ r.link.state = .serving then r.ctr.suppressed + 1 else r.ctr.suppressed

theorem Terminal.CallTaken.effect {t : TermNo} {lock : Bool} {p : ProfileNo} {r y : Terminal} {k j : Carrier} {e d : EventSets}
    (h : Terminal.CallTaken t lock p r y k j e d) {z : LinkState} (hf : r.link.forced = false) (hst : r.link.state = z) :
    Terminal.CallEffect t lock p r y k j e d z := hst ▸ h.plain hf

/-- The record with one call more ignored (R53). -/
def Terminal.callIgnored (r : Terminal) : Terminal := { r with ctr := { r.ctr with ignoredCalls := r.ctr.ignoredCalls + 1 } }

section
variable {s a : Sector} {t : TermNo} {c : CarrierNo} {r : Terminal} {k : Carrier} {p : PldCounters} {e : EventSets}
  (h : s.Turned t c r k p e a)
include h

theorem Sector.Turned.enterCalled (hc : r.cfg.carrier = c) (lock : Bool) (q : ProfileNo) :
    s.Turned t c (r.toCalled lock) (k.queued t r.cfg.cls q) p e (a.enterCalled t lock q) := by
  unfold Sector.enterCalled Sector.joinQueue
  dsimp only
  rw [h.term, hc]
  exact (h.modCar (Carrier.queued t r.cfg.cls q)).modTerm (Terminal.toCalled lock)

/-- Recall (R54). -/
theorem Sector.Turned.recall (hc : r.cfg.carrier = c) (hst : r.link.state = .serving ∨ r.link.state = .fading) (lock : Bool)
    (q : ProfileNo) : ∃ y j d, s.Turned t c y j p d (a.recall t lock q) ∧
      (j.calendar = k.calendar ∧ j.res.window = k.res.window ∧ j.resCtr = k.resCtr ∧ y.ctr = r.ctr) ∧
      y.link.state = .called ∧ y.link.cause = .recall ∧ y.link.outage = 0 ∧ y.link.outageOn = true ∧ y.link.keptLock = lock := by
  have hne : (a.term t).link.state ≠ .called := by
    rw [h.term]
    rcases hst with hst | hst <;> rw [hst] <;> decide
  obtain ⟨x, hleft, hx⟩ : ∃ x, s.Turned t c x k p e ((a.setCause t .recall).leave t .progress) ∧
      (x.cfg = r.cfg ∧ x.ctr = r.ctr ∧ x.link.cause = .recall) := by
    rcases hst with hst | hst
    · exact ⟨_, (h.setCause .recall).leave_idle .progress (.inr (.inr hst)), rfl, rfl, rfl⟩
    · exact ⟨_, (h.setCause .recall).leave_fading .progress hst, rfl, rfl, rfl⟩
  obtain ⟨hcfg, hctr, hcause⟩ := hx
  have hxc : x.cfg.carrier = c := hcfg ▸ hc
  have hstart : r.link.state.startsOutage = true := LinkState.startsOutage_iff.2 (hst.imp id .inl)
  have hdark := hleft.enterDark hxc r.link.state
  rw [Terminal.toDark_outage hstart] at hdark
  have hcalled := (hdark.enterCalled hxc lock q).moved (before := a) hne
  unfold Sector.recall
  dsimp only
  rw [h.term]
  have hframe := k.lentIf_frame (decide (x.cfg.lendDelay = 0)) t x.cfg.homeSlots
  have hcalendar := congrArg Carrier.calendar hframe
  have hwindow := congrArg (fun j => j.res.window) hframe
  have hres := congrArg Carrier.resCtr hframe
  exact ⟨_, _, _, hcalled, ⟨hcalendar, hwindow, hres, hctr⟩, rfl, hcause, rfl, rfl, rfl⟩

/-- An accepted call (R52, R53, Table 3.4). -/
theorem Sector.Turned.callAccepted (hc : r.cfg.carrier = c) (lock : Bool) (q : ProfileNo) :
    ∃ y j d, s.Turned t c y j p d (a.callAccepted c t lock q) ∧ Terminal.CallTaken t lock q r y k j e d := by
  have hignored := h.modTerm Terminal.callIgnored
  unfold Sector.callAccepted
  dsimp only
  rw [h.term, h.car]
  cases hf : r.link.forced with
  | true =>
    rw [if_pos rfl]
    by_cases hst : r.link.state = .dark ∨ r.link.state = .serving
    · rw [if_pos hst]
      exact ⟨_, _, _, hignored.suppress, ⟨rfl, rfl, rfl, rfl, fun hn => absurd (hf.symm.trans hn) (by decide),
        fun _ => ⟨rfl, rfl, rfl, (if_pos hst).symm⟩⟩⟩
    · rw [if_neg hst]
      exact ⟨_, _, _, hignored, ⟨rfl, rfl, rfl, rfl, fun hn => absurd (hf.symm.trans hn) (by decide),
        fun _ => ⟨rfl, rfl, rfl, (if_neg hst).symm⟩⟩⟩
  | false =>
    rw [if_neg Bool.false_ne_true]
    have hforced : ¬ r.link.forced = true := by rw [hf]; decide
    have hplain {y : Terminal} {j : Carrier} {d : EventSets} {b : Sector} {x : LinkState} (hx : r.link.state = x)
        (hb : s.Turned t c y j p d b) (hcal : j.calendar = k.calendar) (hw : j.res.window = k.res.window) (hr : j.resCtr = k.resCtr)
        (ha : y.ctr.callsAccepted = r.ctr.callsAccepted) (he : Terminal.CallEffect t lock q r y k j e d x) :
        ∃ y j d, s.Turned t c y j p d b ∧ Terminal.CallTaken t lock q r y k j e d :=
      ⟨y, j, d, hb, hcal, hw, hr, ha, fun _ => hx ▸ he, fun hn => absurd hn hforced⟩
    cases hst : r.link.state with
    | held | trimming | admitting => exact hplain hst hignored rfl rfl rfl rfl ⟨rfl, rfl⟩
    | dark =>
      have hcalled := ((h.leave_idle .progress (.inr (.inl hst))).enterCalled hc lock q).moved (before := a) (by
        rw [h.term, hst]; exact fun hn => nomatch hn)
      exact hplain hst hcalled rfl rfl rfl rfl ⟨rfl, rfl, rfl, ⟨_, mem_enqueue_self _ _, rfl, rfl, rfl⟩, rfl⟩
    | called =>
      have hagain := ((h.modTerm fun r => { r with ctr := { r.ctr with repeatCalls := r.ctr.repeatCalls + 1 } }).modTerm
        fun r => { r with link := { r.link with repeatCalls := min 255 (r.link.repeatCalls + 1), keptLock := lock } }).modCar
          fun k => { k with res := Scheduler.setLastProfile t q k.res }
      exact hplain hst hagain rfl rfl rfl rfl ⟨rfl, rfl, rfl⟩
    | serving =>
      obtain ⟨y, j, d, hy, ⟨hcal, hw, hr, hctr⟩, heffect⟩ := h.recall hc (.inl hst) lock q
      exact hplain hst hy hcal hw hr (congrArg TermCounters.callsAccepted hctr) heffect
    | fading =>
      obtain ⟨y, j, d, hy, ⟨hcal, hw, hr, hctr⟩, heffect⟩ := h.recall hc (.inr hst) lock q
      exact hplain hst hy hcal hw hr (congrArg TermCounters.callsAccepted hctr) heffect
    | guard =>
      have hhit := h.modTerm fun r => { r with ctr := { r.ctr with guardHits := r.ctr.guardHits + 1 } }
      cases hg : k.cfg.guardRestart with
      | true =>
        exact hplain hst (hhit.modTerm Terminal.restartGuard) rfl rfl rfl rfl ⟨rfl, by rw [hg]; rfl⟩
      | false => exact hplain hst hhit rfl rfl rfl rfl ⟨rfl, by rw [hg]; rfl⟩

end

theorem Sector.slotOutcome_call {x : Sector} {c : CarrierNo} {u : FrameNo} {slot : SlotNo} {b : Burst} {lock : Bool} {p : ProfileNo}
    (h : (x.car c).outcomeCell u slot = .offered) (hk : b.kind = .call lock p) :
    x.slotOutcome c u slot (.burst b) = (x.modCar c (Carrier.consumed u slot)).takeCall c b.claimed lock p := by
  rw [Sector.slotOutcome_offered h]
  unfold Sector.offeredOutcome
  dsimp only
  rw [hk]

/-- The carrier whose window took a call (R88). -/
def Carrier.callSeen (k : Carrier) : Carrier := { k with res := { k.res with window := pushWindow k.res.window .call } }

section
variable {s a : Sector} {t : TermNo} {c : CarrierNo} {r : Terminal} {k : Carrier} {p : PldCounters} {e : EventSets}
  (h : s.Turned t c r k p e a)
include h

theorem Sector.Turned.strayCall (hb : a.bound c t = false) (lock : Bool) (q : ProfileNo) :
    s.Turned t c r { k.callSeen with resCtr := { k.resCtr with strayCalls := k.resCtr.strayCalls + 1 } } p e
      (a.takeCall c t lock q) := by
  unfold Sector.takeCall
  dsimp only
  rw [hb, if_neg Bool.false_ne_true]
  exact (h.offerOutcome .call).modCar fun k => { k with resCtr := { k.resCtr with strayCalls := k.resCtr.strayCalls + 1 } }

theorem Sector.Turned.acceptedCall (hb : a.bound c t = true) (hc : r.cfg.carrier = c) (lock : Bool) (q : ProfileNo) :
    ∃ y j d, s.Turned t c y j p d (a.takeCall c t lock q) ∧
      Terminal.CallTaken t lock q { r with ctr := { r.ctr with callsAccepted := r.ctr.callsAccepted + 1 } } y
        { k.callSeen with resCtr := { k.resCtr with callsAccepted := k.resCtr.callsAccepted + 1 } } j e d := by
  unfold Sector.takeCall
  dsimp only
  rw [if_pos hb]
  exact (((h.offerOutcome .call).modCar fun k =>
    { k with resCtr := { k.resCtr with callsAccepted := k.resCtr.callsAccepted + 1 } }).modTerm
      fun r => { r with ctr := { r.ctr with callsAccepted := r.ctr.callsAccepted + 1 } }).callAccepted hc lock q

end

/-- Settles O43: the cell consumed, the window, then the call by the link state of a terminal bound to the carrier. -/
theorem callOutcomeByLinkState : Obligations.CallOutcomeByLinkState := by
  intro c u slot b lock p s hr hk hu hcell t x k
  have hfind : (s.sector.car c).outcomeCell u slot = .offered := (Carrier.outcomeCell_current hu).trans hcell
  have hconsumed := (Sector.Turned.rfl' s.sector t c).modCar (Carrier.consumed u slot)
  have hcells {j : Carrier} (hj : j.calendar = (k.consumed u slot).calendar) :
      j.cell u slot = .empty ∧ ∀ w z, w ≠ u ∨ z ≠ slot → j.cell w z = k.cell w z :=
    ⟨(Carrier.cell_congr hj u slot).trans (Carrier.cell_consumed k u slot),
      fun w z hn => (Carrier.cell_congr hj w z).trans (Carrier.cell_consumed_of_ne k hn)⟩
  refine ⟨_, exec_slotOutcome_event hr (Sector.payloadOf_offered hfind), State.event_only s _, ?_⟩
  rw [State.event_sector, Sector.slotOutcome_call hfind hk]
  cases hb : s.sector.bound c t with
  | false =>
    have hs := hconsumed.strayCall hb lock p
    have honly : OnlyRecord s.sector _ t := hs.only
    rw [hs.term, hs.car, hs.events]
    obtain ⟨hone, hother⟩ := hcells rfl
    exact ⟨honly, hs.onlyCar, hone, hother, rfl, fun _ => ⟨rfl, rfl, rfl, rfl⟩, fun hn => absurd hn (by decide)⟩
  | true =>
    have hc : x.cfg.carrier = c := Sector.carrier_of_mem_boundTo (Sector.mem_boundTo_iff.2 hb)
    obtain ⟨y, j, d, hy, hcall⟩ := hconsumed.acceptedCall hb hc lock p
    rw [hy.term, hy.car, hy.events]
    obtain ⟨hone, hother⟩ := hcells hcall.calendar
    refine ⟨hy.only, hy.onlyCar, hone, hother, hcall.window, fun hn => absurd hn (by decide),
      fun _ => ⟨hcall.resCtr, hcall.accepted, hcall.effect, hcall.effect, hcall.effect, fun hf hst => ?_,
        fun hf hst => ?_, hcall.forced⟩⟩
    · rcases hst with hst | hst | hst <;> exact hcall.effect hf hst
    · rcases hst with hst | hst <;> exact hcall.effect hf hst

end Sys2Proof.Machine
end

section
/-! SUPPORT. A group request being taken whose body is longer than the frame (no state a run reaches holds one): it goes on with
its group, while the same request under a TERMINAL selector is refused as a whole. -/

namespace Sys2Proof.Machine

/-- A HOLD under the SECTOR selector that tells of one byte of body and brings none. -/
def cutHold : Request := { source := 0, code := 11, kind := 3, number := 0, value := 0, bodyLength := 1, rest := [] }

/-- Reset, but with `cutHold` being taken and terminal 5 remaining. -/
def takingCutHold : State :=
  { State.reset with mgu := { State.reset.mgu with buffer := [cutHold], taking := some { remaining := [5] } } }

/-- `cutHold` as it would be under a TERMINAL selector for terminal 5. -/
def cutHoldAtFive : State :=
  { takingCutHold with mgu := { takingCutHold.mgu with taking := none, buffer := [{ cutHold with kind := 1, value := 5 }] } }

/-- Going on with the group answers WRONG-STATE, as terminal 5 is not configured. -/
theorem takingCutHold_answers {u : State} (h : exec .hold takingCutHold = .next u) :
    u.npMgmt.head?.map MgmtFrame.status = some .wrongState := by
  have hu : u = takingCutHold.serveGroup 11 (emptyPlan holdOne) linkAnswer := by
    cases h; rfl
  subst hu
  decide

/-- Under a TERMINAL selector the check of the length answers BAD-VALUE. -/
theorem cutHoldAtFive_answers {u : State} (h : exec .hold cutHoldAtFive = .next u) :
    (u.npMgmt.drop cutHoldAtFive.npMgmt.length).head?.map MgmtFrame.status = some .badValue := by
  have hu : u = cutHoldAtFive.serveGroup 11 (emptyPlan holdOne) linkAnswer := by
    cases h; rfl
  subst hu
  decide

/-- Refutes O30: on `takingCutHold` the application answers WRONG-STATE and the request under a TERMINAL selector BAD-VALUE. -/
theorem not_groupRequestIsTakenInShares : ¬ Obligations.GroupRequestIsTakenInShares := by
  intro h
  obtain ⟨u, results, waiting, hu, -, hfst, hsnd, -, -, -, -, -, -, -, hdone⟩ :=
    h.1 .hold 11 cutHold takingCutHold { remaining := [5] } (by decide) ⟨by decide, by decide, fun _ _ => rfl⟩
      (.inr ⟨rfl, rfl, rfl, .inr rfl⟩)
  obtain ⟨x, rfl⟩ : ∃ x, results = [(5, x)] := by
    obtain ⟨⟨t, x⟩, rfl⟩ := List.length_eq_one_iff.1 ((List.length_map ..).symm.trans (congrArg List.length hfst))
    obtain rfl : t = 5 := List.head_eq_of_cons_eq hfst
    exact ⟨x, rfl⟩
  obtain ⟨v, hv⟩ := exec_next .hold cutHoldAtFive
  have hx : x = .badValue := by
    have hmade := hsnd 0 5 rfl
    change some x = ((match exec .hold cutHoldAtFive with
      | .next u => u
      | .fault _ => cutHoldAtFive
      | .refused _ => cutHoldAtFive).npMgmt.drop cutHoldAtFive.npMgmt.length).head?.map MgmtFrame.status at hmade
    rw [hv] at hmade
    exact Option.some.inj (hmade.trans (cutHoldAtFive_answers hv))
  subst hx
  obtain ⟨-, hframes, -⟩ := hdone rfl
  have hanswer := takingCutHold_answers hu
  rw [hframes] at hanswer
  exact absurd (show some Status.badValue = some Status.wrongState from hanswer) (by decide)

end Sys2Proof.Machine
end

section
/-! SUPPORT. Link-state requests that are refused (R46, R51, R154, R170, R171): O23. -/

namespace Sys2Proof.Machine

theorem LinkState.ofCode_code (x : LinkState) : LinkState.ofCode x.code = some x := by cases x <;> rfl

theorem LinkState.ofCode_none {n : Nat} (h : 8 ≤ n) : LinkState.ofCode n = none := by
  obtain ⟨k, rfl⟩ := Nat.exists_eq_add_of_le' h
  rfl

theorem LinkState.ofCode_some {n : Nat} (h : n < 8) : ∃ x, LinkState.ofCode n = some x ∧ x.code = n := by
  revert n
  decide

/-- A body that is not one byte naming a state is refused under every selector (R46). -/
theorem forcePlan_refuse {r : Request} (h : r.body.length ≠ 1 ∨ ∃ b ∈ r.body, 8 ≤ b.toNat) (sel : Selector) :
    forcePlan r sel = .refuse (.plain .badValue) := by
  unfold forcePlan
  match hb : r.body with
  | [] => rfl
  | [b] =>
    rw [hb] at h
    rcases h with h | ⟨x, hx, hn⟩
    · exact absurd rfl h
    · dsimp only
      rw [← List.mem_singleton.1 hx, LinkState.ofCode_none hn]
  | _ :: _ :: _ => rfl

theorem forcePlan_of_state {r : Request} {b : Byte} {named : LinkState} (hb : r.body = [b])
    (hn : LinkState.ofCode b.toNat = some named) (sel : Selector) : forcePlan r sel = .apply (forceOne named) := by
  unfold forcePlan
  rw [hb]
  dsimp only
  rw [hn]

/-- A group row's request refused as a whole (R171). -/
theorem State.serveGroup_refuse {s : State} {r : Request} {code : Nat} {sel : Selector} {plan : Request → Selector → GroupPlan}
    {a : Reply} (answer : Request → State → TermNo → State × Status → Reply) (blank : Request → List Byte) (h : s.headIs r code)
    (hs : r.selector? = some sel) (hp : plan r sel = .refuse a) : s.serveGroup code plan answer blank = State.respond s s r a := by
  obtain ⟨rest, hb⟩ := State.headIs_buffer h
  obtain ⟨-, hc, hl, hn⟩ := h
  simp only [State.serveGroup, hb, hc, hn, not_lt.2 hl, hs, State.beginGroup, hp, if_true, if_false]

theorem Request.selector?_of {r : Request} (h : (∃ t, r.selectsTerminal t) ∨ (∃ c, r.selectsCarrier c) ∨ r.selectsSector) :
    ∃ sel, r.selector? = some sel := by
  rcases h with ⟨t, h⟩ | ⟨c, h⟩ | h
  · exact ⟨_, Request.selector?_terminal h⟩
  · exact ⟨_, Request.selector?_carrier h⟩
  · exact ⟨_, Request.selector?_sector h⟩

theorem applyLink_refused {refuses : Terminal → Bool} (act : Sector → TermNo → Sector) {s : State} {t : TermNo}
    (h : ¬ ((s.sector.term t).cfg.configured = true ∧ refuses (s.sector.term t) = false)) :
    applyLink refuses act s t = (s, .wrongState) := if_neg h

/-- A link-state request refused at one terminal: nothing changes but the answer (R46). -/
theorem State.serveGroup_linkRefused {s : State} {r : Request} {code : Nat} {t : TermNo} {plan : Request → Selector → GroupPlan}
    {answer : Request → State → TermNo → State × Status → Reply} {refuses : Terminal → Bool}
    {act : Sector → TermNo → Sector} (h : s.headIs r code) (ht : r.selectsTerminal t)
    (hp : plan r (.terminal t) = .apply (applyLink refuses act))
    (hr : ¬ ((s.sector.term t).cfg.configured = true ∧ refuses (s.sector.term t) = false)) {body : List Byte}
    (ha : answer r s t (s, .wrongState) = { status := .wrongState, body := body }) :
    ∃ u, Host.Outcome.next (s.serveGroup code plan answer) = (.next u : Host.Outcome State Fault Refusal) ∧
      Answered s u r .wrongState body ∧ OnlyAnswered s u := by
  refine ⟨_, rfl, ?_⟩
  rw [State.serveGroup_terminal plan answer noField h ht hp, applyLink_refused act hr, ha]
  exact ⟨State.respond_answered s s r _ rfl rfl rfl, State.respond_onlyAnswered s r _⟩

theorem Terminal.linkBody_eq (r : Terminal) : r.linkBody =
    [BitVec.ofNat 8 ([LinkState.held, .dark, .called, .trimming, .admitting, .serving, .fading, .guard].idxOf r.link.state),
      if r.link.forced then 1 else 0] := by
  unfold Terminal.linkBody
  cases r.link.state <;> cases r.link.forced <;> rfl

/-- Settles O23: a body in no form refused as a whole, then the refusals of one terminal. -/
theorem linkRequestsRefused : Obligations.LinkRequestsRefused := by
  refine ⟨fun r s hsel hbody hh => ?_, fun r t s ht => ?_⟩
  · obtain ⟨sel, hs⟩ := Request.selector?_of hsel
    refine ⟨_, rfl, ?_⟩
    rw [State.serveGroup_refuse linkAnswer noField hh hs (forcePlan_refuse hbody sel)]
    exact ⟨State.respond_answered s s r _ rfl rfl rfl, State.respond_onlyAnswered s r _⟩
  · intro x states stands
    have hlink : linkAnswer r s t (s, .wrongState) = { status := .wrongState, body := stands } :=
      congrArg (Reply.mk Status.wrongState) x.linkBody_eq
    have hflush : flushAnswer r s t (s, .wrongState) = { status := .wrongState, body := [0, 0] } :=
      congrArg (Reply.mk Status.wrongState) (show be16 0 = [0, 0] by decide)
    have hnot {refuses : Terminal → Bool} (hc : x.cfg.configured = false) :
        ¬ ((s.sector.term t).cfg.configured = true ∧ refuses (s.sector.term t) = false) :=
      fun h => Bool.false_ne_true (hc.symm.trans h.1)
    have hplan {one : Application} (hb : r.body = []) : emptyPlan one r (.terminal t) = .apply one := emptyPlan_of_empty hb _
    refine ⟨fun hc => ⟨fun hb => ⟨fun hh => ?release, fun hh => ?hold, fun hh => ?permit, fun hh => ?flush⟩,
      fun b hlt hb hh => ?force⟩, fun hheld hb hh => ?permitHeld⟩
    case release => exact State.serveGroup_linkRefused hh ht (hplan hb) (hnot hc) hlink
    case hold => exact State.serveGroup_linkRefused hh ht (hplan hb) (hnot hc) hlink
    case permit => exact State.serveGroup_linkRefused hh ht (hplan hb) (hnot hc) hlink
    case flush => exact State.serveGroup_linkRefused hh ht (hplan hb) (hnot hc) hflush
    case force =>
      obtain ⟨named, hn, -⟩ := LinkState.ofCode_some hlt
      exact State.serveGroup_linkRefused hh ht (forcePlan_of_state hb hn _) (hnot (refuses := fun _ => false) hc) hlink
    case permitHeld =>
      refine State.serveGroup_linkRefused hh ht (hplan hb) (fun h => ?_) hlink
      exact absurd h.2 (by rw [show (s.sector.term t).link.state = .held from hheld]; decide)

end Sys2Proof.Machine
end

section
/-! SUPPORT. A calendar with two rows of one frame (no state a run reaches has one): withdrawing a grant from the first removes the
cell in the second as well, whose grant is then not refunded. -/

namespace Sys2Proof.Machine

/-- The frame and slot that terminals 5 and 6 both have a grant for. -/
def sharedGrant : GrantRef := { frame := 9, slot := 3 }

/-- Terminal 5, TRIMMING, with a GRANT owed in its home slot 3. -/
def granteeAtHome : Terminal :=
  { cfg := { configured := true, homeSlots := [3] }
    link := { state := .trimming }
    range := { grant := some sharedGrant }
    owed := { grant := some sharedGrant } }

/-- Terminal 6, TRIMMING, with its GRANT for the same frame and slot sent. -/
def granteeAway : Terminal := { cfg := { configured := true }, link := { state := .trimming }, range := { grant := some sharedGrant } }

/-- Carrier 0 with two rows of frame 9, in which slot 3 is granted to terminal 5 and to terminal 6. -/
def twoRows : Carrier :=
  { calendar := [{ frame := 9, filled := true, cells := [(3, .granted 5 1)] },
                 { frame := 9, filled := true, cells := [(3, .granted 6 1)] }] }

/-- The sector with those terminals and that carrier. -/
def twoRowsSector : Sector :=
  { State.reset.sector with terms := [(5, granteeAtHome), (6, granteeAway)], cars := State.reset.sector.cars.set 0 twoRows }

/-- A HOLD, or with a body a FORCE-STATE, of terminal 5. -/
def requestAtFive (code : Byte) (body : List Byte) : Request :=
  { source := 0, code := code, kind := 1, number := 0, value := 5, bodyLength := body.length, rest := body }

/-- Reset with that sector and that request. -/
def twoRowsState (code : Byte) (body : List Byte) : State :=
  { State.reset with sector := twoRowsSector, mgu := { State.reset.mgu with buffer := [requestAtFive code body] } }

theorem twoRows_grantOn : twoRowsSector.grantOn 0 [3] 6 :=
  ⟨sharedGrant, by decide, by decide, { frame := 9, filled := true, cells := [(3, .granted 6 1)] }, by decide, by decide, 1, by decide⟩

theorem hold_twoRows_keeps : ((twoRowsSector.hold 5).term 6).range.grant = some sharedGrant := by decide

theorem force_twoRows_keeps : ((twoRowsSector.force 5 .held).term 6).range.grant = some sharedGrant := by decide

/-- A grant of terminal 6 that stays is not refunded. -/
theorem not_refundedOn_twoRows {u : Sector} (h : (u.term 6).range.grant = some sharedGrant) :
    ¬ RefundedOn twoRowsSector u 0 [3] 6 := by
  intro hr
  have hgrant := congrArg RangeFields.grant (hr.1 twoRows_grantOn).2
  rw [h] at hgrant
  cases hgrant

/-- Refutes O25: on `twoRowsState` a HOLD of terminal 5 does not refund the grant of terminal 6. -/
theorem not_holdTakesTerminalToHeld : ¬ Obligations.HoldTakesTerminalToHeld := by
  intro h
  obtain ⟨u, hu, -, -, -, hleft⟩ := h (requestAtFive 11 []) 5 (twoRowsState 11 [])
    ⟨rfl, by decide, by decide, rfl⟩ ⟨rfl, rfl⟩ rfl rfl
  obtain ⟨-, -, hsector⟩ := State.serveGroup_link (s := twoRowsState 11 []) (r := requestAtFive 11 []) (code := 11) (t := 5)
    (one := holdOne) (answer := linkAnswer) rfl ⟨rfl, by decide, by decide, rfl⟩ ⟨rfl, rfl⟩ (emptyPlan_of_empty rfl _) rfl rfl
  have hu' : u = (twoRowsState 11 []).serveGroup 11 (emptyPlan holdOne) linkAnswer := by
    cases hu; rfl
  subst hu'
  obtain ⟨-, -, -, -, -, -, -, -, -, -, -, -, -, -, -, -, -, -, -, -, -, -, hothers⟩ := hleft (by decide)
  obtain ⟨-, -, -, -, -, -, hrefunded⟩ := hothers 6 (by decide)
  rw [hsector] at hrefunded
  exact not_refundedOn_twoRows hold_twoRows_keeps hrefunded

/-- Refutes O26: on `twoRowsState` a FORCE-STATE of terminal 5 to HELD does not refund the grant of terminal 6. -/
theorem not_forceStateSetsTargetState : ¬ Obligations.ForceStateSetsTargetState := by
  intro h
  obtain ⟨u, hu, -, -, ⟨-, -, -, -, -, hleft⟩, -⟩ := h (requestAtFive 12 [0]) 5 0 (twoRowsState 12 [0])
    ⟨rfl, by decide, by decide, rfl⟩ ⟨rfl, rfl⟩ rfl (by decide) rfl
  obtain ⟨-, -, hsector⟩ := State.serveGroup_link (s := twoRowsState 12 [0]) (r := requestAtFive 12 [0]) (code := 12) (t := 5)
    (one := forceOne .held) (answer := linkAnswer) rfl ⟨rfl, by decide, by decide, rfl⟩ ⟨rfl, rfl⟩
    (forcePlan_of_state (named := .held) rfl rfl _) rfl rfl
  have hu' : u = (twoRowsState 12 [0]).serveGroup 12 forcePlan linkAnswer := by
    cases hu; rfl
  subst hu'
  obtain ⟨-, -, -, -, -, -, -, -, htaken, -⟩ := hleft (by decide)
  obtain ⟨-, hothers⟩ := htaken (.inr rfl)
  have hrefunded := hothers 6 (by decide)
  rw [hsector] at hrefunded
  exact not_refundedOn_twoRows force_twoRows_keeps hrefunded

end Sys2Proof.Machine
end

section
/-! SUPPORT. What an accepted WRITE-TERMINAL does besides the configuration (R19 to R27): O16. -/

namespace Sys2Proof.Machine

/-! ### What it leaves -/

/-- From `s` to `a` only terminal `t`'s record, the pools, and slots and schedules of carriers may differ. -/
structure Sector.Rewritten (t : TermNo) (s a : Sector) : Prop where
  only : OnlyRecord s a t
  cars : ∀ c, (a.car c).cfg = (s.car c).cfg ∧ (a.car c).state = (s.car c).state ∧ (a.car c).calendar = (s.car c).calendar
  profiles : a.profiles = s.profiles
  handed : a.mlOut = s.mlOut
  events : a.events = s.events

section
variable {t : TermNo} {s a b : Sector}

theorem Sector.Rewritten.rfl' (t : TermNo) (s : Sector) : Sector.Rewritten t s s :=
  ⟨fun _ _ => rfl, fun _ => ⟨rfl, rfl, rfl⟩, rfl, rfl, rfl⟩

theorem Sector.Rewritten.trans (h : Sector.Rewritten t s a) (g : Sector.Rewritten t a b) : Sector.Rewritten t s b where
  only v hv := (g.only v hv).trans (h.only v hv)
  cars c := by
    obtain ⟨hc, hs, hr⟩ := h.cars c
    obtain ⟨gc, gs, gr⟩ := g.cars c
    exact ⟨gc.trans hc, gs.trans hs, gr.trans hr⟩
  profiles := g.profiles.trans h.profiles
  handed := g.handed.trans h.handed
  events := g.events.trans h.events

theorem Sector.Rewritten.modTerm (h : Sector.Rewritten t s a) (f : Terminal → Terminal) : Sector.Rewritten t s (a.modTerm t f) :=
  h.trans ⟨Sector.onlyRecord_modTerm a t f, fun _ => ⟨rfl, rfl, rfl⟩, rfl, rfl, rfl⟩

theorem Sector.Rewritten.modCar (h : Sector.Rewritten t s a) (c : CarrierNo) {f : Carrier → Carrier}
    (hf : (f (a.car c)).cfg = (a.car c).cfg ∧ (f (a.car c)).state = (a.car c).state ∧ (f (a.car c)).calendar = (a.car c).calendar) :
    Sector.Rewritten t s (a.modCar c f) := by
  refine h.trans ⟨fun _ _ => rfl, fun d => ?_, rfl, rfl, rfl⟩
  rw [Sector.car_modCar]
  split
  · next hd => subst hd; exact hf
  · exact ⟨rfl, rfl, rfl⟩

theorem Carrier.foldl_setSlot_standing (f : Carrier → SlotNo → SlotUse) (l : List SlotNo) (k : Carrier) :
    { l.foldl (fun x slot => x.setSlot slot (f x slot)) k with slots := [] } = { k with slots := [] } := by
  induction l generalizing k with
  | nil => rfl
  | cons x l ih => exact (ih _).trans rfl

theorem moveSlots_rewritten (t : TermNo) (old new : TermConfig) (s : Sector) (c : CarrierNo) :
    Sector.Rewritten t s (moveSlots t old new s c) := by
  unfold moveSlots
  dsimp only
  generalize (old.slotsOn c).filter (fun x => !(new.slotsOn c).contains x) = out
  generalize (new.slotsOn c).filter (fun x => !(old.slotsOn c).contains x) = into
  have hframe := (Carrier.foldl_setSlot_standing (fun _ _ => SlotUse.traffic t) into ((s.car c).releaseSlots out)).trans
    (Carrier.foldl_setSlot_standing (fun x slot => x.cfg.baseKind slot) out (s.car c))
  have hcfg := congrArg Carrier.cfg hframe
  have hstate := congrArg Carrier.state hframe
  have hcalendar := congrArg Carrier.calendar hframe
  exact (Sector.Rewritten.rfl' t s).modCar c ⟨hcfg, hstate, hcalendar⟩

theorem foldl_moveSlots_rewritten (t : TermNo) (old new : TermConfig) (l : List CarrierNo) (s : Sector) :
    Sector.Rewritten t s (l.foldl (moveSlots t old new) s) := by
  induction l generalizing s with
  | nil => exact .rfl' t s
  | cons c l ih => exact (moveSlots_rewritten t old new s c).trans (ih _)

theorem Sector.Rewritten.examine (h : Sector.Rewritten t s a) : Sector.Rewritten t s (a.examineAdmission t) := by
  by_cases hd : a.admits t
  · rw [Sector.examineAdmission_admits hd]
    exact h.modTerm Terminal.owingAdmit
  · rw [Sector.examineAdmission_idle hd]
    exact h

theorem Sector.Stored.rewritten {r : Terminal} {k : HfsCounters} {d n : Nat} (h : s.Stored t r k d n s.events a) :
    Sector.Rewritten t s a :=
  ⟨h.only, fun c => by rw [Sector.car, h.cars]; exact ⟨rfl, rfl, rfl⟩, h.profiles, h.handed, h.events⟩

end

theorem Terminal.configure_ctr (es : List FieldEntry) (new : TermConfig) (r : Terminal) : (r.configure es new).ctr = r.ctr := by
  unfold Terminal.configure Terminal.rebound
  split <;> rfl

/-- The record that an accepted write makes of `r`, but for the examination of R59: configured anew it is fresh (R24, R25). -/
def Terminal.written (es : List FieldEntry) (new : TermConfig) (r : Terminal) : Terminal :=
  if r.cfg.configured = new.configured then r.configure es new else (r.configure es new).fresh

/-- The steps of an accepted write: the record written, then its slots moved, its entry placed, its conditions examined. -/
theorem Sector.writeTerminal_steps (s : Sector) (t : TermNo) (es : List FieldEntry) (new : TermConfig) :
    ∃ w, Sector.Rewritten t s w ∧ w.cars = s.cars ∧ w.freeDescriptors = s.freeDescriptors +
        (if (s.term t).cfg.configured = new.configured then 0 else (s.term t).hold.queue.length) ∧
      w.term t = (s.term t).written es new ∧
      s.writeTerminal t es new = (
        let moved := allCarriers.foldl (moveSlots t (s.term t).cfg new) w
        let placed := if (moved.term t).link.state = .called then moved.modRes new.carrier (Scheduler.reclass t new.cls) else moved
        if (s.term t).cfg.autoAdmit = false ∧ new.autoAdmit = true then placed.examineAdmission t else placed) := by
  have hset := (Sector.Rewritten.rfl' t s).modTerm (Terminal.configure es new)
  have hterm : (s.modTerm t (Terminal.configure es new)).term t = (s.term t).configure es new := by
    rw [Sector.term_modTerm, if_pos rfl]
  unfold Terminal.written
  by_cases hc : (s.term t).cfg.configured = new.configured
  · refine ⟨_, hset, rfl, by rw [if_pos hc]; rfl, by rw [if_pos hc, hterm], ?_⟩
    unfold Sector.writeTerminal
    dsimp only
    rw [if_pos hc]
  · have hempty := (Sector.Stored.rfl' (s.modTerm t (Terminal.configure es new)) t).emptyQueue
    refine ⟨_, (hset.trans hempty.rewritten).modTerm Terminal.fresh, hempty.cars, ?_, ?_, ?_⟩
    · rw [if_neg hc]
      refine hempty.descriptors.trans ?_
      rw [hterm, Terminal.configure_hold]
      rfl
    · rw [if_neg hc, Sector.term_modTerm, if_pos rfl, hempty.term, hterm]
      rfl
    · unfold Sector.writeTerminal
      dsimp only
      rw [if_neg hc]
      rfl

theorem Sector.writeTerminal_spec (s : Sector) (t : TermNo) (es : List FieldEntry) (new : TermConfig) :
    Sector.Rewritten t s (s.writeTerminal t es new) ∧ ((s.writeTerminal t es new).term t = (s.term t).written es new ∨
      (s.writeTerminal t es new).term t = ((s.term t).written es new).owingAdmit) := by
  obtain ⟨w, hw, -, -, hwt, hwrite⟩ := s.writeTerminal_steps t es new
  rw [hwrite]
  have hmoved := hw.trans (foldl_moveSlots_rewritten t (s.term t).cfg new allCarriers w)
  have hterm := (foldl_moveSlots_term t t (s.term t).cfg new allCarriers w).trans hwt
  generalize allCarriers.foldl (moveSlots t (s.term t).cfg new) w = m at hmoved hterm
  obtain ⟨hplaced, hpt⟩ : Sector.Rewritten t s (if (m.term t).link.state = .called then
        m.modRes new.carrier (Scheduler.reclass t new.cls) else m) ∧
      (if (m.term t).link.state = .called then m.modRes new.carrier (Scheduler.reclass t new.cls) else m).term t =
        (s.term t).written es new := by
    split
    · exact ⟨hmoved.modCar new.carrier ⟨rfl, rfl, rfl⟩, hterm⟩
    · exact ⟨hmoved, hterm⟩
  dsimp only
  generalize (if (m.term t).link.state = .called then m.modRes new.carrier (Scheduler.reclass t new.cls) else m) = d at hplaced hpt
  split
  · refine ⟨hplaced.examine, ?_⟩
    by_cases hd : d.admits t
    · rw [Sector.examineAdmission_admits hd, Sector.term_modTerm, if_pos rfl, hpt]
      exact .inr rfl
    · rw [Sector.examineAdmission_idle hd]
      exact .inl hpt
  · exact ⟨hplaced, .inl hpt⟩

theorem Terminal.configure_kept (es : List FieldEntry) (new : TermConfig) (r : Terminal) :
    (r.configure es new).link = r.link.activeCopies es new ∧ (r.configure es new).range = r.range ∧
      (r.configure es new).hold = r.hold ∧ (r.configure es new).cfg = new := by
  unfold Terminal.configure Terminal.rebound
  split <;> exact ⟨rfl, rfl, rfl, rfl⟩

theorem Terminal.written_facts (es : List FieldEntry) (new : TermConfig) (r : Terminal) :
    (r.written es new).cfg = new ∧ (r.written es new).ctr = r.ctr := by
  unfold Terminal.written
  split
  · exact ⟨(r.configure_kept es new).2.2.2, r.configure_ctr es new⟩
  · exact ⟨(r.configure_kept es new).2.2.2, r.configure_ctr es new⟩

/-- The record that an accepted write leaves, examined or not (R18, R27, R59). -/
theorem Terminal.written_rest {es : List FieldEntry} {new : TermConfig} {x y : Terminal}
    (h : y = x.written es new ∨ y = (x.written es new).owingAdmit) : y.cfg = new ∧ y.ctr = x.ctr ∧
      (new.configured = x.cfg.configured →
        y.hold = x.hold ∧ y.range = x.range ∧ ∃ b, y.link = { x.link.activeCopies es new with permit := b }) := by
  obtain ⟨hcfg, hctr⟩ := x.written_facts es new
  have hsame (hc : new.configured = x.cfg.configured) : x.written es new = x.configure es new := if_pos hc.symm
  obtain ⟨hlink, hrange, hhold, -⟩ := x.configure_kept es new
  rcases h with rfl | rfl
  · refine ⟨hcfg, hctr, fun hc => ?_⟩
    rw [hsame hc, hhold, hrange, hlink]
    exact ⟨rfl, rfl, _, rfl⟩
  · refine ⟨hcfg, hctr, fun hc => ?_⟩
    rw [hsame hc]
    refine ⟨hhold, hrange, (x.configure es new).owingAdmit.link.permit, ?_⟩
    exact congrArg (fun l => { l with permit := (x.configure es new).owingAdmit.link.permit : LinkFields }) hlink

/-- An active copy after a write: the setting, where the set names it and its timer or compare is not running (R27). -/
theorem activeCopy_iff (es : List FieldEntry) (field : Nat) (running : Bool) (was setting : Nat) :
    if (∃ e ∈ es, e.code = field) ∧ running = false then (if names es field && !running then setting else was) = setting
    else (if names es field && !running then setting else was) = was := by
  have hiff : (names es field && !running) = true ↔ (∃ e ∈ es, e.code = field) ∧ running = false := by
    rw [Bool.and_eq_true, names_iff, Bool.not_eq_true']
  split
  · next h => exact if_pos (hiff.2 h)
  · next h => exact if_neg fun hn => h (hiff.1 hn)

theorem writePlan_none {r : Request} (h : fieldSet termWidth r.body = none) (sel : Selector) :
    writePlan r sel = .refuse { status := .badValue, body := noTermField r } := by
  unfold writePlan
  rw [h]

theorem groupFields_iff {es : List FieldEntry} : groupFields es = true ↔ ∀ e ∈ es, 9 ≤ e.code ∧ e.code ≤ 19 := by
  unfold groupFields isGroupField
  simp only [List.all_eq_true, Bool.and_eq_true, decide_eq_true_eq]

theorem Request.selector?_group {r : Request} (h : (∃ c, r.selectsCarrier c) ∨ r.selectsSector) :
    ∃ sel, r.selector? = some sel ∧ (∀ t, sel ≠ .terminal t) ∧ r.kind ≠ 1 := by
  rcases h with ⟨c, h⟩ | h
  · refine ⟨.carrier c, Request.selector?_carrier h, fun t => Selector.noConfusion, ?_⟩
    rw [h.1]
    decide
  · refine ⟨.sector, Request.selector?_sector h, fun t => Selector.noConfusion, ?_⟩
    rw [show r.kind = 3 from h]
    decide

/-- A WRITE-TERMINAL refused as a whole changes nothing but the answer (R19, R171). -/
theorem exec_writeTerminal_refuse {s : State} {r : Request} {sel : Selector} {x : Status} {body : List Byte} (h : s.headIs r 2)
    (hs : r.selector? = some sel) (hp : writePlan r sel = .refuse { status := x, body := body }) :
    ∃ u, exec .writeTerminal s = .next u ∧ Answered s u r x body ∧ OnlyAnswered s u := by
  refine ⟨_, rfl, ?_⟩
  rw [State.serveGroup_refuse writeAnswer noTermField h hs hp]
  exact ⟨State.respond_answered s s r _ rfl rfl rfl, State.respond_onlyAnswered s r _⟩

/-- Settles O16: the record that an accepted write makes, and the refusals. -/
theorem writeTerminalTakesFields : Obligations.WriteTerminalTakesFields := by
  refine ⟨fun r t es s h ht he hd => ?accepted, fun r s h => ⟨fun t ht he => ?form, fun hg he => ?groupForm,
    fun t es ht he hn => ?refused, fun es hg he hcode => ?groupField⟩⟩
  case accepted =>
    have hstatus := (writeOne_status es s t).trans hd
    have hans := (writeOne_only es s t).answered r (writeAnswer r s t (writeOne es s t))
    have hanswer : writeAnswer r s t (writeOne es s t) = { status := .done, body := [] } := by
      unfold writeAnswer
      rw [hstatus]
      rfl
    refine ⟨_, exec_writeTerminal_terminal h ht he, by rw [hanswer] at hans ⊢; exact hans,
      (writeOne_only es s t).onlyLinkAnswered h.2.2.2 r _, ?_⟩
    rw [State.respond_sector, writeOne_sector hd]
    obtain ⟨hw, hterm⟩ := s.sector.writeTerminal_spec t es ((s.sector.term t).cfg.withFields es)
    generalize (s.sector.term t).cfg.withFields es = new at hw hterm
    generalize s.sector.writeTerminal t es new = a at hw hterm
    obtain ⟨hcfg, hctr, hsame⟩ := Terminal.written_rest hterm
    refine ⟨hcfg, hw.only, hw.cars, hw.profiles, hw.handed, hw.events, fun hc => ?_, hctr⟩
    rw [hcfg] at hc
    obtain ⟨hhold, hrange, b, hlink⟩ := hsame hc
    rw [hcfg, hlink]
    exact ⟨hhold, hrange, rfl, activeCopy_iff es 15 _ _ _, activeCopy_iff es 17 _ _ _, activeCopy_iff es 18 _ _ _,
      activeCopy_iff es 19 _ _ _, rfl, rfl, rfl, rfl, rfl, rfl⟩
  case form =>
    refine exec_writeTerminal_refuse h (Request.selector?_terminal ht) ?_
    rw [writePlan_none he, noTermField, if_pos ht.1]
    rfl
  case groupForm =>
    obtain ⟨sel, hs, -, hk⟩ := Request.selector?_group hg
    refine exec_writeTerminal_refuse h hs ?_
    rw [writePlan_none he, noTermField, if_neg hk]
  case refused =>
    have hans := (writeOne_only es s t).answered r (writeAnswer r s t (writeOne es s t))
    have hstatus := writeOne_status es s t
    have hanswer : writeAnswer r s t (writeOne es s t) =
        ⟨(s.sector.writeCheck t es).1, [BitVec.ofNat 8 (s.sector.writeCheck t es).2]⟩ := by
      unfold writeAnswer
      rw [hstatus, he]
      dsimp only
      rw [if_neg hn]
      rfl
    refine ⟨_, _, exec_writeTerminal_terminal h ht he, by rw [hanswer] at hans ⊢; exact hans, ?_⟩
    rw [writeOne_refused hn]
    exact State.respond_onlyAnswered s r _
  case groupField =>
    obtain ⟨sel, hs, hnot, -⟩ := Request.selector?_group hg
    have hfields : ¬ groupFields es = true := fun hall => by
      obtain ⟨e, hmem, hne⟩ := hcode
      exact hne (groupFields_iff.1 hall e hmem)
    refine exec_writeTerminal_refuse h hs ?_
    unfold writePlan
    rw [he]
    cases sel with
    | terminal t => exact absurd rfl (hnot t)
    | carrier c => exact if_neg hfields
    | sector => exact if_neg hfields

end Sys2Proof.Machine
end

section
/-! SUPPORT. Group requests without a pause (R171): O29. -/

namespace Sys2Proof.Machine

/-! ### What one application does to the link side -/

/-- An application whose change of the link side is `act` and whose status is `status`, both by the link side alone. -/
structure Application.Acts (one : Application) (act : Sector → TermNo → Sector) (status : Sector → TermNo → Status) : Prop where
  quiet : one.quiet
  sector : ∀ s t, (one s t).1.sector = act s.sector t
  status : ∀ s t, (one s t).2 = status s.sector t

/-- The change of a link-state request, none where it is refused (R46). -/
def linkAct (refuses : Terminal → Bool) (act : Sector → TermNo → Sector) (s : Sector) (t : TermNo) : Sector :=
  if (s.term t).cfg.configured = true ∧ refuses (s.term t) = false then act s t else s

/-- The status of a link-state request (R46). -/
def linkStatus (refuses : Terminal → Bool) (s : Sector) (t : TermNo) : Status :=
  if (s.term t).cfg.configured = true ∧ refuses (s.term t) = false then .done else .wrongState

theorem applyLink_acts (refuses : Terminal → Bool) (act : Sector → TermNo → Sector) :
    (applyLink refuses act).Acts (linkAct refuses act) (linkStatus refuses) where
  quiet := applyLink_quiet refuses act
  sector s t := applyLink_sector refuses act s t
  status s t := by
    unfold applyLink linkStatus
    dsimp only
    split <;> rfl

/-- The change of a WRITE-TERMINAL at one record, none where it is refused (R19). -/
def writeAct (es : List FieldEntry) (s : Sector) (t : TermNo) : Sector :=
  if (s.writeCheck t es).1 = .done then s.writeTerminal t es ((s.term t).cfg.withFields es) else s

theorem writeOne_acts (es : List FieldEntry) : (writeOne es).Acts (writeAct es) fun s t => (s.writeCheck t es).1 where
  quiet := writeOne_quiet es
  sector s t := by
    unfold writeAct
    split
    · next h => exact writeOne_sector h
    · next h => rw [writeOne_refused h]
  status := writeOne_status es

theorem applyEach_results {one : Application} {act : Sector → TermNo → Sector} {status : Sector → TermNo → Status}
    (h : one.Acts act status) (l : List TermNo) (s : State) {n : Nat} {t : TermNo} (hn : l[n]? = some t) :
    (applyEach one l s).2[n]? = some (t, status ((l.take n).foldl act s.sector) t) := by
  induction l generalizing s n with
  | nil => cases hn
  | cons v l ih =>
    cases n with
    | zero =>
      obtain rfl : v = t := Option.some.inj hn
      exact congrArg (fun x => some (v, x)) (h.status s v)
    | succ n =>
      have hrest := ih (one s v).1 (n := n) hn
      rw [h.sector] at hrest
      exact hrest

/-! ### A group row and its request -/

/-- The row `i` of code `code`, whose request with the body of `r` is applied as `one`. -/
structure GroupRow (i : Instr) (code : Nat) (r : Request) (one : Application) : Prop where
  row : ∃ plan answer blank, (∀ s, exec i s = .next (s.serveGroup code plan answer blank)) ∧
    (∀ (q : Request) (sel : Selector), q.body = r.body → plan q sel = .apply one) ∧
    ∀ q s t a, (answer q s t a).status = a.2

theorem linkRow_row {i : Instr} {code : Nat} {r : Request} {plan : Request → Selector → GroupPlan}
    {answer : Request → State → TermNo → State × Status → Reply} {blank : Request → List Byte} {one : Application}
    (hi : ∀ s, exec i s = .next (s.serveGroup code plan answer blank))
    (hp : ∀ (q : Request) (sel : Selector), q.body = r.body → plan q sel = .apply one)
    (ha : ∀ q s t a, (answer q s t a).status = a.2) : GroupRow i code r one := ⟨_, _, _, hi, hp, ha⟩

section
variable {i : Instr} {code : Nat} {r : Request} {one : Application} {act : Sector → TermNo → Sector}
  {status : Sector → TermNo → Status} (hrow : GroupRow i code r one) (hacts : one.Acts act status)
include hrow

/-- A request like `r` under a TERMINAL selector: one application, and its response (R171). -/
theorem GroupRow.single {q : Request} {t : TermNo} {s : State} (h : s.headIs q code) (ht : q.selectsTerminal t)
    (hb : q.body = r.body) : ∃ a, a.status = (one s t).2 ∧ exec i s = .next (State.respond s (one s t).1 q a) := by
  obtain ⟨plan, answer, blank, hexec, hplan, hans⟩ := hrow.row
  exact ⟨_, hans q s t (one s t), by rw [hexec, State.serveGroup_terminal plan answer blank h ht (hplan q _ hb)]⟩

include hacts

/-- The request of a group, without a pause: its applications in order, then the answer by their results (R171). -/
theorem GroupRow.group {s : State} {sel : Selector} (h : s.headIs r code) (hs : s.shares = []) (hsel : r.selector? = some sel)
    (hnot : ∀ t, sel ≠ .terminal t) : ∃ u results, exec i s = .next u ∧ OnlyLinkAnswered s u ∧
      u.sector = (s.sector.group sel).foldl act s.sector ∧ results.map Prod.fst = s.sector.group sel ∧
      (∀ n t, (s.sector.group sel)[n]? = some t →
        results[n]? = some (t, status (((s.sector.group sel).take n).foldl act s.sector) t)) ∧
      Answered s u r (groupReply results).status (groupReply results).body := by
  obtain ⟨plan, answer, blank, hexec, hplan, -⟩ := hrow.row
  have hbegin : s.serveGroup code plan answer blank = s.advance r one { remaining := s.sector.group sel } := by
    obtain ⟨rest, hb⟩ := State.headIs_buffer h
    obtain ⟨-, hc, hl, hn⟩ := h
    cases sel with
    | terminal t => exact absurd rfl (hnot t)
    | carrier c =>
      simp only [State.serveGroup, hb, hc, hn, not_lt.2 hl, hsel, State.beginGroup, hplan r _ rfl, if_true, if_false]
    | sector =>
      simp only [State.serveGroup, hb, hc, hn, not_lt.2 hl, hsel, State.beginGroup, hplan r _ rfl, if_true, if_false]
  obtain ⟨hsector, honly, hans⟩ := s.advance_answered r hacts.quiet { remaining := s.sector.group sel } hs
  refine ⟨_, (applyEach one (s.sector.group sel) (s.atGroup { remaining := s.sector.group sel })).2,
    (hexec s).trans (congrArg Host.Outcome.next hbegin), honly, ?_, applyEach_terminals one _ _,
    fun n t hn => applyEach_results hacts _ _ hn, hans⟩
  exact hsector.trans (applyEach_sector one act hacts.sector _ _)

end

/-- The status and body of a group request, by its results (R171, Table 12.7). -/
theorem groupReply_eq (l : List (TermNo × Status)) :
    let refused := l.filter fun e => decide (e.2 ≠ .done)
    (groupReply l).status = (match refused with
      | [] => .done
      | e :: _ => if refused.length < l.length then .partially else e.2) ∧
    (groupReply l).body = if refused = [] then be16 l.length
      else be16 refused.length ++ (refused.map fun e => be8 e.1.val ++ be8 e.2.code).flatten := by
  unfold groupReply refusedOf
  dsimp only
  cases l.filter fun e => decide (e.2 ≠ .done) with
  | nil => exact ⟨rfl, rfl⟩
  | cons x xs => exact ⟨rfl, rfl⟩

end Sys2Proof.Machine
end

section
/-! SUPPORT. What HOLD and FORCE-STATE make of link states (R48, R49, R82), for groups of terminals: O29. -/

namespace Sys2Proof.Machine

/-! ### Records but for ranging, admission and marks -/

/-- The record but for its ranging and admission fields and its owed marks. -/
def Terminal.lasting (r : Terminal) : Terminal := { r with range := {}, adm := {}, owed := {} }

/-- From `s` to `a` every record lasts, but for its ranging and admission fields and its owed marks. -/
def Sector.Lasts (s a : Sector) : Prop := ∀ v, (a.term v).lasting = (s.term v).lasting

/-- From `s` to `a` every record but that of `t` lasts. -/
def Sector.LastsBut (t : TermNo) (s a : Sector) : Prop := ∀ v, v ≠ t → (a.term v).lasting = (s.term v).lasting

section
variable {t : TermNo} {s a b : Sector}

theorem Sector.Lasts.rfl' (s : Sector) : s.Lasts s := fun _ => rfl

theorem Sector.Lasts.trans (h : s.Lasts a) (g : a.Lasts b) : s.Lasts b := fun v => (g v).trans (h v)

theorem Sector.Lasts.modTerm (h : s.Lasts a) (v : TermNo) {f : Terminal → Terminal} (hf : ∀ r, (f r).lasting = r.lasting) :
    s.Lasts (a.modTerm v f) := by
  intro w
  rw [Sector.term_modTerm]
  split
  · next hw => rw [hf, ← hw, h w]
  · exact h w

theorem Sector.Lasts.foldl {α : Type} {f : Sector → α → Sector} (hf : ∀ s x, Sector.Lasts s (f s x)) (l : List α) (s : Sector) :
    s.Lasts (l.foldl f s) := by
  induction l generalizing s with
  | nil => exact .rfl' s
  | cons x l ih => exact (hf s x).trans (ih _)

theorem Sector.refund_lasts (c : CarrierNo) (slot : SlotNo) (s : Sector) (g : FrameNo × TermNo) : s.Lasts (s.refund c slot g) := by
  unfold Sector.refund
  dsimp only
  have hcounted : s.Lasts (s.countRes c fun k => { k with grantsRefunded := k.grantsRefunded + 1 }) := fun _ => rfl
  split
  · exact hcounted.modTerm g.2 fun _ => rfl
  · exact hcounted

/-- The forced take changes ranging fields and marks alone of any record (R82, R100). -/
theorem Sector.forcedTake_lasts (s : Sector) (t : TermNo) : s.Lasts (s.forcedTake t) := by
  unfold Sector.forcedTake
  refine (Sector.Lasts.foldl (fun x slot => ?_) _ s).modTerm t fun _ => rfl
  unfold Sector.takeSlot
  exact Sector.Lasts.trans (fun _ => rfl) (.foldl (Sector.refund_lasts _ slot) _ _)

theorem Sector.LastsBut.trans (h : s.LastsBut t a) (g : a.LastsBut t b) : s.LastsBut t b := fun v hv => (g v hv).trans (h v hv)

theorem Sector.Lasts.but (h : s.Lasts a) : s.LastsBut t a := fun v _ => h v

end

end Sys2Proof.Machine
end

section
/-! SUPPORT. The states that HOLD and FORCE-STATE set, and the records they leave (R48, R49): O29. -/

namespace Sys2Proof.Machine

section
variable {t : TermNo} {s a : Sector}

theorem Terminal.lasting_parts {x y : Terminal} (h : y.lasting = x.lasting) : y.cfg = x.cfg ∧ y.link = x.link ∧ y.hold = x.hold := by
  have hcfg := congrArg Terminal.cfg h
  have hlink := congrArg Terminal.link h
  have hhold := congrArg Terminal.hold h
  exact ⟨hcfg, hlink, hhold⟩

/-! ### Other records -/

theorem Sector.LastsBut.of_only (h : OnlyRecord s a t) : s.LastsBut t a := fun v hv => congrArg Terminal.lasting (h v hv)

theorem Sector.LastsBut.modTerm (h : s.LastsBut t a) (f : Terminal → Terminal) : s.LastsBut t (a.modTerm t f) :=
  h.trans (.of_only (Sector.onlyRecord_modTerm a t f))

theorem Sector.LastsBut.ite {b : Sector} {p : Prop} [Decidable p] (ha : s.LastsBut t a) (hb : s.LastsBut t b) :
    s.LastsBut t (if p then a else b) := by
  split
  · exact ha
  · exact hb

theorem Sector.LastsBut.noted {before : Sector} (h : s.LastsBut t a) : s.LastsBut t (Sector.noteStateChange before a t) := by
  unfold Sector.noteStateChange
  split
  · exact h
  · exact h

theorem Sector.term_noteStateChange (before a : Sector) (t v : TermNo) : (Sector.noteStateChange before a t).term v = a.term v := by
  unfold Sector.noteStateChange
  split <;> rfl

theorem Sector.leave_but (s : Sector) (t : TermNo) (how : Departure) : s.LastsBut t (s.leave t how) :=
  .of_only ((Sector.Turned.rfl' s t (s.term t).cfg.carrier).leave how rfl).only

theorem Sector.discardHeldQueue_spec (s : Sector) (t : TermNo) : OnlyRecord s (s.discardHeldQueue t) t ∧
    ((s.discardHeldQueue t).term t).link = (s.term t).link ∧ ((s.discardHeldQueue t).term t).hold.queue = [] := by
  unfold Sector.discardHeldQueue
  have hs := (Sector.Stored.rfl' s t).emptyQueue.modTerm fun r =>
    { r with ctr := { r.ctr with discardState := r.ctr.discardState + BitVec.ofNat 32 (s.term t).hold.frames
                                 heldState := r.ctr.heldState + BitVec.ofNat 32 (s.term t).hold.frames } }
  refine ⟨hs.only, ?_⟩
  have hlink := congrArg Terminal.link hs.term
  have hqueue := congrArg (fun r => r.hold.queue) hs.term
  exact ⟨hlink, hqueue⟩

theorem Sector.enterHeld_but (s : Sector) (t : TermNo) : s.LastsBut t (s.enterHeld t) := by
  have hset : s.LastsBut t (s.modTerm t Terminal.toHeld) := .of_only (Sector.onlyRecord_modTerm s t _)
  exact (hset.trans (.of_only (Sector.discardHeldQueue_spec _ t).1)).trans (Sector.forcedTake_lasts _ t).but

theorem Sector.enterHeld_own (s : Sector) (t : TermNo) :
    ((s.enterHeld t).term t).link.cause = (s.term t).link.cause ∧ ((s.enterHeld t).term t).hold.queue = [] := by
  obtain ⟨-, hlink, hqueue⟩ := (s.modTerm t Terminal.toHeld).discardHeldQueue_spec t
  have hlast := ((s.modTerm t Terminal.toHeld).discardHeldQueue t).forcedTake_lasts t t
  rw [Sector.term_modTerm, if_pos rfl] at hlink
  obtain ⟨-, hl, hh⟩ := Terminal.lasting_parts hlast
  unfold Sector.enterHeld
  rw [hl, hh, hlink]
  exact ⟨rfl, hqueue⟩

theorem Sector.oweHaltFrom_but (h : s.LastsBut t a) (old : LinkState) : s.LastsBut t (a.oweHaltFrom t old) := by
  unfold Sector.oweHaltFrom
  split
  · exact h.modTerm _
  · exact h

theorem Sector.oweHaltFrom_own (s : Sector) (t : TermNo) (old : LinkState) :
    ((s.oweHaltFrom t old).term t).link = (s.term t).link ∧ ((s.oweHaltFrom t old).term t).hold = (s.term t).hold := by
  unfold Sector.oweHaltFrom
  split
  · unfold Sector.oweHalt Sector.modOwed
    rw [Sector.term_modTerm, if_pos rfl]
    exact ⟨rfl, rfl⟩
  · exact ⟨rfl, rfl⟩

/-! ### HOLD (R48) -/

theorem Sector.hold_but (s : Sector) (t : TermNo) : s.LastsBut t (s.hold t) := by
  unfold Sector.hold
  dsimp only
  split
  · exact fun _ _ => rfl
  · exact ((Sector.oweHaltFrom_but ((s.leave_but t .request).trans (Sector.enterHeld_but _ t)) _)).noted

/-- The terminal of a HOLD is HELD, its cause kept, its queue gone unless it was HELD before. -/
theorem Sector.hold_own (s : Sector) (t : TermNo) : ((s.hold t).term t).link.state = .held ∧
    ((s.hold t).term t).link.cause = (s.term t).link.cause ∧
    ((s.term t).link.state ≠ .held → ((s.hold t).term t).hold.queue = []) := by
  unfold Sector.hold
  dsimp only
  split
  · next h => exact ⟨h, rfl, fun hn => absurd h hn⟩
  · rw [Sector.term_noteStateChange]
    obtain ⟨hlink, hhold⟩ := ((s.leave t .request).enterHeld t).oweHaltFrom_own t (s.term t).link.state
    obtain ⟨hcause, hqueue⟩ := (s.leave t .request).enterHeld_own t
    have hleft := ((Sector.Turned.rfl' s t (s.term t).cfg.carrier).leave .request rfl).term
    obtain ⟨fade, guard, hl⟩ := ((s.term t).left_as .request).link
    rw [hlink, hhold, hcause, hleft, hl]
    exact ⟨(Sector.enterHeld_sets _ t).state, rfl, fun _ => hqueue⟩

/-! ### FORCE-STATE (R49, R50) -/

theorem Sector.fixProfiles_but (s : Sector) (t : TermNo) : s.LastsBut t (s.fixProfiles t) := by
  have hset (f : Terminal → Terminal) : s.LastsBut t (s.modTerm t f) := .of_only (Sector.onlyRecord_modTerm s t f)
  unfold Sector.fixProfiles Sector.modLadder
  dsimp only
  split
  · exact .ite (hset _) ((hset _).modTerm _)
  · exact .ite (hset _) ((hset _).modTerm _)

theorem Sector.enterDark_but (s : Sector) (t : TermNo) (old : LinkState) : s.LastsBut t (s.enterDark t old) :=
  .of_only ((Sector.Turned.rfl' s t (s.term t).cfg.carrier).enterDark rfl old).only

theorem Sector.enterGuard_but (s : Sector) (t : TermNo) : s.LastsBut t (s.enterGuard t) :=
  .of_only ((Sector.Turned.rfl' s t (s.term t).cfg.carrier).enterGuard rfl).only

theorem Sector.forceTo_but (s : Sector) (t : TermNo) (old target : LinkState) : s.LastsBut t (s.forceTo t old target) := by
  have hleft := s.leave_but t .request
  unfold Sector.forceTo
  cases target with
  | held => exact Sector.oweHaltFrom_but (hleft.trans (Sector.enterHeld_but _ t)) old
  | guard =>
    refine Sector.oweHaltFrom_but (Sector.LastsBut.trans ?_ (Sector.enterGuard_but _ t)) old
    split
    · exact hleft.trans (Sector.enterDark_but _ t old)
    · exact hleft
  | serving =>
    exact (((hleft.trans (Sector.forcedTake_lasts _ t).but).trans (Sector.fixProfiles_but _ t)).modTerm _).modTerm _
  | dark => exact Sector.oweHaltFrom_but (hleft.trans (Sector.enterDark_but _ t old)) old
  | called | trimming | admitting | fading => exact fun _ _ => rfl

theorem Sector.force_but (s : Sector) (t : TermNo) (named : LinkState) : s.LastsBut t (s.force t named) := by
  unfold Sector.force
  dsimp only
  refine Sector.LastsBut.modTerm ?_ _
  split
  · exact fun _ _ => rfl
  · exact (Sector.forceTo_but s t _ _).noted

theorem Sector.forceTo_state (s : Sector) (t : TermNo) (old named : LinkState) :
    ((s.forceTo t old named.forceTarget).term t).link.state = named.forceTarget := by
  have howed (a : Sector) (x : LinkState) (h : (a.term t).link.state = x) : ((a.oweHaltFrom t old).term t).link.state = x := by
    rw [(a.oweHaltFrom_own t old).1, h]
  unfold Sector.forceTo LinkState.forceTarget
  cases named <;> dsimp only
  case held => exact howed _ _ (Sector.enterHeld_sets _ t).state
  case guard => exact howed _ _ (Sector.enterGuard_sets _ t).state
  case serving => exact (Sector.enterServing_sets _ t).state
  all_goals exact howed _ _ (Sector.enterDark_sets _ t old).state

/-- The terminal of a FORCE-STATE has the target, the forced mark and the cause FORCED. -/
theorem Sector.force_own (s : Sector) (t : TermNo) (named : LinkState) : ((s.force t named).term t).link.forced = true ∧
    ((s.force t named).term t).link.cause = .forced ∧ ((s.force t named).term t).link.state = named.forceTarget := by
  have hmark (a : Sector) (ha : (a.term t).link.state = named.forceTarget) :
      let y := (a.modLink t fun l => { l with forced := true, cause := .forced }).term t
      y.link.forced = true ∧ y.link.cause = .forced ∧ y.link.state = named.forceTarget := by
    unfold Sector.modLink
    rw [Sector.term_modTerm, if_pos rfl]
    exact ⟨rfl, rfl, ha⟩
  refine hmark _ ?_
  by_cases h : (s.term t).link.state = named.forceTarget
  · rw [if_pos h]
    exact h
  · rw [if_neg h, Sector.term_noteStateChange]
    exact s.forceTo_state t _ named

end

/-- The target that a state byte names (R49). -/
theorem forceTarget_byte {b : Byte} {named : LinkState} (h : LinkState.ofCode b.toNat = some named) :
    named.forceTarget = if b = 0 then .held else if b = 5 then .serving else if b = 7 then .guard else .dark := by
  have hb : b.toNat < 8 := by
    by_contra hn
    rw [LinkState.ofCode_none (not_lt.1 hn)] at h
    cases h
  obtain ⟨n, rfl⟩ : ∃ n : Fin 8, b = BitVec.ofNat 8 n.val := ⟨⟨b.toNat, hb⟩, (BitVec.ofNat_toNat 8 b).symm.trans rfl⟩
  revert h
  revert n
  cases named <;> decide

end Sys2Proof.Machine
end

section
/-! SUPPORT. The six group rows (R171): what each application does to its own record, the others, and what follows for the group:
O29. -/

namespace Sys2Proof.Machine

/-! ### What an application keeps of the other records -/

/-- A record `x` as other terminals' applications of a request of code `code` leave it: HOLD and FORCE-STATE may change ranging
fields and marks (R82), the others nothing. -/
def Terminal.Kept (code : Nat) (x y : Terminal) : Prop := if code = 11 ∨ code = 12 then y.lasting = x.lasting else y = x

section
variable {code : Nat} {x y z : Terminal}

theorem Terminal.Kept.of_lasting (h : code = 11 ∨ code = 12) : Terminal.Kept code x y ↔ y.lasting = x.lasting := by
  unfold Terminal.Kept
  rw [if_pos h]

theorem Terminal.Kept.of_same (h : ¬ (code = 11 ∨ code = 12)) : Terminal.Kept code x y ↔ y = x := by
  unfold Terminal.Kept
  rw [if_neg h]

theorem Terminal.Kept.refl (code : Nat) (x : Terminal) : Terminal.Kept code x x := by
  unfold Terminal.Kept
  split <;> rfl

theorem Terminal.Kept.trans (h : Terminal.Kept code x y) (g : Terminal.Kept code y z) : Terminal.Kept code x z := by
  unfold Terminal.Kept at *
  split
  · next hc => rw [if_pos hc] at h g; exact g.trans h
  · next hc => rw [if_neg hc] at h g; exact g.trans h

theorem Terminal.Kept.lasting (h : Terminal.Kept code x y) : y.lasting = x.lasting := by
  unfold Terminal.Kept at h
  split at h
  · exact h
  · exact congrArg Terminal.lasting h

end

/-! ### The six rows -/

/-- The row `i` of code `code` whose request `r` each terminal takes as `one`, with the change `act` and the status `status`. -/
inductive GroupKind (r : Request) :
    Instr → Nat → Application → (Sector → TermNo → Sector) → (Sector → TermNo → Status) → Prop
  | write {es : List FieldEntry} (he : fieldSet termWidth r.body = some es) (hg : ∀ e ∈ es, 9 ≤ e.code ∧ e.code ≤ 19) :
      GroupKind r .writeTerminal 2 (writeOne es) (writeAct es) fun s t => (s.writeCheck t es).1
  | release (hb : r.body = []) : GroupKind r .release 10 releaseOne (linkAct (fun _ => false) Sector.releaseTerm)
      (linkStatus fun _ => false)
  | hold (hb : r.body = []) : GroupKind r .hold 11 holdOne (linkAct (fun _ => false) Sector.hold) (linkStatus fun _ => false)
  | force {b : Byte} {named : LinkState} (hb : r.body = [b]) (hn : LinkState.ofCode b.toNat = some named) :
      GroupKind r .forceState 12 (forceOne named) (linkAct (fun _ => false) fun s t => s.force t named) (linkStatus fun _ => false)
  | permit (hb : r.body = []) : GroupKind r .permit 13 permitOne
      (linkAct (fun x => decide (x.link.state = .held)) Sector.permitTerm) (linkStatus fun x => decide (x.link.state = .held))
  | flush (hb : r.body = []) : GroupKind r .flushHeld 14 flushOne (linkAct (fun _ => false) Sector.flush)
      (linkStatus fun _ => false)

theorem GroupKind.exists {i : Instr} {code : Nat} {r : Request}
    (hi : (i, code) ∈ [(Instr.writeTerminal, 2), (.release, 10), (.hold, 11), (.forceState, 12), (.permit, 13), (.flushHeld, 14)])
    (hwrite : code = 2 → ∃ es, fieldSet termWidth r.body = some es ∧ ∀ e ∈ es, 9 ≤ e.code ∧ e.code ≤ 19)
    (hforce : code = 12 → ∃ b : Byte, r.body = [b] ∧ b.toNat < 8) (hempty : code ≠ 2 → code ≠ 12 → r.body = []) :
    ∃ one act status, GroupKind r i code one act status := by
  simp only [List.mem_cons, Prod.mk.injEq, List.not_mem_nil, or_false] at hi
  rcases hi with ⟨rfl, rfl⟩ | ⟨rfl, rfl⟩ | ⟨rfl, rfl⟩ | ⟨rfl, rfl⟩ | ⟨rfl, rfl⟩ | ⟨rfl, rfl⟩
  · obtain ⟨es, he, hg⟩ := hwrite rfl
    exact ⟨_, _, _, .write he hg⟩
  · exact ⟨_, _, _, .release (hempty (by decide) (by decide))⟩
  · exact ⟨_, _, _, .hold (hempty (by decide) (by decide))⟩
  · obtain ⟨b, hb, hlt⟩ := hforce rfl
    obtain ⟨named, hn, -⟩ := LinkState.ofCode_some hlt
    exact ⟨_, _, _, .force hb hn⟩
  · exact ⟨_, _, _, .permit (hempty (by decide) (by decide))⟩
  · exact ⟨_, _, _, .flush (hempty (by decide) (by decide))⟩

theorem linkAct_cases (refuses : Terminal → Bool) (act : Sector → TermNo → Sector) (s : Sector) (t : TermNo) :
    linkAct refuses act s t = act s t ∨ linkAct refuses act s t = s := by
  unfold linkAct
  split
  · exact .inl rfl
  · exact .inr rfl

theorem linkAct_only {refuses : Terminal → Bool} {act : Sector → TermNo → Sector} (h : ∀ s t, OnlyRecord s (act s t) t) (s : Sector)
    (t : TermNo) : OnlyRecord s (linkAct refuses act s t) t := by
  rcases linkAct_cases refuses act s t with hl | hl
  · rw [hl]; exact h s t
  · rw [hl]; exact fun _ _ => rfl

theorem Sector.releaseTerm_only (s : Sector) (t : TermNo) : OnlyRecord s (s.releaseTerm t) t := by
  by_cases h : (s.term t).link.state = .held ∨ ((s.term t).link.state = .guard ∧ (s.term t).link.guardOn = false)
  · exact (Sector.releaseTerm_dark h).only
  · exact (Sector.releaseTerm_stays h (s.term t).cfg.carrier).only

theorem Sector.permitTerm_only (s : Sector) (t : TermNo) : OnlyRecord s (s.permitTerm t) t ∧ (s.permitTerm t).cars = s.cars := by
  obtain ⟨y, hs, -⟩ := s.permitTerm_spec t
  exact ⟨hs.only, hs.cars rfl⟩

theorem writeAct_only (es : List FieldEntry) (s : Sector) (t : TermNo) : OnlyRecord s (writeAct es s t) t := by
  unfold writeAct
  split
  · exact (s.writeTerminal_spec t es _).1.only
  · exact fun _ _ => rfl

section
variable {r : Request} {i : Instr} {code : Nat} {one : Application} {act : Sector → TermNo → Sector}
  {status : Sector → TermNo → Status} (h : GroupKind r i code one act status)
include h

theorem GroupKind.acts : one.Acts act status := by
  cases h with
  | write he hg => exact writeOne_acts _
  | release | hold | force | permit | flush => exact applyLink_acts _ _

theorem GroupKind.row : GroupRow i code r one := by
  cases h with
  | write he hg =>
    refine linkRow_row (answer := writeAnswer) (fun _ => rfl) (fun q sel hq => ?_) fun _ _ _ _ => rfl
    unfold writePlan
    rw [hq, he]
    cases sel with
    | terminal t => rfl
    | carrier c | sector => exact if_pos (groupFields_iff.2 hg)
  | release hb | hold hb | permit hb =>
    exact linkRow_row (answer := linkAnswer) (fun _ => rfl) (fun q sel hq => emptyPlan_of_empty (hq.trans hb) sel)
      fun _ _ _ _ => rfl
  | flush hb =>
    exact linkRow_row (answer := flushAnswer) (fun _ => rfl) (fun q sel hq => emptyPlan_of_empty (hq.trans hb) sel)
      fun _ _ _ _ => rfl
  | force hb hn =>
    exact linkRow_row (answer := linkAnswer) (fun _ => rfl) (fun q sel hq => forcePlan_of_state (hq.trans hb) hn sel)
      fun _ _ _ _ => rfl

theorem GroupKind.others (s : Sector) {t v : TermNo} (hv : v ≠ t) : Terminal.Kept code (s.term v) ((act s t).term v) := by
  cases h with
  | write => exact (Terminal.Kept.of_same (by decide)).2 (writeAct_only _ s t v hv)
  | release => exact (Terminal.Kept.of_same (by decide)).2 (linkAct_only Sector.releaseTerm_only s t v hv)
  | permit => exact (Terminal.Kept.of_same (by decide)).2 (linkAct_only (fun s t => (s.permitTerm_only t).1) s t v hv)
  | flush => exact (Terminal.Kept.of_same (by decide)).2 (linkAct_only (fun s t => (s.flush_stored t).only) s t v hv)
  | hold =>
    refine (Terminal.Kept.of_lasting (by decide)).2 ?_
    rcases linkAct_cases (fun _ => false) Sector.hold s t with hl | hl
    · rw [hl]; exact s.hold_but t v hv
    · rw [hl]
  | @force _ named =>
    refine (Terminal.Kept.of_lasting (by decide)).2 ?_
    rcases linkAct_cases (fun _ => false) (fun s t => s.force t named) s t with hl | hl
    · rw [hl]; exact s.force_but t named v hv
    · rw [hl]

theorem GroupKind.cars (hc : code = 13) (s : Sector) (t : TermNo) : (act s t).cars = s.cars := by
  cases h with
  | permit =>
    rcases linkAct_cases (fun x => decide (x.link.state = .held)) Sector.permitTerm s t with hl | hl
    · rw [hl]; exact (s.permitTerm_only t).2
    · rw [hl]
  | write | release | hold | force | flush => exact absurd hc (by decide)

/-- Records outside the group are as others' applications leave them. -/
theorem GroupKind.foldl_outside (l : List TermNo) (s : Sector) {v : TermNo} (hv : v ∉ l) :
    Terminal.Kept code (s.term v) ((l.foldl act s).term v) := by
  induction l generalizing s with
  | nil => exact .refl code _
  | cons t l ih =>
    obtain ⟨hne, hl⟩ := List.ne_and_not_mem_of_not_mem_cons hv
    exact (h.others s hne).trans (ih _ hl)

theorem GroupKind.foldl_cars (hc : code = 13) (l : List TermNo) (s : Sector) : (l.foldl act s).cars = s.cars := by
  induction l generalizing s with
  | nil => rfl
  | cons t l ih => exact (ih _).trans (h.cars hc s t)

/-- What each member of the group finds at its turn, and what it leaves. -/
theorem GroupKind.foldl_at {l : List TermNo} (hl : l.Nodup) (s : Sector) {n : Nat} {t : TermNo} (hn : l[n]? = some t) :
    let z := (l.take n).foldl act s
    Terminal.Kept code (s.term t) (z.term t) ∧ Terminal.Kept code ((act z t).term t) ((l.foldl act s).term t) := by
  have hsplit : l = l.take n ++ t :: l.drop (n + 1) := by
    obtain ⟨hlt, rfl⟩ := List.getElem?_eq_some_iff.1 hn
    rw [List.getElem_cons_drop, List.take_append_drop]
  rw [hsplit, List.nodup_append] at hl
  obtain ⟨-, hrest, hdisj⟩ := hl
  refine ⟨h.foldl_outside _ s fun hmem => hdisj t hmem t List.mem_cons_self rfl, ?_⟩
  have hfinal := congrArg (fun m => (m.foldl act s).term t) hsplit
  rw [hfinal, List.foldl_append, List.foldl_cons]
  exact h.foldl_outside _ _ (List.nodup_cons.1 hrest).1

end

/-! ### A WRITE-TERMINAL of fields that groups may carry (R19) -/

theorem TermConfig.setField_group {cfg k : TermConfig} {e : FieldEntry} (he : 9 ≤ e.code ∧ e.code ≤ 19)
    (h : cfg.setField e = some k) : k.configured = cfg.configured ∧ k.carrier = cfg.carrier ∧ k.homeSlots = cfg.homeSlots := by
  obtain ⟨c, v⟩ := e
  obtain ⟨h9, h19⟩ := he
  dsimp only at h9 h19
  unfold TermConfig.setField at h
  interval_cases c
  all_goals
    obtain ⟨x, -, rfl⟩ := Option.map_eq_some_iff.1 h
    exact ⟨rfl, rfl, rfl⟩

theorem TermConfig.withFields_group {es : List FieldEntry} (hg : ∀ e ∈ es, 9 ≤ e.code ∧ e.code ≤ 19) (cfg : TermConfig) :
    (cfg.withFields es).configured = cfg.configured ∧ (cfg.withFields es).carrier = cfg.carrier ∧
      (cfg.withFields es).homeSlots = cfg.homeSlots := by
  unfold TermConfig.withFields
  induction es generalizing cfg with
  | nil => exact ⟨rfl, rfl, rfl⟩
  | cons e es ih =>
    obtain ⟨hc, hk, hs⟩ := ih (fun e he => hg e (List.mem_cons_of_mem _ he)) ((cfg.setField e).getD cfg)
    rw [List.foldl_cons, hc, hk, hs]
    cases hset : cfg.setField e with
    | none => exact ⟨rfl, rfl, rfl⟩
    | some k => exact TermConfig.setField_group (hg e List.mem_cons_self) hset

theorem names_group {es : List FieldEntry} (hg : ∀ e ∈ es, 9 ≤ e.code ∧ e.code ≤ 19) {n : Nat} (hn : n < 9) :
    names es n = false := by
  refine Bool.eq_false_iff.2 fun h => ?_
  obtain ⟨e, he, hc⟩ := names_iff.1 h
  have := (hg e he).1
  omega

/-- The checks of such a write look at the terminal's own record alone. -/
theorem Sector.writeCheck_group {es : List FieldEntry} (hg : ∀ e ∈ es, 9 ≤ e.code ∧ e.code ≤ 19) {s z : Sector} {t : TermNo}
    (h : z.term t = s.term t) : z.writeCheck t es = s.writeCheck t es := by
  have hnone (x : Sector) : x.conflictFailures t es ((x.term t).cfg.withFields es) = [] := by
    obtain ⟨hc, hk, hs⟩ := (x.term t).cfg.withFields_group hg
    have hhome : homeCheckRuns (x.term t).cfg ((x.term t).cfg.withFields es) = false := by
      unfold homeCheckRuns
      rw [hc, hk, hs]
      cases (x.term t).cfg.configured <;> simp only [Bool.not_true, Bool.not_false, ne_eq, not_true_eq_false, decide_false,
        Bool.or_false, Bool.and_false, Bool.false_and]
    have hprofile : profileCheckRuns es ((x.term t).cfg.withFields es) = false := by
      unfold profileCheckRuns
      rw [names_group hg (by decide), names_group hg (by decide), names_group hg (by decide), names_group hg (by decide)]
      rfl
    unfold Sector.conflictFailures
    dsimp only
    rw [hhome, hprofile]
    rfl
  unfold Sector.writeCheck
  dsimp only
  rw [hnone, hnone, h]

end Sys2Proof.Machine
end

section
/-! SUPPORT. A group request taken without a pause (R171): O29. -/

namespace Sys2Proof.Machine

/-- A member's record as it was, or but for ranging fields and marks where HOLD and FORCE-STATE meet it. -/
theorem Terminal.Kept.configured {code : Nat} {x y : Terminal} (h : Terminal.Kept code x y) :
    y.cfg.configured = x.cfg.configured := by
  rw [(Terminal.lasting_parts h.lasting).1]

theorem linkAct_done {refuses : Terminal → Bool} (act : Sector → TermNo → Sector) {s : Sector} {t : TermNo}
    (hc : (s.term t).cfg.configured = true) (hr : refuses (s.term t) = false) : linkAct refuses act s t = act s t := if_pos ⟨hc, hr⟩

theorem linkAct_refused {refuses : Terminal → Bool} (act : Sector → TermNo → Sector) {s : Sector} {t : TermNo}
    (hr : refuses (s.term t) = true) : linkAct refuses act s t = s := if_neg fun h => Bool.false_ne_true (h.2.symm.trans hr)

theorem linkStatus_done {refuses : Terminal → Bool} {s : Sector} {t : TermNo} (hc : (s.term t).cfg.configured = true)
    (hr : refuses (s.term t) = false) : linkStatus refuses s t = .done := if_pos ⟨hc, hr⟩

theorem linkStatus_refused {refuses : Terminal → Bool} {s : Sector} {t : TermNo} (hr : refuses (s.term t) = true) :
    linkStatus refuses s t = .wrongState := if_neg fun h => Bool.false_ne_true (h.2.symm.trans hr)

theorem Sector.releaseTerm_own (s : Sector) (t : TermNo) :
    ((s.releaseTerm t).term t).link.forced = false ∧ ((s.releaseTerm t).term t).link.state ≠ .held := by
  by_cases h : (s.term t).link.state = .held ∨ ((s.term t).link.state = .guard ∧ (s.term t).link.guardOn = false)
  · rw [(Sector.releaseTerm_dark h).term]
    refine ⟨?_, fun hn => LinkState.noConfusion hn⟩
    unfold Terminal.toDark Terminal.unforced LinkFields.startOutage
    dsimp only
    split <;> rfl
  · rw [(Sector.releaseTerm_stays h (s.term t).cfg.carrier).term]
    exact ⟨rfl, fun hn => h (.inl hn)⟩

/-! ### One terminal's request (R171) -/

theorem GroupRow.single_sector {i : Instr} {code : Nat} {r q : Request} {one : Application} {act : Sector → TermNo → Sector}
    {status : Sector → TermNo → Status} (hrow : GroupRow i code r one) (hacts : one.Acts act status) {s : State} {t : TermNo}
    (h : s.headIs q code) (ht : q.selectsTerminal t) (hb : q.body = r.body) :
    ∃ u, exec i s = .next u ∧ u.sector = act s.sector t ∧
      ((u.npMgmt.drop s.npMgmt.length).head?.map MgmtFrame.status) = some (status s.sector t) := by
  obtain ⟨a, ha, hu⟩ := hrow.single h ht hb
  refine ⟨_, hu, hacts.sector s t, ?_⟩
  obtain ⟨later, hframes⟩ := ((hacts.quiet s t).1.answered q a).1
  rw [hframes, List.drop_left, List.head?_cons, ← hacts.status, ← ha]
  rfl

/-- A PERMIT at a HELD terminal of the group is refused (R51). -/
theorem permit_refused {s z : Sector} {t : TermNo} {results : List (TermNo × Status)} (hx : z.term t = s.term t)
    (hr : (t, linkStatus (fun x => decide (x.link.state = .held)) z t) ∈ results) (hs : (s.term t).link.state = .held) :
    (linkAct (fun x => decide (x.link.state = .held)) Sector.permitTerm z t).term t = s.term t ∧ (t, Status.wrongState) ∈ results := by
  have hheld : decide ((z.term t).link.state = .held) = true := decide_eq_true (by rw [hx, hs])
  rw [linkStatus_refused hheld] at hr
  rw [linkAct_refused Sector.permitTerm hheld]
  exact ⟨hx, hr⟩

/-- A PERMIT at a terminal of the group that is not HELD (R51). -/
theorem permit_done {s z : Sector} {t : TermNo} {results : List (TermNo × Status)} (hx : z.term t = s.term t) (hk : z.cars = s.cars)
    (hc : (z.term t).cfg.configured = true) (hr : (t, linkStatus (fun x => decide (x.link.state = .held)) z t) ∈ results)
    (hs : (s.term t).link.state ≠ .held) :
    let x := s.term t
    let y := (linkAct (fun x => decide (x.link.state = .held)) Sector.permitTerm z t).term t
    let lent := ∃ slot ∈ x.cfg.homeSlots, ∃ m, (s.car x.cfg.carrier).slotUse slot = .lent t m
    let ready := x.link.state = .admitting ∧ x.owed.admission = false ∧ x.adm.sent = none ∧ ¬ lent ∧ x.adm.reclaimPending = false
    (t, Status.done) ∈ results ∧ (¬ ready → y = { x with link := { x.link with permit := true } }) ∧
      (ready → y = { x with link := { x.link with permit := x.cfg.autoAdmit }, owed := { x.owed with admission := true } }) := by
  have hheld : decide ((z.term t).link.state = .held) = false := decide_eq_false (by rw [hx]; exact hs)
  rw [linkStatus_done hc hheld] at hr
  rw [linkAct_done Sector.permitTerm hc hheld]
  obtain ⟨y, hturned, -, -, hnot, hready⟩ := z.permitTerm_spec t
  have hcar : z.car (s.term t).cfg.carrier = s.car (s.term t).cfg.carrier := by
    unfold Sector.car
    rw [hk]
  unfold Sector.someLent at hnot hready
  rw [hx, hcar] at hnot hready
  rw [hturned.term]
  exact ⟨hr, hnot, hready⟩

/-- A WRITE-TERMINAL of fields that groups may carry, at a terminal of the group (R19). -/
theorem writeAct_group {es : List FieldEntry} (hg : ∀ e ∈ es, 9 ≤ e.code ∧ e.code ≤ 19) {s z : Sector} {t : TermNo}
    {results : List (TermNo × Status)} (hx : z.term t = s.term t) (hr : (t, (z.writeCheck t es).1) ∈ results) :
    let y := (writeAct es z t).term t
    ((s.writeCheck t es).1 = .done → y.cfg = (s.term t).cfg.withFields es) ∧
      ((s.writeCheck t es).1 ≠ .done → y = s.term t ∧ (t, (s.writeCheck t es).1) ∈ results) := by
  rw [Sector.writeCheck_group hg hx] at hr
  unfold writeAct
  rw [Sector.writeCheck_group hg hx]
  refine ⟨fun hd => ?_, fun hn => ?_⟩
  · rw [if_pos hd, ← hx]
    exact (Terminal.written_rest (z.writeTerminal_spec t es _).2).1
  · rw [if_neg hn]
    exact ⟨hx, hr⟩

theorem Sector.group_nodup (s : Sector) (sel : Selector) : (s.group sel).Nodup := by
  cases sel with
  | terminal t => exact List.nodup_singleton t
  | carrier c => exact s.boundTo_nodup c
  | sector => exact (List.nodup_finRange _).filter _

/-- Settles O29: the applications in order, each on a record that no other application of the row moves. -/
theorem groupRequestsApplyToEach : Obligations.GroupRequestsApplyToEach := by
  intro i code r s group hi h hs hgroup hbody single made upTo
  obtain ⟨hwrite, hforce, hempty⟩ := hbody
  obtain ⟨one, act, status, hkind⟩ := GroupKind.exists hi hwrite hforce hempty
  obtain ⟨sel, hsel, hnot, hg⟩ : ∃ sel, r.selector? = some sel ∧ (∀ t, sel ≠ .terminal t) ∧ s.sector.group sel = group := by
    rcases hgroup with ⟨c, hc, rfl⟩ | ⟨hc, rfl⟩
    · exact ⟨.carrier c, Request.selector?_carrier hc, fun t => Selector.noConfusion, rfl⟩
    · exact ⟨.sector, Request.selector?_sector hc, fun t => Selector.noConfusion, rfl⟩
  have hnodup : group.Nodup := hg ▸ s.sector.group_nodup sel
  have hconf (t : TermNo) (ht : t ∈ group) : (s.sector.term t).cfg.configured = true := by
    rcases hgroup with ⟨c, -, rfl⟩ | ⟨-, rfl⟩
    · exact (Bool.and_eq_true_iff.1 (List.mem_filter.1 ht).2).1
    · exact (List.mem_filter.1 ht).2
  obtain ⟨u, results, hexec, honly, hsector, hfst, hresults, hans⟩ := hkind.row.group hkind.acts h hs hsel hnot
  rw [hg] at hsector hfst hresults
  have hmade (x : Sector) (t : TermNo) : (made x t).sector = act x t ∧
      ((made x t).npMgmt.drop s.npMgmt.length).head?.map MgmtFrame.status = some (status x t) := by
    have hhead : (single x t).headIs { r with kind := 1, value := BitVec.ofNat 16 t.val } code :=
      ⟨rfl, h.2.1, h.2.2.1, rfl⟩
    have hterm : ({ r with kind := 1, value := BitVec.ofNat 16 t.val } : Request).selectsTerminal t :=
      ⟨rfl, Nat.mod_eq_of_lt (t.isLt.trans (by decide))⟩
    obtain ⟨w, hw, hws, hwm⟩ := hkind.row.single_sector hkind.acts hhead hterm rfl
    have hmw : made x t = w := by
      show (match exec i (single x t) with
        | .next u => u
        | .fault _ => single x t
        | .refused _ => single x t) = w
      rw [hw]
    rw [hmw]
    exact ⟨hws, hwm⟩
  have hupTo (n : Nat) : upTo n = (group.take n).foldl act s.sector :=
    congrArg (fun f => (group.take n).foldl f s.sector) (funext fun x => funext fun t => (hmade x t).1)
  obtain ⟨hstatus, hreply⟩ := groupReply_eq results
  refine ⟨u, results, hexec, honly, ?sector, hfst, ?statuses, ?answer, fun t ht => ?outside, fun t ht => ?each⟩
  case sector => rw [hsector, hupTo, List.take_length]
  case statuses =>
    intro n t hn
    rw [hresults n t hn, hupTo, (hmade _ t).2]
    rfl
  case answer =>
    rw [hstatus, hreply] at hans
    exact hans
  case outside =>
    rw [hsector]
    exact (Terminal.lasting_parts (hkind.foldl_outside group s.sector ht).lasting).2.1
  case each =>
    obtain ⟨n, hn⟩ := List.mem_iff_getElem?.1 ht
    obtain ⟨hbefore, hafter⟩ := hkind.foldl_at hnodup s.sector hn
    have hcars := fun hc => hkind.foldl_cars hc (group.take n) s.sector
    have hresult := List.mem_of_getElem? (hresults n t hn)
    have hz := hbefore.configured.trans (hconf t ht)
    rw [← hsector] at hafter
    generalize (group.take n).foldl act s.sector = z at hbefore hafter hcars hresult hz
    generalize u.sector.term t = y at hafter
    clear hupTo hmade
    clear upTo made single
    cases hkind with
    | release =>
      obtain rfl := (Terminal.Kept.of_same (by decide)).1 hafter
      rw [linkAct_done Sector.releaseTerm hz rfl]
      exact ⟨fun _ => z.releaseTerm_own t, nofun, nofun, nofun, nofun, nofun, nofun⟩
    | hold =>
      have hy := Terminal.lasting_parts ((Terminal.Kept.of_lasting (by decide)).1 hafter)
      have hx := Terminal.lasting_parts ((Terminal.Kept.of_lasting (by decide)).1 hbefore)
      rw [linkAct_done Sector.hold hz rfl] at hy
      refine ⟨nofun, fun _ => ?_, nofun, nofun, nofun, nofun, nofun⟩
      rw [hy.2.1, hy.2.2, ← hx.2.1]
      exact z.hold_own t
    | @force b named hb hnamed =>
      have hy := Terminal.lasting_parts ((Terminal.Kept.of_lasting (by decide)).1 hafter)
      rw [linkAct_done (fun s t => s.force t named) hz rfl] at hy
      refine ⟨nofun, nofun, fun _ b' hb' => ?_, nofun, nofun, nofun, nofun⟩
      obtain rfl : b = b' := (List.cons.inj (hb.symm.trans hb')).1
      rw [hy.2.1, ← forceTarget_byte hnamed]
      exact z.force_own t named
    | permit =>
      obtain rfl := (Terminal.Kept.of_same (by decide)).1 hafter
      have hx : z.term t = s.sector.term t := (Terminal.Kept.of_same (by decide)).1 hbefore
      exact ⟨nofun, nofun, nofun, fun _ => permit_refused hx hresult, fun _ => permit_done hx (hcars rfl) hz hresult, nofun, nofun⟩
    | flush =>
      obtain rfl := (Terminal.Kept.of_same (by decide)).1 hafter
      have hx : z.term t = s.sector.term t := (Terminal.Kept.of_same (by decide)).1 hbefore
      rw [linkAct_done Sector.flush hz rfl, (z.flush_stored t).term, hx]
      exact ⟨nofun, nofun, nofun, nofun, nofun, fun _ => rfl, nofun⟩
    | @write es he hg =>
      obtain rfl := (Terminal.Kept.of_same (by decide)).1 hafter
      have hx : z.term t = s.sector.term t := (Terminal.Kept.of_same (by decide)).1 hbefore
      refine ⟨nofun, nofun, nofun, nofun, nofun, nofun, fun _ es' he' => ?_⟩
      obtain rfl : es = es' := Option.some.inj (he.symm.trans he')
      exact writeAct_group hg hx hresult

end Sys2Proof.Machine
end

section
/-! SUPPORT. The common checks of every request row (R169, R170, R181): O9. -/

namespace Sys2Proof.Machine

/-! ### Selectors that a code allows (Table 10.2) -/

/-- The codes whose requests select a terminal alone. -/
def terminalCodes : List Nat := [1, 3, 4, 5]

/-- The codes whose requests select a carrier alone. -/
def carrierCodes : List Nat := [8, 9, 15, 21]

/-- The codes whose requests select the sector alone. -/
def sectorCodes : List Nat := [6, 7, 16, 17, 19, 20]

/-- The request has one of the three selectors, its value in range (R170). -/
def Request.selects (r : Request) : Prop := (r.kind = 1 ∧ r.value.toNat < 256) ∨ (r.kind = 2 ∧ r.value.toNat < 4) ∨ r.kind = 3

/-- The selector of the request is one that its code allows. -/
def Request.selectsFor (r : Request) (code : Nat) : Prop :=
  r.selects ∧ (code ∈ terminalCodes → r.kind = 1) ∧ (code ∈ carrierCodes → r.kind = 2) ∧ (code ∈ sectorCodes → r.kind = 3)

section
variable {r : Request} {code : Nat}

theorem Request.terminal?_none_iff : r.terminal? = none ↔ ¬ (r.kind = 1 ∧ r.value.toNat < 256) := by
  unfold Request.terminal?
  split
  · next hlt => simp only [hlt, and_true, ite_eq_right_iff, reduceCtorEq, imp_false]
  · next hlt => simp only [hlt, and_false, not_false_eq_true]

theorem Request.carrier?_none_iff : r.carrier? = none ↔ ¬ (r.kind = 2 ∧ r.value.toNat < 4) := by
  unfold Request.carrier?
  split
  · next hlt => simp only [hlt, and_true, ite_eq_right_iff, reduceCtorEq, imp_false]
  · next hlt => simp only [hlt, and_false, not_false_eq_true]

theorem Request.sector?_none_iff : r.sector? = none ↔ ¬ r.kind = 3 := by
  unfold Request.sector?
  simp only [ite_eq_right_iff, reduceCtorEq, imp_false]

theorem Request.selector?_none_iff : r.selector? = none ↔ ¬ r.selects := by
  unfold Request.selector? Request.selects
  by_cases h1 : r.kind = 1
  · rw [if_pos h1, Option.map_eq_none_iff, Request.terminal?_none_iff, h1]
    simp only [true_and, show ¬ (1 : Byte) = 2 by decide, show ¬ (1 : Byte) = 3 by decide, false_and, or_false]
  · rw [if_neg h1]
    by_cases h2 : r.kind = 2
    · rw [if_pos h2, Option.map_eq_none_iff, Request.carrier?_none_iff, h2]
      simp only [true_and, show ¬ (2 : Byte) = 1 by decide, show ¬ (2 : Byte) = 3 by decide, false_and, or_false, false_or]
    · rw [if_neg h2]
      simp only [h1, h2, false_and, false_or, ite_eq_right_iff, reduceCtorEq, imp_false]

theorem Request.terminal?_for (h : code ∈ terminalCodes) : r.terminal? = none ↔ ¬ r.selectsFor code := by
  have hnot : code ∉ carrierCodes ∧ code ∉ sectorCodes := by
    revert h
    unfold terminalCodes carrierCodes sectorCodes
    simp only [List.mem_cons, List.not_mem_nil, or_false]
    omega
  have hkinds (hk : r.kind = 1) : ¬ r.kind = 2 ∧ ¬ r.kind = 3 := by rw [hk]; decide
  rw [Request.terminal?_none_iff, not_iff_not]
  unfold Request.selectsFor Request.selects
  simp only [h, hnot, forall_true_left, false_imp_iff, and_true]
  exact ⟨fun hs => ⟨.inl hs, hs.1⟩, fun ⟨hs, hk⟩ => hs.resolve_right fun hn =>
    hn.elim (fun hn => (hkinds hk).1 hn.1) (hkinds hk).2⟩

theorem Request.carrier?_for (h : code ∈ carrierCodes) : r.carrier? = none ↔ ¬ r.selectsFor code := by
  have hnot : code ∉ terminalCodes ∧ code ∉ sectorCodes := by
    revert h
    unfold terminalCodes carrierCodes sectorCodes
    simp only [List.mem_cons, List.not_mem_nil, or_false]
    omega
  have hkinds (hk : r.kind = 2) : ¬ r.kind = 1 ∧ ¬ r.kind = 3 := by rw [hk]; decide
  rw [Request.carrier?_none_iff, not_iff_not]
  unfold Request.selectsFor Request.selects
  simp only [h, hnot, forall_true_left, false_imp_iff, and_true, true_and]
  exact ⟨fun hs => ⟨.inr (.inl hs), hs.1⟩, fun ⟨hs, hk⟩ =>
    (hs.resolve_left fun hn => (hkinds hk).1 hn.1).resolve_right (hkinds hk).2⟩

theorem Request.sector?_for (h : code ∈ sectorCodes) : r.sector? = none ↔ ¬ r.selectsFor code := by
  have hnot : code ∉ terminalCodes ∧ code ∉ carrierCodes := by
    revert h
    unfold terminalCodes carrierCodes sectorCodes
    simp only [List.mem_cons, List.not_mem_nil, or_false]
    omega
  rw [Request.sector?_none_iff, not_iff_not]
  unfold Request.selectsFor Request.selects
  simp only [h, hnot, forall_true_left, false_imp_iff, true_and]
  exact ⟨fun hs => ⟨.inr (.inr hs), hs⟩, And.right⟩

theorem Request.selector?_for (h : code ∉ terminalCodes ∧ code ∉ carrierCodes ∧ code ∉ sectorCodes) :
    r.selector? = none ↔ ¬ r.selectsFor code := by
  obtain ⟨ht, hc, hs⟩ := h
  rw [Request.selector?_none_iff, not_iff_not]
  unfold Request.selectsFor
  simp only [ht, hc, hs, false_imp_iff, and_true]

end

/-! ### Request rows -/

/-- The length of the body of a request with a fixed form (Table 12.6). -/
def formLength : Nat → Option Nat
  | 1 | 7 | 9 | 10 | 11 | 13 | 14 | 15 | 16 | 18 | 20 | 21 => some 0
  | 3 | 4 | 5 => some 2
  | 6 => some 9
  | 12 => some 1
  | 17 => some 6
  | _ => none

/-- The row `i` of code `code` takes requests by their common checks and then their owner or their plan. -/
inductive RequestRow (i : Instr) (code : Nat) : Prop
  | one {α : Type} (pick : Request → Option α) (own : Request → α → State → State × Reply) (blank : Request → List Byte)
      (hexec : ∀ s, exec i s = .next (s.serve code pick own blank)) (hpick : ∀ r, pick r = none ↔ ¬ r.selectsFor code)
      (hform : ∀ r x s n, formLength code = some n → r.body.length ≠ n → own r x s = (s, .plain .badValue))
  | group (plan : Request → Selector → GroupPlan) (answer : Request → State → TermNo → State × Status → Reply)
      (blank : Request → List Byte) (hexec : ∀ s, exec i s = .next (s.serveGroup code plan answer blank))
      (hpick : ∀ r : Request, r.selector? = none ↔ ¬ r.selectsFor code) (hcode : code = 2 ∨ (10 ≤ code ∧ code ≤ 14))
      (hform : ∀ r sel n, formLength code = some n → r.body.length ≠ n → plan r sel = .refuse (.plain .badValue))

theorem emptyBody_badForm {α : Type} (own : α → State → State × Reply) {r : Request} (h : r.body.length ≠ 0) (x : α) (s : State) :
    emptyBody own r x s = (s, .plain .badValue) := if_neg fun hb => h (List.length_eq_zero_iff.2 hb)

theorem emptyPlan_badForm (one : Application) {r : Request} (h : r.body.length ≠ 0) (sel : Selector) :
    emptyPlan one r sel = .refuse (.plain .badValue) := if_neg fun hb => h (List.length_eq_zero_iff.2 hb)

theorem twoByteBody_badForm {body : List Byte} (h : body.length ≠ 2) : twoByteBody body = none := if_neg h

theorem parseProfile_badForm {body : List Byte} (h : body.length ≠ 9) : parseProfile body = none := by
  unfold parseProfile
  split
  · exact absurd rfl h
  · rfl

theorem parseEnables_badForm {body : List Byte} (h : body.length ≠ 6) : parseEnables body = none := by
  unfold parseEnables
  split
  · exact absurd rfl h
  · rfl

end Sys2Proof.Machine
end

section
/-! SUPPORT. Each request row by its code, and what the common checks answer (R170): O9. -/

namespace Sys2Proof.Machine

/-- An owner with an empty body refuses every other. -/
theorem RequestRow.ofEmptyBody {α : Type} {i : Instr} {code : Nat} {pick : Request → Option α} {own : α → State → State × Reply}
    (hexec : ∀ s, exec i s = .next (s.serve code pick (emptyBody own))) (hpick : ∀ r, pick r = none ↔ ¬ r.selectsFor code)
    (hcode : formLength code = some 0) : RequestRow i code :=
  .one pick (emptyBody own) noField hexec hpick fun _ x s _ hn hl =>
    emptyBody_badForm own (Option.some.inj (hcode.symm.trans hn) ▸ hl) x s

/-- A group row with an empty body refuses every other. -/
theorem RequestRow.ofEmptyPlan {i : Instr} {code : Nat} {one : Application}
    {answer : Request → State → TermNo → State × Status → Reply}
    (hexec : ∀ s, exec i s = .next (s.serveGroup code (emptyPlan one) answer)) (hcode : 10 ≤ code ∧ code ≤ 14)
    (hpick : ∀ r : Request, r.selector? = none ↔ ¬ r.selectsFor code) (hform : formLength code = some 0) : RequestRow i code :=
  .group (emptyPlan one) answer noField hexec hpick (.inr hcode) fun _ sel _ hn hl =>
    emptyPlan_badForm one (Option.some.inj (hform.symm.trans hn) ▸ hl) sel

/-- Every row that takes requests. -/
theorem requestRow {i : Instr} {code : Nat} (h : requestCode i = some code) : RequestRow i code := by
  have hany {n : Nat} (hn : n ∉ terminalCodes ∧ n ∉ carrierCodes ∧ n ∉ sectorCodes) (r : Request) :
      r.selector? = none ↔ ¬ r.selectsFor n := Request.selector?_for hn
  cases i with
  | powerOnReset | frameReceived | unknownRequest | discardedRecord | frameStart | recoveryPeriodReached | reclaim | lendCompare
  | warmCompare | fadeTimerExpiry | guardExpiry | admitWaitExpiry | effectiveFrameReached | applyFrameReached | settleCountEnd
  | yieldCountEnd | ageDiscard | carrierLost | carrierFound | slotOutcome | listClose => cases h
  | readTerminal => cases h; exact .ofEmptyBody (fun _ => rfl) (fun _ => Request.terminal?_for (by decide)) rfl
  | readCarrier => cases h; exact .ofEmptyBody (fun _ => rfl) (fun _ => Request.carrier?_for (by decide)) rfl
  | readQueue => cases h; exact .ofEmptyBody (fun _ => rfl) (fun _ => Request.carrier?_for (by decide)) rfl
  | carrierRestart => cases h; exact .ofEmptyBody (fun _ => rfl) (fun _ => Request.carrier?_for (by decide)) rfl
  | readProfile => cases h; exact .ofEmptyBody (fun _ => rfl) (fun _ => Request.sector?_for (by decide)) rfl
  | readEvents => cases h; exact .ofEmptyBody (fun _ => rfl) (fun _ => Request.sector?_for (by decide)) rfl
  | sectorReset => cases h; exact .ofEmptyBody (fun _ => rfl) (fun _ => Request.sector?_for (by decide)) rfl
  | readCounters => cases h; exact .ofEmptyBody (fun _ => rfl) (hany (by decide)) rfl
  | release => cases h; exact .ofEmptyPlan (fun _ => rfl) (by decide) (hany (by decide)) rfl
  | hold => cases h; exact .ofEmptyPlan (fun _ => rfl) (by decide) (hany (by decide)) rfl
  | permit => cases h; exact .ofEmptyPlan (fun _ => rfl) (by decide) (hany (by decide)) rfl
  | flushHeld => cases h; exact .ofEmptyPlan (fun _ => rfl) (by decide) (hany (by decide)) rfl
  | forceState =>
    cases h
    refine .group forcePlan linkAnswer noField (fun _ => rfl) (hany (by decide)) (.inr (by decide)) fun r sel n hn hl => ?_
    exact forcePlan_refuse (.inl (Option.some.inj hn ▸ hl)) sel
  | writeTerminal =>
    cases h
    exact .group writePlan writeAnswer noTermField (fun _ => rfl) (hany (by decide)) (.inl rfl) fun _ _ _ hn => nomatch hn
  | writeCarrier =>
    cases h
    exact .one Request.carrier? State.writeCarrierRequest noCarrierField (fun _ => rfl)
      (fun _ => Request.carrier?_for (by decide)) fun _ _ _ _ hn => nomatch hn
  | setSector =>
    cases h
    exact .one Request.sector? State.setSectorRequest noSectorField (fun _ => rfl)
      (fun _ => Request.sector?_for (by decide)) fun _ _ _ _ hn => nomatch hn
  | bindTag =>
    cases h
    refine .one Request.terminal? State.bindTagRequest noField (fun _ => rfl) (fun _ => Request.terminal?_for (by decide))
      fun r t s n hn hl => State.bindTagRequest_badTag ?_
    rw [Request.tag?, twoByteBody_badForm (Option.some.inj hn ▸ hl)]
    rfl
  | unbindTag =>
    cases h
    refine .one Request.terminal? State.unbindTagRequest noField (fun _ => rfl) (fun _ => Request.terminal?_for (by decide))
      fun r t s n hn hl => State.unbindTagRequest_badTag ?_
    rw [Request.tag?, twoByteBody_badForm (Option.some.inj hn ▸ hl)]
    rfl
  | readTag =>
    cases h
    refine .one Request.terminal? State.readTagRequest noField (fun _ => rfl) (fun _ => Request.terminal?_for (by decide))
      fun r t s n hn hl => ?_
    rw [State.readTagRequest, twoByteBody_badForm (Option.some.inj hn ▸ hl)]
  | loadProfile =>
    cases h
    refine .one Request.sector? State.loadProfileRequest noField (fun _ => rfl) (fun _ => Request.sector?_for (by decide))
      fun r x s n hn hl => ?_
    rw [State.loadProfileRequest, parseProfile_badForm (Option.some.inj hn ▸ hl)]
  | setNotices =>
    cases h
    refine .one Request.sector? State.setNoticesRequest noField (fun _ => rfl) (fun _ => Request.sector?_for (by decide))
      fun r x s n hn hl => ?_
    rw [State.setNoticesRequest, parseEnables_badForm (Option.some.inj hn ▸ hl)]

/-- An answer that changes nothing else. -/
theorem State.respond_only {i : Instr} {s : State} {r : Request} {a : Reply} (h : exec i s = .next (State.respond s s r a)) :
    ∃ u, exec i s = .next u ∧ Answered s u r a.status a.body ∧ OnlyAnswered s u :=
  ⟨_, h, State.respond_answered s s r a rfl rfl rfl, State.respond_onlyAnswered s r a⟩

section
variable {i : Instr} {code : Nat} (h : RequestRow i code) {s : State} {r : Request}
include h

/-- A body longer than its frame is refused first (R170). -/
theorem RequestRow.tooLong {rest : List Request} (hb : s.mgu.buffer = r :: rest) (hc : r.code.toNat = code)
    (hn : s.mgu.taking = none) (hl : r.rest.length < r.bodyLength) :
    ∃ u body, exec i s = .next u ∧ Answered s u r .badValue body ∧ OnlyAnswered s u := by
  obtain ⟨body, hexec⟩ : ∃ body, exec i s = .next (State.respond s s r { status := .badValue, body := body }) := by
    cases h with
    | one pick own blank hexec _ _ =>
      refine ⟨blank r, (hexec s).trans ?_⟩
      simp only [State.serve, hb, hc, hn, and_self, if_true, State.judge, hl]
    | group plan answer blank hexec _ _ _ =>
      refine ⟨blank r, (hexec s).trans ?_⟩
      simp only [State.serveGroup, hb, hc, hn, if_true, hl]
  obtain ⟨u, hu, hans, honly⟩ := State.respond_only hexec
  exact ⟨u, body, hu, hans, honly⟩

/-- A selector that the code does not allow is refused (R170). -/
theorem RequestRow.badSelector (hh : s.headIs r code) (hs : ¬ r.selectsFor code) :
    ∃ u, exec i s = .next u ∧ Answered s u r .badSelector [] ∧ OnlyAnswered s u := by
  refine State.respond_only (a := .plain .badSelector) ?_
  cases h with
  | one pick own blank hexec hpick _ => rw [hexec, State.serve_badSelector pick own blank hh ((hpick r).2 hs)]
  | group plan answer blank hexec hpick _ _ =>
    obtain ⟨rest, hb⟩ := State.headIs_buffer hh
    obtain ⟨-, hc, hl, hn⟩ := hh
    rw [hexec]
    simp only [State.serveGroup, hb, hc, hn, if_true, not_lt.2 hl, if_false, (hpick r).2 hs]

/-- A body in no form of its request is refused (R181). -/
theorem RequestRow.badForm (hh : s.headIs r code) (hs : r.selectsFor code) {n : Nat} (hn : formLength code = some n)
    (hl : r.body.length ≠ n) : ∃ u, exec i s = .next u ∧ Answered s u r .badValue [] ∧ OnlyAnswered s u := by
  refine State.respond_only (a := .plain .badValue) ?_
  cases h with
  | one pick own blank hexec hpick hform =>
    cases hp : pick r with
    | none => exact absurd hs ((hpick r).1 hp)
    | some x => rw [hexec, State.serve_head pick own blank hh hp, hform r x s n hn hl]
  | group plan answer blank hexec hpick _ hform =>
    cases hp : r.selector? with
    | none => exact absurd hs ((hpick r).1 hp)
    | some sel => rw [hexec, State.serveGroup_refuse answer blank hh hp (hform r sel n hn hl)]

/-- With another request at the head, or none, the row leaves the state (log 5). -/
theorem RequestRow.other (hc : ∀ r rest, s.mgu.buffer = r :: rest → r.code.toNat ≠ code) : exec i s = .next s := by
  cases h with
  | one pick own blank hexec _ _ =>
    rw [hexec]
    unfold State.serve
    split
    · rfl
    · next q rest hb => rw [if_neg fun hq => hc q rest hb hq.1]
  | group plan answer blank hexec _ _ _ =>
    rw [hexec]
    unfold State.serveGroup
    split
    · rfl
    · next q rest hb => rw [if_neg (hc q rest hb)]

/-- While a group request is being taken, the rows that are no group rows leave the state (log 5). -/
theorem RequestRow.waits (hnot : code ≠ 2 ∧ ¬ (10 ≤ code ∧ code ≤ 14)) (ht : s.mgu.taking ≠ none) : exec i s = .next s := by
  cases h with
  | one pick own blank hexec _ _ =>
    rw [hexec]
    unfold State.serve
    split
    · rfl
    · next q rest hb => rw [if_neg fun hq => ht hq.2]
  | group plan answer blank hexec _ hcode _ => exact absurd hcode (not_or.2 hnot)

end

theorem knownCode_iff {n : Nat} : knownCode n = false ↔ ¬ (1 ≤ n ∧ n ≤ 21) := by
  unfold knownCode
  rw [← Bool.not_eq_true, Bool.and_eq_true, decide_eq_true_eq, decide_eq_true_eq]

theorem State.serveUnknown_head {s : State} {r : Request} {rest : List Request} (hb : s.mgu.buffer = r :: rest) :
    s.serveUnknown = if knownCode r.code.toNat = false ∧ s.mgu.taking = none then State.respond s s r (.plain .unknownRequest)
      else s := by
  unfold State.serveUnknown
  rw [hb]

/-- A code and its form, where the request selects what its code allows (Table 12.6). -/
theorem form_of_code {code length : Nat} {r : Request} (hs : r.selects)
    (hf : (length = 0 ∧ ((code = 1 ∧ r.kind = 1) ∨ ((code = 9 ∨ code = 15 ∨ code = 21) ∧ r.kind = 2) ∨
       ((code = 7 ∨ code = 16 ∨ code = 20) ∧ r.kind = 3) ∨
       code = 10 ∨ code = 11 ∨ code = 13 ∨ code = 14 ∨ code = 18)) ∨
     (length = 2 ∧ (code = 3 ∨ code = 4 ∨ code = 5) ∧ r.kind = 1) ∨ (length = 9 ∧ code = 6 ∧ r.kind = 3) ∨
     (length = 6 ∧ code = 17 ∧ r.kind = 3) ∨ (length = 1 ∧ code = 12)) : formLength code = some length ∧ r.selectsFor code := by
  have hterminal {n : Nat} (hk : r.kind = 1) (h : n ∉ carrierCodes ∧ n ∉ sectorCodes) : r.selectsFor n :=
    ⟨hs, fun _ => hk, fun hn => absurd hn h.1, fun hn => absurd hn h.2⟩
  have hcarrier {n : Nat} (hk : r.kind = 2) (h : n ∉ terminalCodes ∧ n ∉ sectorCodes) : r.selectsFor n :=
    ⟨hs, fun hn => absurd hn h.1, fun _ => hk, fun hn => absurd hn h.2⟩
  have hsector {n : Nat} (hk : r.kind = 3) (h : n ∉ terminalCodes ∧ n ∉ carrierCodes) : r.selectsFor n :=
    ⟨hs, fun hn => absurd hn h.1, fun hn => absurd hn h.2, fun _ => hk⟩
  have hany {n : Nat} (h : n ∉ terminalCodes ∧ n ∉ carrierCodes ∧ n ∉ sectorCodes) : r.selectsFor n :=
    ⟨hs, fun hn => absurd hn h.1, fun hn => absurd hn h.2.1, fun hn => absurd hn h.2.2⟩
  rcases hf with ⟨rfl, hf⟩ | ⟨rfl, hc, hk⟩ | ⟨rfl, rfl, hk⟩ | ⟨rfl, rfl, hk⟩ | ⟨rfl, rfl⟩
  · rcases hf with ⟨rfl, hk⟩ | ⟨hc, hk⟩ | ⟨hc, hk⟩ | rfl | rfl | rfl | rfl | rfl
    · exact ⟨rfl, hterminal hk (by decide)⟩
    · rcases hc with rfl | rfl | rfl <;> exact ⟨rfl, hcarrier hk (by decide)⟩
    · rcases hc with rfl | rfl | rfl <;> exact ⟨rfl, hsector hk (by decide)⟩
    all_goals exact ⟨rfl, hany (by decide)⟩
  · rcases hc with rfl | rfl | rfl <;> exact ⟨rfl, hterminal hk (by decide)⟩
  · exact ⟨rfl, hsector hk (by decide)⟩
  · exact ⟨rfl, hsector hk (by decide)⟩
  · exact ⟨rfl, hany (by decide)⟩

/-- A kind that the code does not allow (Table 10.2). -/
theorem not_selectsFor {code : Nat} {r : Request}
    (h : ((code = 1 ∨ code = 3 ∨ code = 4 ∨ code = 5) ∧ r.kind ≠ 1) ∨
     ((code = 8 ∨ code = 9 ∨ code = 15 ∨ code = 21) ∧ r.kind ≠ 2) ∨
     ((code = 6 ∨ code = 7 ∨ code = 16 ∨ code = 17 ∨ code = 19 ∨ code = 20) ∧ r.kind ≠ 3)) : ¬ r.selectsFor code := by
  rintro ⟨-, ht, hc, hs⟩
  simp only [terminalCodes, carrierCodes, sectorCodes, List.mem_cons, List.not_mem_nil, or_false] at ht hc hs
  rcases h with ⟨hcode, hk⟩ | ⟨hcode, hk⟩ | ⟨hcode, hk⟩
  · exact hk (ht hcode)
  · exact hk (hc hcode)
  · exact hk (hs hcode)

/-- Settles O9: the checks of every row in their order, and what each row does not take. -/
theorem commonChecksRefuse : Obligations.CommonChecksRefuse := by
  refine ⟨fun i code r rest s hi hb hc hn => ⟨fun hl => (requestRow hi).tooLong hb hc hn hl, fun hl h1 h2 h3 => ?selector⟩,
    fun i code r s hi hh hk => (requestRow hi).badSelector hh (not_selectsFor hk), fun i code length r s hi hh hl hs hf => ?form,
    fun i code s hi hc => (requestRow hi).other hc, fun r rest s hb hn hc => ?unknown, fun r rest s hb h1 h2 => ?known,
    fun s hs => ?idle, fun i code s hi h2 hg ht => (requestRow hi).waits ⟨h2, hg⟩ ht⟩
  case selector =>
    refine (requestRow hi).badSelector ⟨by rw [hb]; rfl, hc, hl, hn⟩ fun hs => ?_
    rcases hs.1 with hs | hs | hs
    · exact h1 hs
    · exact h2 hs
    · exact h3 hs
  case form =>
    obtain ⟨hn, hfor⟩ := form_of_code hs hf
    exact (requestRow hi).badForm hh hfor hn hl
  case unknown =>
    refine State.respond_only (a := .plain .unknownRequest) ?_
    show Host.Outcome.next s.serveUnknown = _
    rw [State.serveUnknown_head hb, if_pos ⟨knownCode_iff.2 hc, hn⟩]
  case known =>
    show Host.Outcome.next s.serveUnknown = _
    rw [State.serveUnknown_head hb, if_neg fun h => knownCode_iff.1 h.1 ⟨h1, h2⟩]
  case idle =>
    show Host.Outcome.next s.serveUnknown = _
    cases hb : s.mgu.buffer with
    | nil => rw [State.serveUnknown, hb]
    | cons r rest => rw [State.serveUnknown_head hb, if_neg fun h => hs.elim (fun he => by rw [hb] at he; cases he) fun ht => ht h.2]

end Sys2Proof.Machine
end

section
/-! SUPPORT. The layouts of the reads (R32, R86, R103, R124, R172, Table 12.7): O11. -/

namespace Sys2Proof.Machine

/-! ### Codes by position (Chapter 12) -/

theorem LinkState.code_eq (x : LinkState) :
    x.code = [LinkState.held, .dark, .called, .trimming, .admitting, .serving, .fading, .guard].idxOf x := by cases x <;> rfl

theorem Cause.code_eq (x : Cause) :
    x.code = [Cause.none, .fade, .recall, .carrier, .rangeFail, .noPermit, .restart, .forced].idxOf x := by cases x <;> rfl

theorem DropPolicy.code_eq (x : DropPolicy) : x.code = [DropPolicy.dropNew, .dropOldest].idxOf x := by cases x <;> rfl

theorem BackPressure.code_eq (x : BackPressure) : x.code = [BackPressure.wait, .yielding].idxOf x := by cases x <;> rfl

theorem ReleaseBurst.code_eq (x : ReleaseBurst) :
    x.code = match x with | .continuous => 0 | .one => 1 | .two => 2 | .four => 4 | .eight => 8 := by cases x <;> rfl

theorem ReleaseState.code_eq (x : ReleaseState) :
    x.code = [ReleaseState.idle, .releasing, .paused, .yielding, .suspended].idxOf x := by cases x <;> rfl

theorem Trend.code_eq (x : Trend) : x.code = [Trend.falling, .steady, .rising, .unknown].idxOf x := by cases x <;> rfl

theorem Direction.code_eq (x : Direction) : x.code = if x = .stepDown then 0 else 1 := by cases x <;> rfl

theorem Modulation.code_eq (x : Modulation) :
    x.code = [Modulation.qpsk, .psk8, .qam16, .qam32, .qam64, .qam128, .qam256].idxOf x := by cases x <;> rfl

theorem CodeRate.code_eq (x : CodeRate) :
    x.code = [CodeRate.half, .twoThirds, .threeQuarters, .fiveSixths, .nineTenths].idxOf x := by cases x <;> rfl

theorem CarrierState.code_eq (x : CarrierState) : x.code = [CarrierState.disabled, .down, .up, .recovering].idxOf x := by
  cases x <;> rfl

theorem optional_eq {α : Type} (f : α → List Byte) (o : Option α) : optional f o = o.elim [] f := by cases o <;> rfl

theorem running_eq (b : Bool) : running b = be8 (if b then 0 else 1) := by cases b <;> rfl

/-! ### Field sets (Section 12.4) -/

theorem numberFrom_length (n : Nat) (l : List (List Byte)) : (numberFrom n l).length = l.length := by
  induction l generalizing n with
  | nil => rfl
  | cons v l ih => exact congrArg (· + 1) (ih (n + 1))

theorem numberFrom_bytes (n : Nat) (l : List (List Byte)) :
    ((numberFrom n l).map fun e => be8 e.code ++ be8 e.value.length ++ e.value) =
      (l.zipIdx n).map fun e => be8 e.2 ++ be8 e.1.length ++ e.1 := by
  induction l generalizing n with
  | nil => rfl
  | cons v l ih => exact congrArg (_ :: ·) (ih (n + 1))

/-- A read's entries, numbered from 1, as a field set. -/
theorem fieldSetBytes_numbered (l : List (List Byte)) : fieldSetBytes (numberFrom 1 l) =
    be8 l.length ++ ((l.zipIdx 1).map fun e => be8 e.2 ++ be8 e.1.length ++ e.1).flatten := by
  unfold fieldSetBytes
  rw [numberFrom_length, numberFrom_bytes]

/-! ### Taking a read -/

/-- A request with an empty body whose owner only reads: it is answered DONE with what the owner gives. -/
theorem exec_reads {α : Type} {i : Instr} {code : Nat} {pick : Request → Option α} {own : α → State → State × Reply} {s : State}
    {r : Request} {x : α} (hexec : exec i s = .next (s.serve code pick (emptyBody own))) (hb : r.body = []) (h : s.headIs r code)
    (hp : pick r = some x) {body : List Byte} (ho : own x s = (s, { status := .done, body := body })) :
    ∃ u, exec i s = .next u ∧ OnlyAnswered s u ∧ Answered s u r .done body := by
  have howner : emptyBody own r x s = (s, { status := .done, body := body }) := (if_pos hb).trans ho
  refine ⟨_, hexec, ?_⟩
  rw [State.serve_head pick (emptyBody own) noField h hp, howner]
  exact ⟨State.respond_onlyAnswered s r _, State.respond_answered s s r _ rfl rfl rfl⟩

/-- The reply DONE with bytes that are those of another layout. -/
theorem reads_congr {s : State} {a b : List Byte} (h : a = b) :
    (s, ({ status := .done, body := a } : Reply)) = (s, { status := .done, body := b }) := by rw [h]

/-! ### READ-CARRIER (R86) and READ-QUEUE (R103) -/

theorem SlotUse.marked_eq (u : SlotUse) : u.marked = decide (∃ t, u = .lent t true) := by
  cases u with
  | lent o m => cases m <;> simp [SlotUse.marked]
  | reentry | opened | traffic => simp [SlotUse.marked]

theorem Sector.homeOwner_eq (s : Sector) (c : CarrierNo) (y : SlotNo) : s.homeOwner c y =
    (List.finRange 256).find? fun t => s.bound c t && (s.term t).cfg.homeSlots.contains y := by
  unfold Sector.homeOwner Sector.boundTo allTerminals
  rw [List.find?_filter]
  simp only [Bool.decide_and, Bool.decide_eq_true]

theorem Sector.slotValue_eq (s : Sector) (c : CarrierNo) (y : SlotNo) :
    s.slotValue c y = be8 (if (s.homeOwner c y).isSome then 2 else if (s.car c).cfg.base.getLsbD y.val then 0 else 1) ++
      be8 (match (s.car c).slotUse y with | .reentry => 0 | .opened => 1 | .traffic _ => 2 | .lent _ _ => 3) ++
      be8 ((s.homeOwner c y).elim 0 fun t => t.val) ++
      be8 (if decide (∃ t, (s.car c).slotUse y = .lent t true) then 1 else 0) := by
  unfold Sector.slotValue bit
  rw [← SlotUse.marked_eq]
  dsimp only
  cases s.homeOwner c y with
  | some t => cases (s.car c).slotUse y <;> rfl
  | none =>
    unfold CarrierConfig.baseKind
    cases (s.car c).cfg.base.getLsbD y.val <;> cases (s.car c).slotUse y <;> rfl

theorem Row.bytes_eq (r : Row) : r.bytes = be16 r.frame.toNat ++ be8 (if r.filled then 1 else 0) ++
    ((List.finRange 32).map fun y => match r.cell y with
      | .empty => be8 0 ++ be8 0 ++ be8 0
      | .offered => be8 1 ++ be8 0 ++ be8 0
      | .granted t n => be8 2 ++ be8 t.val ++ be8 n).flatten := by
  unfold Row.bytes Cell.bytes
  rfl

theorem Sector.memberBytes_eq (s : Sector) (t : TermNo) : s.memberBytes t =
    be8 t.val ++ be8 (s.term t).range.attempts ++ bit (s.term t).range.warm ++ be8 (s.term t).range.settle ++
    bit (s.term t).range.grant.isSome ++ be16 ((s.term t).range.grant.elim 0 fun y => y.frame.toNat) ++
    be8 ((s.term t).range.grant.elim 0 fun y => y.slot.val) ++
    bit ((s.term t).range.grant.isSome && (s.term t).owed.grant.isNone) := by
  unfold Sector.memberBytes GrantRef.bytes
  dsimp only
  cases (s.term t).range.grant with
  | none => simp only [Option.elim_none, List.append_assoc]; rfl
  | some g => simp only [Option.elim_some, List.append_assoc]; rfl

theorem garbledCount_eq (w : Nat) (l : List OfferOutcome) :
    garbledCount w l = (l.drop (l.length - w)).countP fun y => decide (y = .garbled) := (List.countP_eq_length_filter ..).symm

theorem profileUsers_eq (s : Sector) (p : ProfileNo) : s.profileUsers p = (List.finRange 256).countP fun t =>
    (s.term t).cfg.configured && decide ((s.term t).ladder.current = p) := by
  unfold Sector.profileUsers Sector.configuredTerms allTerminals
  rw [List.countP_filter]
  simp only [Bool.and_comm]

/-! ### READ-TERMINAL (R32) -/

theorem PendingProfile.bytes_eq : PendingProfile.bytes = fun p => be8 p.target.val ++
    be8 (if p.direction = .stepDown then 0 else 1) ++ p.apply.elim [] fun f => be16 f.toNat := by
  funext p
  unfold PendingProfile.bytes
  rw [Direction.code_eq, optional_eq]

/-- Settles O11: each read answered with its owner's bytes, which are those of the layout. -/
theorem readsGiveTheirLayouts : Obligations.ReadsGiveTheirLayouts := by
  intro r s hb flag stopped grant fieldSet counters
  have hgrant (g : Option GrantRef) : optional GrantRef.bytes g = grant g := optional_eq _ _
  refine ⟨fun t h ht => ?terminal, fun h hs => ?profile, fun c h hc => ?carrier, fun c h hc => ?queue,
    fun t h ht => ?terminalCounters, fun c h hc => ?carrierCounters, fun h hs => ?sectorCounters⟩
  case terminal =>
    refine exec_reads rfl hb h (Request.terminal?_eq ht) (reads_congr ?_)
    refine (fieldSetBytes_numbered _).trans (congrArg fieldSet ?_)
    simp only [Terminal.values, TermConfig.values, LinkFields.values, Terminal.rangeValues, Terminal.ladderValues, hgrant,
      optional_eq, running_eq, LinkState.code_eq, Cause.code_eq, DropPolicy.code_eq, BackPressure.code_eq, ReleaseState.code_eq,
      Trend.code_eq, ReleaseBurst.code_eq, PendingProfile.bytes_eq, List.cons_append, List.nil_append]
    rfl
  case profile =>
    refine exec_reads rfl hb h (Request.sector?_eq hs) (reads_congr ?_)
    congr 2
    funext p
    simp only [Profile.bytes, profileUsers_eq, Modulation.code_eq, CodeRate.code_eq, List.append_assoc]
    rfl
  case carrier =>
    refine exec_reads rfl hb h (Request.carrier?_eq hc) (reads_congr ?_)
    refine (fieldSetBytes_numbered _).trans (congrArg fieldSet ?_)
    unfold Sector.carrierValues
    dsimp only
    rw [CarrierState.code_eq, funext Row.bytes_eq, funext (s.sector.slotValue_eq c)]
    simp only [Sector.homeOwner_eq]
    rfl
  case queue =>
    refine exec_reads rfl hb h (Request.carrier?_eq hc) (reads_congr ?_)
    simp only [garbledCount_eq]
    rw [funext s.sector.memberBytes_eq]
    rfl
  case terminalCounters => exact exec_reads rfl hb h (Request.selector?_terminal ht) rfl
  case carrierCounters => exact exec_reads rfl hb h (Request.selector?_carrier hc) rfl
  case sectorCounters => exact exec_reads rfl hb h (Request.selector?_sector hs) rfl

end Sys2Proof.Machine
end

section
/-! SUPPORT. READ-EVENTS and SET-NOTICES (R174, R175): O12. -/

namespace Sys2Proof.Machine

theorem flagByte_bool (b : Bool) : flagByte (if b then 1 else 0) = some b := by cases b <;> rfl

theorem flagByte_above {b : Byte} (h : 1 < b.toNat) : flagByte b = none := by
  unfold flagByte
  rw [if_neg fun h0 => absurd (h0 ▸ h) (by decide), if_neg fun h1 => absurd (h1 ▸ h) (by decide)]

theorem parseEnables_bools (a b c d e f : Bool) : parseEnables ([a, b, c, d, e, f].map fun x => if x then 1 else 0) =
    some { stateChange := a, carrier := b, rangeFail := c, storm := d, listFull := e, store := f } := by
  simp only [List.map_cons, List.map_nil, parseEnables, flagByte_bool]

theorem parseEnables_none {body : List Byte} (h : body.length ≠ 6 ∨ ∃ x ∈ body, 1 < x.toNat) : parseEnables body = none := by
  rcases h with h | ⟨x, hx, h⟩
  · exact parseEnables_badForm h
  · unfold parseEnables
    split
    · have hnone := flagByte_above h
      split
      · next h₁ h₂ h₃ h₄ h₅ h₆ =>
        simp only [List.mem_cons, List.not_mem_nil, or_false] at hx
        rcases hx with rfl | rfl | rfl | rfl | rfl | rfl <;> simp_all only [reduceCtorEq]
      · rfl
    · rfl

/-- The notice test, by its condition (R175). -/
theorem State.noticeTest_unmet {s : State}
    (h : ¬ (s.mgu.outstanding = false ∧ s.sector.events.enabledNonempty s.mgu.enables = true)) : s.noticeTest = s := if_neg h

theorem State.noticeTest_met {s : State} (h : s.mgu.outstanding = false ∧ s.sector.events.enabledNonempty s.mgu.enables = true) :
    s.noticeTest = s.sendNotice.flagNotice := if_pos h

theorem State.sendNotice_idle {s : State} (h : s.mgu.taking = none) : s.sendNotice =
    { s with npMgmt := s.npMgmt ++ [s.noticeFrame]
             mgu := { s.mgu with ctr := { s.mgu.ctr with notices := s.mgu.ctr.notices + 1 } } } := by
  unfold State.sendNotice
  rw [h]

theorem State.sendNotice_taking {s : State} {g : GroupTaking} (h : s.mgu.taking = some g) : s.sendNotice =
    { s with mgu := { s.mgu with taking := some { g with notices := g.notices ++ [s.noticeFrame] } } } := by
  unfold State.sendNotice
  rw [h]

/-- The frames handed with a response: it comes before those its request handed (R169). -/
theorem State.respond_frames {s t : State} (r : Request) (a : Reply) {more : List MgmtFrame} (h : t.npMgmt = s.npMgmt ++ more) :
    (State.respond s t r a).npMgmt = s.npMgmt ++ t.responseFrame r a :: more := by
  unfold State.respond
  rw [h, List.drop_left, List.append_assoc]
  rfl

/-- The state after SET-NOTICES has set the enables and the destination (R175). -/
def State.enabling (s : State) (n : NoticeEnables) (dest : Addr) : State :=
  { s with mgu := { s.mgu with enables := n, noticeDest := dest } }

theorem exec_setNotices {s : State} {r : Request} {n : NoticeEnables} (h : s.headIs r 17) (hs : r.selectsSector)
    (hn : parseEnables r.body = some n) :
    exec .setNotices s = .next (State.respond s (s.enabling n r.source).noticeTest r (.plain .done)) := by
  have hown : State.setNoticesRequest r () s = ((s.enabling n r.source).noticeTest, .plain .done) := by
    unfold State.setNoticesRequest
    rw [hn]
    rfl
  show Host.Outcome.next (s.serve 17 Request.sector? State.setNoticesRequest) = _
  rw [State.serve_head _ _ _ h (Request.sector?_eq hs), hown]

/-- Settles O12: the sets given and emptied; the enables set before the notice test. -/
theorem eventSetsAreReadAndEnabled : Obligations.EventSetsAreReadAndEnabled := by
  refine ⟨fun r s h hs hb hasc => ?events, fun r s h hs => ⟨fun a b c d e f hbody => ?enables, fun hbad => ?refused⟩⟩
  case events =>
    have hown : emptyBody State.readEventsRequest r () s = State.readEventsRequest () s := if_pos hb
    refine ⟨_, rfl, ?_⟩
    rw [State.serve_head Request.sector? _ _ h (Request.sector?_eq hs), hown]
    exact ⟨State.respond_answered s (State.readEventsRequest () s).1 r _ rfl rfl rfl, rfl,
      ⟨rfl, rfl, rfl, rfl, rfl, rfl, rfl, rfl, rfl, h.2.2.2, rfl⟩, rfl⟩
  case enables =>
    intro n notice
    have hparse : parseEnables r.body = some n := hbody ▸ parseEnables_bools a b c d e f
    refine ⟨_, exec_setNotices h hs hparse, ?_⟩
    by_cases hm : s.mgu.outstanding = false ∧ s.sector.events.enabledNonempty n = true
    · have hnotice : notice = true := Bool.and_eq_true_iff.2 ⟨decide_eq_true hm.1, hm.2⟩
      have htest : (s.enabling n r.source).noticeTest = (s.enabling n r.source).sendNotice.flagNotice := State.noticeTest_met hm
      rw [hnotice, htest, State.sendNotice_idle (show (s.enabling n r.source).mgu.taking = none from h.2.2.2)]
      refine ⟨State.respond_answered s _ r _ rfl rfl rfl, rfl, rfl, (Bool.or_true _).symm, rfl, ?_, rfl, rfl, rfl, rfl, rfl, rfl, rfl⟩
      rw [State.respond_frames r (.plain .done) (more := [(s.enabling n r.source).noticeFrame]) rfl, List.length_append]
      rfl
    · have hnotice : notice = false := Bool.eq_false_iff.2 fun hn => by
        obtain ⟨ho, hset⟩ := Bool.and_eq_true_iff.1 hn
        exact hm ⟨of_decide_eq_true ho, hset⟩
      have htest : (s.enabling n r.source).noticeTest = s.enabling n r.source := State.noticeTest_unmet hm
      rw [hnotice, htest]
      refine ⟨State.respond_answered s _ r _ rfl rfl rfl, rfl, rfl, (Bool.or_false _).symm, rfl, ?_, rfl, rfl, rfl, rfl, rfl, rfl, rfl⟩
      rw [State.respond_frames (s := s) (t := s.enabling n r.source) r (.plain .done) (more := []) (List.append_nil _).symm,
        List.length_append]
      rfl
  case refused =>
    have hown : State.setNoticesRequest r () s = (s, .plain .badValue) := by
      unfold State.setNoticesRequest
      rw [parseEnables_none hbad]
    refine State.respond_only (a := .plain .badValue) ?_
    show Host.Outcome.next (s.serve 17 Request.sector? State.setNoticesRequest) = _
    rw [State.serve_head _ _ _ h (Request.sector?_eq hs), hown]

end Sys2Proof.Machine
end

section
/-! SUPPORT. The notice test after events (R175): O13. -/

namespace Sys2Proof.Machine

/-! ### One event -/

/-- The condition of a notice, for event sets that became `e` (R175). -/
def State.noticeDue (s : State) (e : EventSets) : Prop :=
  e ≠ s.sector.events ∧ s.mgu.outstanding = false ∧ e.enabledNonempty s.mgu.enables = true

/-- The notice of the event sets `e` (R175, Section 12.4). -/
def State.noticeOf (s : State) (e : EventSets) : MgmtFrame :=
  { dest := s.mgu.noticeDest, source := s.mgu.station, code := 255, kind := 3, number := 0, value := 0, status := .done, body := e.bytes }

/-- From `s` to `u` one notice was formed when it was due, and none otherwise. -/
structure State.Noticed (s u : State) : Prop where
  handed : s.noticeDue u.sector.events → s.mgu.taking = none →
    u.npMgmt = s.npMgmt ++ [s.noticeOf u.sector.events] ∧ u.mgu.outstanding = true ∧
      u.mgu.ctr.notices = s.mgu.ctr.notices + 1 ∧ u.mgu.taking = none
  waits : s.noticeDue u.sector.events → ∀ g, s.mgu.taking = some g →
    u.npMgmt = s.npMgmt ∧ u.mgu.outstanding = true ∧ u.mgu.ctr.notices = s.mgu.ctr.notices ∧
      u.mgu.taking = some { g with notices := g.notices ++ [s.noticeOf u.sector.events] }
  quiet : ¬ s.noticeDue u.sector.events → u.npMgmt = s.npMgmt ∧ u.mgu.outstanding = s.mgu.outstanding ∧
    u.mgu.ctr.notices = s.mgu.ctr.notices ∧ u.mgu.taking = s.mgu.taking

theorem State.Noticed.rfl' (s : State) : s.Noticed s :=
  ⟨fun h => absurd rfl h.1, fun h => absurd rfl h.1, fun _ => ⟨rfl, rfl, rfl, rfl⟩⟩

/-- What the notice test looks at and changes is the same. -/
structure State.SameNotices (s t : State) : Prop where
  sector : t.sector = s.sector
  frames : t.npMgmt = s.npMgmt
  outstanding : t.mgu.outstanding = s.mgu.outstanding
  notices : t.mgu.ctr.notices = s.mgu.ctr.notices
  taking : t.mgu.taking = s.mgu.taking
  settings : t.mgu.station = s.mgu.station ∧ t.mgu.noticeDest = s.mgu.noticeDest ∧ t.mgu.enables = s.mgu.enables

theorem State.SameNotices.rfl' (s : State) : s.SameNotices s := ⟨rfl, rfl, rfl, rfl, rfl, rfl, rfl, rfl⟩

theorem State.Noticed.of_same {s t u v : State} (h : s.Noticed u) (hs : s.SameNotices t) (hu : u.SameNotices v) : t.Noticed v := by
  obtain ⟨hstation, hdest, henables⟩ := hs.settings
  have hdue (e : EventSets) : t.noticeDue e ↔ s.noticeDue e := by
    unfold State.noticeDue
    rw [hs.sector, hs.outstanding, henables]
  have hof (e : EventSets) : t.noticeOf e = s.noticeOf e := by
    unfold State.noticeOf
    rw [hstation, hdest]
  refine ⟨?_, ?_, ?_⟩ <;>
    rw [hdue, hs.taking, hs.frames, hs.notices, hu.sector, hu.frames, hu.outstanding, hu.notices, hu.taking]
  · rw [hof]; exact h.handed
  · rw [hof]; exact h.waits
  · rw [hs.outstanding]; exact h.quiet

theorem State.event_noticed (s : State) (f : Sector → Sector) : s.Noticed (s.event f) := by
  by_cases hdue : s.noticeDue (f s.sector).events
  · have hevent : s.event f = (s.onSector f).sendNotice.flagNotice := by
      unfold State.event
      dsimp only
      rw [if_neg (show ¬ (s.onSector f).sector.events = s.sector.events from hdue.1)]
      exact State.noticeTest_met ⟨hdue.2.1, hdue.2.2⟩
    have hs : (s.event f).sector.events = (f s.sector).events := congrArg Sector.events (State.event_sector s f)
    refine ⟨fun _ hn => ?_, fun _ g hg => ?_, fun hn => absurd (hs.symm ▸ hdue) hn⟩
    · rw [hs, hevent, State.sendNotice_idle (show (s.onSector f).mgu.taking = none from hn)]
      exact ⟨rfl, rfl, rfl, hn⟩
    · rw [hs, hevent, State.sendNotice_taking (show (s.onSector f).mgu.taking = some g from hg)]
      exact ⟨rfl, rfl, rfl, rfl⟩
  · have hevent : s.event f = s.onSector f := by
      unfold State.event
      dsimp only
      split
      · rfl
      · next hne => exact State.noticeTest_unmet fun hm => hdue ⟨hne, hm.1, hm.2⟩
    rw [hevent]
    exact ⟨fun h => absurd h hdue, fun h => absurd h hdue, fun _ => ⟨rfl, rfl, rfl, rfl⟩⟩

/-- The enabled sets that are not empty, one by one (R175). -/
theorem EventSets.enabledNonempty_iff (e : EventSets) (n : NoticeEnables) : e.enabledNonempty n = true ↔
    (n.stateChange = true ∧ e.stateChange ≠ []) ∨ (n.carrier = true ∧ e.carrier ≠ []) ∨
      (n.rangeFail = true ∧ e.rangeFail ≠ []) ∨ (n.storm = true ∧ e.storm ≠ []) ∨
      (n.listFull = true ∧ e.listFull ≠ []) ∨ (n.store = true ∧ (e.storeLow = true ∨ e.storeExhausted = true)) := by
  have hempty {α : Type} (l : List α) : (!l.isEmpty) = true ↔ l ≠ [] := by cases l <;> simp
  unfold EventSets.enabledNonempty
  simp only [Bool.or_eq_true, Bool.and_eq_true, hempty, or_assoc]

/-! ### Commands that are one event -/

theorem Mgu.admitFrame_notices (m : Mgu) (bytes : List Byte) : (m.admitFrame bytes).outstanding = m.outstanding ∧
    (m.admitFrame bytes).ctr.notices = m.ctr.notices ∧ (m.admitFrame bytes).taking = m.taking ∧
    (m.admitFrame bytes).station = m.station ∧ (m.admitFrame bytes).noticeDest = m.noticeDest ∧
    (m.admitFrame bytes).enables = m.enables := by
  rcases m.admitFrame_cases bytes with h | h | h | ⟨-, r, h⟩ <;> rw [h] <;> exact ⟨rfl, rfl, rfl, rfl, rfl, rfl⟩

theorem State.frameReceived_noticed (s : State) (bytes : List Byte) (ok : Bool) : s.Noticed (s.frameReceived bytes ok) := by
  have hquiet := State.Noticed.rfl' s
  cases ok with
  | false => exact hquiet.of_same (.rfl' s) ⟨rfl, rfl, rfl, rfl, rfl, rfl, rfl, rfl⟩
  | true =>
    rcases s.frameReceived_event bytes with h | ⟨i, -, f, h, -⟩
    · obtain ⟨ho, hk, ht, hsettings⟩ := s.mgu.admitFrame_notices bytes
      rw [h]
      exact hquiet.of_same (.rfl' s) ⟨rfl, rfl, ho, hk, ht, hsettings⟩
    · rw [h]
      exact (State.event_noticed (s.took i) f).of_same (t := s) ⟨rfl, rfl, rfl, rfl, rfl, rfl, rfl, rfl⟩ (.rfl' _)

theorem State.upstream_noticed {s m : State} (h : s.Noticed m) (t : TermNo) (payload : List (List Byte)) :
    s.Noticed (m.upstream t payload) := by
  obtain ⟨n, l, hu, -⟩ := m.upstream_cases t payload
  rw [hu]
  exact h.of_same (.rfl' s) ⟨rfl, rfl, rfl, rfl, rfl, rfl, rfl, rfl⟩

theorem State.slotOutcome_noticed (s : State) (c : CarrierNo) (u : FrameNo) (slot : SlotNo) (o : SlotResult) :
    s.Noticed (s.slotOutcome c u slot o) := by
  unfold State.slotOutcome
  dsimp only
  split
  · exact State.upstream_noticed (State.event_noticed s _) _ _
  · exact State.event_noticed s _

/-- A command that is one event (R175). -/
theorem exec_noticed {i : Instr} {s u : State} (hi : requestCode i = none) (hpower : ∀ x, i ≠ .powerOnReset x)
    (hunknown : i ≠ .unknownRequest) (hframe : ∀ c f order, i ≠ .frameStart c f order)
    (hrecord : ∀ bytes, i ≠ .discardedRecord bytes) (h : exec i s = .next u) : s.Noticed u := by
  have hevent {f : Sector → Sector} (hu : exec i s = .next (s.event f)) : s.Noticed u := by
    obtain rfl := Host.Outcome.next.inj (hu.symm.trans h)
    exact State.event_noticed s f
  cases i with
  | readTerminal | writeTerminal | bindTag | unbindTag | readTag | loadProfile | readProfile | writeCarrier | readCarrier
  | release | hold | forceState | permit | flushHeld | readQueue | readEvents | setNotices | readCounters | setSector
  | sectorReset | carrierRestart => cases hi
  | powerOnReset x => exact absurd rfl (hpower x)
  | unknownRequest => exact absurd rfl hunknown
  | frameStart c f order => exact absurd rfl (hframe c f order)
  | discardedRecord bytes => exact absurd rfl (hrecord bytes)
  | frameReceived bytes ok =>
    obtain rfl := Host.Outcome.next.inj h
    exact State.frameReceived_noticed s bytes ok
  | slotOutcome c w slot o =>
    obtain rfl := Host.Outcome.next.inj h
    split
    · exact State.slotOutcome_noticed s c w slot o
    · exact State.Noticed.rfl' s
  | recoveryPeriodReached | reclaim | lendCompare | warmCompare | fadeTimerExpiry | guardExpiry | admitWaitExpiry
  | effectiveFrameReached | applyFrameReached | settleCountEnd | yieldCountEnd | ageDiscard | carrierLost | carrierFound
  | listClose => exact hevent rfl

/-! ### Requests that are one event -/

/-- What a request that was at most one event answers: the response, then the notice that was due (R169, R175). -/
structure State.AnsweredNoticed (s u : State) (r : Request) : Prop where
  due : s.noticeDue u.sector.events → u.mgu.outstanding = true ∧ u.mgu.ctr.notices = s.mgu.ctr.notices + 1 ∧
    ∃ answer, u.npMgmt = s.npMgmt ++ [answer, s.noticeOf u.sector.events] ∧ answer.code = r.code ∧ answer.number = r.number
  quiet : ¬ s.noticeDue u.sector.events → u.mgu.outstanding = s.mgu.outstanding ∧ u.mgu.ctr.notices = s.mgu.ctr.notices ∧
    ∃ answer, u.npMgmt = s.npMgmt ++ [answer] ∧ answer.code = r.code ∧ answer.number = r.number

theorem State.Noticed.respond {s m : State} (h : s.Noticed m) (hn : s.mgu.taking = none) (r : Request) (a : Reply) :
    s.AnsweredNoticed (State.respond s m r a) r where
  due hd := by
    obtain ⟨hf, ho, hk, -⟩ := h.handed hd hn
    exact ⟨ho, hk, _, State.respond_frames r a hf, rfl, rfl⟩
  quiet hd := by
    obtain ⟨hf, ho, hk, -⟩ := h.quiet hd
    exact ⟨ho, hk, _, State.respond_frames r a (more := []) (hf.trans (List.append_nil _).symm), rfl, rfl⟩

theorem State.serve_noticed {α : Type} {s : State} {r : Request} {code : Nat} {pick : Request → Option α}
    {own : Request → α → State → State × Reply} {blank : Request → List Byte} (hr : s.mgu.buffer.head? = some r)
    (hc : r.code.toNat = code) (hn : s.mgu.taking = none) (hown : ∀ x, s.Noticed (own r x s).1) :
    s.AnsweredNoticed (s.serve code pick own blank) r := by
  obtain ⟨rest, hb⟩ := List.head?_eq_some_iff.1 hr
  have hserve : s.serve code pick own blank = State.respond s (s.judge pick own blank r).1 r (s.judge pick own blank r).2 := by
    unfold State.serve
    rw [hb]
    exact if_pos ⟨hc, hn⟩
  rw [hserve]
  refine State.Noticed.respond ?_ hn r _
  unfold State.judge
  split
  · exact .rfl' s
  · split
    · exact .rfl' s
    · exact hown _

theorem State.serveGroup_noticed {s : State} {r : Request} {code : Nat} {plan : Request → Selector → GroupPlan}
    {answer : Request → State → TermNo → State × Status → Reply} {blank : Request → List Byte} (hr : s.mgu.buffer.head? = some r)
    (hc : r.code.toNat = code) (hn : s.mgu.taking = none) (hk : r.kind = 1)
    (hplan : ∀ sel one, plan r sel = .apply one → ∀ t, s.Noticed (one s t).1) :
    s.AnsweredNoticed (s.serveGroup code plan answer blank) r := by
  obtain ⟨rest, hb⟩ := List.head?_eq_some_iff.1 hr
  have hrefuse (a : Reply) : s.AnsweredNoticed (State.respond s s r a) r := (State.Noticed.rfl' s).respond hn r a
  have hsel : r.selector? = r.terminal?.map .terminal := if_pos hk
  unfold State.serveGroup
  rw [hb]
  dsimp only
  rw [if_pos hc, hn]
  dsimp only
  split
  · exact hrefuse _
  · rw [hsel]
    cases r.terminal? with
    | none => exact hrefuse _
    | some t =>
      simp only [Option.map_some, State.beginGroup]
      cases hp : plan r (.terminal t) with
      | refuse a => exact hrefuse a
      | apply one => exact (hplan _ one hp t).respond hn r _

theorem applyLink_noticed (refuses : Terminal → Bool) (act : Sector → TermNo → Sector) (s : State) (t : TermNo) :
    s.Noticed (applyLink refuses act s t).1 := by
  unfold applyLink
  dsimp only
  split
  · exact State.event_noticed s _
  · exact .rfl' s

theorem writeOne_noticed (es : List FieldEntry) (s : State) (t : TermNo) : s.Noticed (writeOne es s t).1 := by
  unfold writeOne
  dsimp only
  split
  · exact State.event_noticed s _
  · exact .rfl' s

theorem emptyPlan_noticed {s : State} {r : Request} {one : Application} (h : ∀ t, s.Noticed (one s t).1) (sel : Selector)
    (x : Application) (hx : emptyPlan one r sel = .apply x) (t : TermNo) : s.Noticed (x s t).1 := by
  unfold emptyPlan at hx
  split at hx
  · cases hx; exact h t
  · cases hx

theorem forcePlan_noticed {s : State} {r : Request} (sel : Selector) (x : Application) (hx : forcePlan r sel = .apply x)
    (t : TermNo) : s.Noticed (x s t).1 := by
  unfold forcePlan at hx
  split at hx
  · split at hx
    · cases hx; exact applyLink_noticed _ _ s t
    · cases hx
  · cases hx
  · cases hx

theorem writePlan_noticed {s : State} {r : Request} (sel : Selector) (x : Application) (hx : writePlan r sel = .apply x)
    (t : TermNo) : s.Noticed (x s t).1 := by
  unfold writePlan at hx
  split at hx
  · cases hx
  · next es _ =>
    cases sel with
    | terminal _ => cases hx; exact writeOne_noticed es s t
    | carrier _ | sector =>
      dsimp only at hx
      split at hx
      · cases hx; exact writeOne_noticed es s t
      · cases hx

/-- A request that is at most one event (R175). -/
theorem exec_request_noticed {i : Instr} {code : Nat} {r : Request} {s u : State} (hi : requestCode i = some code)
    (hr : s.mgu.buffer.head? = some r) (hc : r.code.toNat = code) (hn : s.mgu.taking = none)
    (hk : (r.kind = 1 ∧ (code = 2 ∨ 10 ≤ code ∧ code ≤ 14)) ∨ code = 8 ∨ code = 21) (h : exec i s = .next u) :
    s.AnsweredNoticed u r := by
  have hgroup (hne : code ≠ 8 ∧ code ≠ 21) : r.kind = 1 := by
    rcases hk with hk | hk | hk
    · exact hk.1
    · exact absurd hk hne.1
    · exact absurd hk hne.2
  have hlink (hne : code ≠ 8 ∧ code ≠ 21) {refuses : Terminal → Bool} {act : Sector → TermNo → Sector}
      {answer : Request → State → TermNo → State × Status → Reply} :
      s.AnsweredNoticed (s.serveGroup code (emptyPlan (applyLink refuses act)) answer) r :=
    State.serveGroup_noticed hr hc hn (hgroup hne) (emptyPlan_noticed fun t => applyLink_noticed refuses act s t)
  cases i with
  | powerOnReset | frameReceived | unknownRequest | discardedRecord | frameStart | recoveryPeriodReached | reclaim | lendCompare
  | warmCompare | fadeTimerExpiry | guardExpiry | admitWaitExpiry | effectiveFrameReached | applyFrameReached | settleCountEnd
  | yieldCountEnd | ageDiscard | carrierLost | carrierFound | slotOutcome | listClose => cases hi
  | readTerminal | bindTag | unbindTag | readTag | loadProfile | readProfile | readCarrier | readQueue | readEvents | setNotices
  | readCounters | setSector | sectorReset => cases hi; omega
  | release | hold | permit | flushHeld =>
    cases hi
    obtain rfl := Host.Outcome.next.inj h
    exact hlink (by decide)
  | forceState =>
    cases hi
    obtain rfl := Host.Outcome.next.inj h
    exact State.serveGroup_noticed hr hc hn (hgroup (by decide)) forcePlan_noticed
  | writeTerminal =>
    cases hi
    obtain rfl := Host.Outcome.next.inj h
    exact State.serveGroup_noticed hr hc hn (hgroup (by decide)) writePlan_noticed
  | writeCarrier =>
    cases hi
    obtain rfl := Host.Outcome.next.inj h
    refine State.serve_noticed hr hc hn fun c => ?_
    unfold State.writeCarrierRequest
    split
    · exact .rfl' s
    · dsimp only
      split
      · exact State.event_noticed s _
      · exact .rfl' s
  | carrierRestart =>
    cases hi
    obtain rfl := Host.Outcome.next.inj h
    refine State.serve_noticed hr hc hn fun c => ?_
    unfold emptyBody State.carrierRestartRequest
    split
    · split
      · exact .rfl' s
      · exact State.event_noticed s _
    · exact .rfl' s

/-! ### Frame starts: events one after another (log 11) -/

/-- From `s` to `u`, both taking no request, events were made one after another, which formed at most one notice. -/
structure State.FrameNoticed (s u : State) : Prop where
  grown : s.sector.events.Grown u.sector.events
  settings : u.mgu.station = s.mgu.station ∧ u.mgu.noticeDest = s.mgu.noticeDest ∧ u.mgu.enables = s.mgu.enables ∧ u.mgu.taking = none
  due : s.noticeDue u.sector.events → u.mgu.outstanding = true ∧ u.mgu.ctr.notices = s.mgu.ctr.notices + 1 ∧
    ∃ e, u.npMgmt = s.npMgmt ++ [s.noticeOf e]
  quiet : ¬ s.noticeDue u.sector.events →
    u.npMgmt = s.npMgmt ∧ u.mgu.outstanding = s.mgu.outstanding ∧ u.mgu.ctr.notices = s.mgu.ctr.notices

theorem State.FrameNoticed.rfl' {s : State} (hn : s.mgu.taking = none) : s.FrameNoticed s :=
  ⟨.rfl' _, ⟨rfl, rfl, rfl, hn⟩, fun h => absurd rfl h.1, fun _ => ⟨rfl, rfl, rfl⟩⟩

theorem State.FrameNoticed.event {s : State} (hn : s.mgu.taking = none) {f : Sector → Sector}
    (hf : s.sector.events.Grown (f s.sector).events) : s.FrameNoticed (s.event f) := by
  have hnoticed := State.event_noticed s f
  obtain ⟨-, -, -, -, -, -, -, hstation, henables, hdest, -⟩ := State.event_only s f
  have htaking := (State.event_only s f).taking_none hn
  refine ⟨by rw [State.event_sector]; exact hf, ⟨hstation, hdest, henables, htaking⟩, fun hd => ?_, fun hd => ?_⟩
  · obtain ⟨hm, ho, hk, -⟩ := hnoticed.handed hd hn
    exact ⟨ho, hk, _, hm⟩
  · obtain ⟨hm, ho, hk, -⟩ := hnoticed.quiet hd
    exact ⟨hm, ho, hk⟩

/-- Event sets that grew and grew again are not what they were. -/
theorem EventSets.Grown.ne_of {a b c : EventSets} (h : a.Grown b) (g : b.Grown c) (hne : b ≠ a ∨ c ≠ b) : c ≠ a := by
  rintro rfl
  have hsize {x y : EventSets} (hx : x.Grown y) : x.size ≤ y.size := by
    rcases hx.more with he | hlt
    · rw [he]
    · exact hlt.le
  rcases hne with hne | hne
  · exact absurd (h.more.resolve_left hne) (not_lt.2 (hsize g))
  · exact absurd (g.more.resolve_left hne) (not_lt.2 (hsize h))

theorem State.FrameNoticed.trans {s a b : State} (h : s.FrameNoticed a) (g : a.FrameNoticed b) : s.FrameNoticed b := by
  obtain ⟨hstation, hdest, henables, -⟩ := h.settings
  obtain ⟨gstation, gdest, genables, gnone⟩ := g.settings
  have hof (e : EventSets) : a.noticeOf e = s.noticeOf e := by
    unfold State.noticeOf
    rw [hstation, hdest]
  suffices hboth : (s.noticeDue b.sector.events → b.mgu.outstanding = true ∧ b.mgu.ctr.notices = s.mgu.ctr.notices + 1 ∧
        ∃ e, b.npMgmt = s.npMgmt ++ [s.noticeOf e]) ∧
      (¬ s.noticeDue b.sector.events →
        b.npMgmt = s.npMgmt ∧ b.mgu.outstanding = s.mgu.outstanding ∧ b.mgu.ctr.notices = s.mgu.ctr.notices) from
    ⟨h.grown.trans g.grown, ⟨gstation.trans hstation, gdest.trans hdest, genables.trans henables, gnone⟩, hboth.1, hboth.2⟩
  by_cases hd : s.noticeDue a.sector.events
  · obtain ⟨ho, hk, e, hm⟩ := h.due hd
    have hnot : ¬ a.noticeDue b.sector.events := fun hb => absurd (ho.symm.trans hb.2.1) (by decide)
    obtain ⟨gm, go, gk⟩ := g.quiet hnot
    have hdue : s.noticeDue b.sector.events :=
      ⟨h.grown.ne_of g.grown (.inl hd.1), hd.2.1, g.grown.within _ hd.2.2⟩
    exact ⟨fun _ => ⟨go.trans ho, gk.trans hk, e, gm.trans hm⟩, fun hn => absurd hdue hn⟩
  · obtain ⟨hm, ho, hk⟩ := h.quiet hd
    by_cases hb : a.noticeDue b.sector.events
    · obtain ⟨go, gk, e, gm⟩ := g.due hb
      have hdue : s.noticeDue b.sector.events :=
        ⟨h.grown.ne_of g.grown (.inr hb.1), ho.symm.trans hb.2.1, henables ▸ hb.2.2⟩
      refine ⟨fun _ => ⟨go, by rw [gk, hk], e, by rw [gm, hm, hof]⟩, fun hn => absurd hdue hn⟩
    · obtain ⟨gm, go, gk⟩ := g.quiet hb
      have hnot : ¬ s.noticeDue b.sector.events := fun hs => by
        have hsame : b.sector.events = a.sector.events := by
          by_contra hne
          exact hb ⟨hne, ho.trans hs.2.1, henables.symm ▸ hs.2.2⟩
        exact hd (hsame ▸ hs)
      exact ⟨fun hs => absurd hs hnot, fun _ => ⟨gm.trans hm, go.trans ho, gk.trans hk⟩⟩

theorem State.FrameNoticed.foldl {α : Type} {f : State → α → State}
    (hf : ∀ (s : State) (x : α), s.mgu.taking = none → s.FrameNoticed (f s x)) (l : List α) {s : State} (hn : s.mgu.taking = none) :
    s.FrameNoticed (l.foldl f s) := by
  induction l generalizing s with
  | nil => exact .rfl' hn
  | cons x l ih => exact (hf s x hn).trans (ih (hf s x hn).settings.2.2.2)

theorem State.frameBlock_noticed (c : CarrierNo) (f : FrameNo) (s : State) (b : Block) (hn : s.mgu.taking = none) :
    s.FrameNoticed (s.frameBlock c f b) := by
  unfold State.frameBlock
  cases b with
  | csp => exact State.FrameNoticed.event (f := fun x => x.cspFrame c f) hn (Sector.cspFrame_lawful s.sector c f).grown
  | lsv =>
    exact State.FrameNoticed.foldl (fun x t hx => State.FrameNoticed.event (f := fun z => z.lsvFrame f t) hx
      (Sector.lsvFrame_lawful x.sector f t).grown) _ hn
  | rng => exact State.FrameNoticed.event (f := fun x => x.rngFrame c) hn (Sector.rngFrame_calm s.sector c).grown
  | pld => exact State.FrameNoticed.event (f := fun x => x.pldFrame c f) hn (Sector.pldFrame_calm s.sector c f).grown
  | hfs => exact State.FrameNoticed.event (f := fun x => x.hfsFrame c) hn (Sector.hfsFrame_calm s.sector c).grown

/-- Settles O13: one event's notice test, after the response of a request, and once in a frame start. -/
theorem noticeTestAfterEvents : Obligations.NoticeTestAfterEvents := by
  refine ⟨fun i s u hi hpower hunknown hframe hrecord h => ?event, fun i code r s u hi hr hc hn hk h => ?request,
    fun c f order s u hn h => ?frame⟩
  case event =>
    intro e n set met notice
    have hdue : met ↔ s.noticeDue e := and_congr_right' (and_congr_right' (e.enabledNonempty_iff n).symm)
    have h := exec_noticed hi hpower hunknown hframe hrecord h
    exact ⟨fun hm => h.handed (hdue.1 hm), fun hm => h.waits (hdue.1 hm), fun hm => h.quiet fun hd => hm (hdue.2 hd)⟩
  case request =>
    intro e n set met notice
    have hdue : met ↔ s.noticeDue e := and_congr_right' (and_congr_right' (e.enabledNonempty_iff n).symm)
    have h := exec_request_noticed hi hr hc hn hk h
    exact ⟨fun hm => h.due (hdue.1 hm), fun hm => h.quiet fun hd => hm (hdue.2 hd)⟩
  case frame =>
    intro e n met
    have hdue : met ↔ s.noticeDue e := and_congr_right' (and_congr_right' (e.enabledNonempty_iff n).symm)
    obtain rfl := Host.Outcome.next.inj h
    have h := State.FrameNoticed.foldl (State.frameBlock_noticed c f) (blockOrder order) hn
    refine ⟨fun hm => ?_, fun hm => h.quiet fun hd => hm (hdue.2 hd)⟩
    obtain ⟨ho, hk, e', hframes⟩ := h.due (hdue.1 hm)
    exact ⟨ho, hk, _, hframes, rfl, rfl, rfl, rfl, rfl, rfl, rfl⟩

end Sys2Proof.Machine
end

section
/-! SUPPORT. SET-SECTOR (R176): O14. -/

namespace Sys2Proof.Machine

/-! ### Field sets as bytes (Section 12.4) -/

/-- One entry, its value as long as its length byte says, and the entries after it. -/
theorem parseEntries_cons {n : Nat} {c len : Byte} {v : List Byte} (h : v.length = len.toNat) (rest : List Byte) :
    parseEntries (n + 1) (c :: len :: (v ++ rest)) =
      (parseEntries n rest).map fun x => ({ code := c.toNat, value := v } :: x.1, x.2) := by
  have hlt : ¬ (v ++ rest).length < len.toNat := by rw [List.length_append]; omega
  rw [parseEntries, if_neg hlt, ← h, List.drop_left, List.take_left]
  cases parseEntries n rest <;> rfl

theorem parseFieldSet_one {c len : Byte} {v : List Byte} (h : v.length = len.toNat) :
    parseFieldSet ([1, c, len] ++ v) = some [{ code := c.toNat, value := v }] := by
  have hparse := parseEntries_cons (n := 0) (c := c) h []
  rw [List.append_nil] at hparse
  show (match parseEntries 1 (c :: len :: v) with
    | some (es, []) => some es
    | some (_, _ :: _) => none
    | none => none) = _
  rw [hparse]
  rfl

theorem parseFieldSet_two {c len d length : Byte} {v w : List Byte} (hv : v.length = len.toNat) (hw : w.length = length.toNat) :
    parseFieldSet ([2, c, len] ++ v ++ [d, length] ++ w) =
      some [{ code := c.toNat, value := v }, { code := d.toNat, value := w }] := by
  have hrest := parseEntries_cons (n := 0) (c := d) hw []
  have hparse := parseEntries_cons (n := 1) (c := c) hv (d :: length :: w)
  rw [List.append_nil] at hrest
  rw [List.append_assoc, List.append_assoc]
  show (match parseEntries 2 (c :: len :: (v ++ d :: length :: w)) with
    | some (es, []) => some es
    | some (_, _ :: _) => none
    | none => none) = _
  rw [hparse, hrest]
  rfl

/-! ### The checks and the settings (R176) -/

section
variable {s : State} {r : Request} (h : s.headIs r 19) (hs : r.selectsSector)
include h hs

theorem exec_setSector_answers {u : State} {a : Reply} (ho : State.setSectorRequest r () s = (u, a)) :
    exec .setSector s = .next (State.respond s u r a) := by
  show Host.Outcome.next (s.serve 19 Request.sector? State.setSectorRequest noSectorField) = _
  rw [State.serve_head _ _ _ h (Request.sector?_eq hs), ho]

/-- A SET-SECTOR that names field 0, its set having no form (log 13). -/
theorem setSector_unformed (hp : fieldSet sectorWidth r.body = none) :
    ∃ u, exec .setSector s = .next u ∧ Answered s u r .badValue [0] ∧ OnlyAnswered s u := by
  refine State.respond_only (a := { status := .badValue, body := [0] }) (exec_setSector_answers h hs ?_)
  unfold State.setSectorRequest
  rw [hp]
  rfl

theorem setSector_refuses {es : List FieldEntry} (hp : fieldSet sectorWidth r.body = some es) {l : List Nat} {field : Byte}
    (hl : sectorFailures es = l) (hne : l ≠ []) (hpick : pickField l = field.toNat) :
    ∃ u, exec .setSector s = .next u ∧ Answered s u r .badValue [field] ∧ OnlyAnswered s u := by
  refine State.respond_only (a := { status := .badValue, body := [field] }) (exec_setSector_answers h hs ?_)
  obtain ⟨x, rest, rfl⟩ := List.exists_cons_of_ne_nil hne
  unfold State.setSectorRequest
  rw [hp]
  dsimp only
  rw [hl]
  dsimp only
  rw [hpick, be8_toNat]

theorem setSector_takes {es : List FieldEntry} (hp : fieldSet sectorWidth r.body = some es) (hl : sectorFailures es = [])
    {station : Addr} {mark : Nat} (hset : es.foldl State.setSectorField s =
      { s with sector := { s.sector with storeLowMark := mark }, mgu := { s.mgu with station := station } }) :
    ∃ u, exec .setSector s = .next u ∧ Answered s u r .done (beBytes 6 station.toNat ++ be16 mark) ∧
      u.mgu.station = station ∧ u.sector = { s.sector with storeLowMark := mark } ∧
      OnlyAnswered s { u with sector := s.sector, mgu := { u.mgu with station := s.mgu.station } } := by
  have ho : State.setSectorRequest r () s =
      ({ s with sector := { s.sector with storeLowMark := mark }, mgu := { s.mgu with station := station } },
        { status := .done, body := beBytes 6 station.toNat ++ be16 mark }) := by
    unfold State.setSectorRequest
    rw [hp]
    dsimp only
    rw [hl]
    dsimp only
    rw [hset]
    rfl
  exact ⟨_, exec_setSector_answers h hs ho, State.respond_answered s _ r _ rfl rfl rfl, rfl, rfl,
    rfl, rfl, rfl, rfl, rfl, rfl, rfl, rfl, rfl, rfl, rfl, rfl⟩

end

theorem badStation_iff {v : List Byte} : badStation v = true ↔ beNat v = 0 ∨ (v.getD 0 0).getLsbD 0 = true := by
  unfold badStation byteAt
  rw [Bool.or_eq_true, decide_eq_true_eq]

/-- The field that one check names. -/
theorem pickField_one (n : Nat) : pickField [n] = n := rfl

/-- A field named twice is named once in a refusal. -/
theorem pickField_pair (n : Nat) : pickField [n, n] = n := by
  unfold pickField
  have hdup : [n, n].eraseDups = [n] := by simp [List.eraseDups_cons]
  rw [hdup]

theorem fieldSet_some {width : Nat → Nat → Bool} {body : List Byte} {es : List FieldEntry} (hp : parseFieldSet body = some es)
    (hw : widthsFit width es = true) : fieldSet width body = some es := by
  unfold fieldSet
  rw [hp]
  exact if_pos hw

theorem fieldSet_none {width : Nat → Nat → Bool} {body : List Byte} {es : List FieldEntry} (hp : parseFieldSet body = some es)
    (hw : ¬ widthsFit width es = true) : fieldSet width body = none := by
  unfold fieldSet
  rw [hp]
  exact if_neg hw

/-- The checks of a station address, when one is named, and of a store low mark, when one is (R176). -/
theorem sectorFailures_named {es : List FieldEntry} (hm : misnamed isSectorField es = []) {a m : Bool}
    (ha : (es.any fun e => decide (e.code = 1) && badStation e.value) = a)
    (hb : (es.any fun e => decide (e.code = 2) && decide (8192 < beNat e.value)) = m) :
    sectorFailures es = if a then [1] else if m then [2] else [] := by
  unfold sectorFailures
  rw [hm]
  dsimp only
  rw [ha, hb]

/-- A set of a station address `a` and a store low mark `m`, in either order. -/
theorem sectorFailures_both {es : List FieldEntry} {a m : List Byte} (he : es = [⟨1, a⟩, ⟨2, m⟩] ∨ es = [⟨2, m⟩, ⟨1, a⟩]) :
    sectorFailures es = if badStation a then [1] else if decide (8192 < beNat m) then [2] else [] := by
  rcases he with rfl | rfl <;> refine sectorFailures_named rfl ?_ ?_ <;>
    simp only [List.any_cons, List.any_nil, decide_true, Bool.true_and, Bool.or_false, OfNat.one_ne_ofNat, OfNat.ofNat_ne_one,
      decide_false, Bool.false_and, Bool.false_or]

theorem setSectorFields_both {es : List FieldEntry} {a m : List Byte} (he : es = [⟨1, a⟩, ⟨2, m⟩] ∨ es = [⟨2, m⟩, ⟨1, a⟩])
    (s : State) : es.foldl State.setSectorField s = { s with sector := { s.sector with storeLowMark := beNat m }
                                                             mgu := { s.mgu with station := BitVec.ofNat 48 (beNat a) } } := by
  rcases he with rfl | rfl <;> rfl

theorem misnamed_twice (c : Nat) (v w : List Byte) : misnamed isSectorField [⟨c, v⟩, ⟨c, w⟩] = [c, c] := by
  unfold misnamed
  simp only [List.countP_cons, decide_true, if_true, List.countP_nil, Nat.zero_add, Nat.reduceAdd, Nat.one_lt_ofNat, Bool.or_true,
    List.filter_cons, List.filter_nil, List.map_cons, List.map_nil]

theorem sectorFailures_twice (c : Nat) (v w : List Byte) : sectorFailures [⟨c, v⟩, ⟨c, w⟩] = [c, c] := by
  unfold sectorFailures
  rw [misnamed_twice]

theorem sectorFailures_unknown {c : Nat} (h1 : c ≠ 1) (h2 : c ≠ 2) (v : List Byte) : sectorFailures [⟨c, v⟩] = [c] := by
  have hm : misnamed isSectorField [⟨c, v⟩] = [c] := by
    unfold misnamed isSectorField
    simp only [h1, h2, decide_false, Bool.or_false, Bool.not_false, Bool.true_or, List.filter_cons, List.filter_nil, if_true,
      List.map_cons, List.map_nil]
  unfold sectorFailures
  rw [hm]

/-- Settles O14: the entries of each form, the first check that fails, and the settings named. -/
theorem setSectorTakesSettings : Obligations.SetSectorTakesSettings := by
  intro r s h hs bad refuses takes
  refine ⟨fun a m ha hm hb => ?both, fun a ha hb => ?station, fun m hm hb => ?mark, fun hb => ?nothing,
    fun code len v h1 h2 hv hb => ?unknown, fun a b ha hb' hb => ?stationTwice, fun m n hm hn hb => ?markTwice,
    fun len v hv hb => ?widths, fun hp => ?unformed⟩
  case both =>
    obtain ⟨es, hp, he⟩ : ∃ es, fieldSet sectorWidth r.body = some es ∧ (es = [⟨1, a⟩, ⟨2, m⟩] ∨ es = [⟨2, m⟩, ⟨1, a⟩]) := by
      rcases hb with hb | hb
      · refine ⟨_, fieldSet_some (hb ▸ parseFieldSet_two (len := 6) (length := 2) ha hm) ?_, .inl rfl⟩
        simp only [widthsFit, sectorWidth, List.all_cons, List.all_nil, ha, hm]
        decide
      · refine ⟨_, fieldSet_some (hb ▸ parseFieldSet_two (len := 2) (length := 6) hm ha) ?_, .inr rfl⟩
        simp only [widthsFit, sectorWidth, List.all_cons, List.all_nil, ha, hm]
        decide
    have hfail := sectorFailures_both he
    refine ⟨fun hbad => ?_, fun hgood hhigh => ?_, fun hgood hlow => ?_⟩
    · rw [if_pos (badStation_iff.2 hbad)] at hfail
      exact setSector_refuses h hs hp hfail (List.cons_ne_nil _ _) rfl
    · rw [if_neg fun hx => hgood (badStation_iff.1 hx), if_pos (decide_eq_true hhigh)] at hfail
      exact setSector_refuses h hs hp hfail (List.cons_ne_nil _ _) rfl
    · rw [if_neg fun hx => hgood (badStation_iff.1 hx), if_neg (by rw [decide_eq_true_eq]; omega)] at hfail
      exact setSector_takes h hs hp hfail (setSectorFields_both he s)
  case station =>
    have hp : fieldSet sectorWidth r.body = some [⟨1, a⟩] := by
      refine fieldSet_some (hb ▸ parseFieldSet_one (len := 6) ha) ?_
      simp only [widthsFit, sectorWidth, List.all_cons, List.all_nil, ha]
      decide
    have hfail : sectorFailures [⟨1, a⟩] = if badStation a then [1] else if false then [2] else [] :=
      sectorFailures_named rfl (Bool.or_false _) rfl
    refine ⟨fun hbad => ?_, fun hgood => ?_⟩
    · rw [if_pos (badStation_iff.2 hbad)] at hfail
      exact setSector_refuses h hs hp hfail (List.cons_ne_nil _ _) rfl
    · rw [if_neg fun hx => hgood (badStation_iff.1 hx)] at hfail
      exact setSector_takes h hs hp hfail rfl
  case mark =>
    have hp : fieldSet sectorWidth r.body = some [⟨2, m⟩] := by
      refine fieldSet_some (hb ▸ parseFieldSet_one (len := 2) hm) ?_
      simp only [widthsFit, sectorWidth, List.all_cons, List.all_nil, hm]
      decide
    have hfail : sectorFailures [⟨2, m⟩] = if false then [1] else if decide (8192 < beNat m) then [2] else [] :=
      sectorFailures_named rfl rfl (Bool.or_false _)
    refine ⟨fun hhigh => ?_, fun hlow => ?_⟩
    · rw [if_pos (decide_eq_true hhigh)] at hfail
      exact setSector_refuses h hs hp hfail (List.cons_ne_nil _ _) rfl
    · rw [if_neg (show ¬ decide (8192 < beNat m) = true by rw [decide_eq_true_eq]; omega)] at hfail
      exact setSector_takes h hs hp hfail rfl
  case nothing => exact setSector_takes (es := []) h hs (fieldSet_some (hb ▸ rfl) rfl) rfl rfl
  case unknown =>
    have hne {n : Byte} (hc : code ≠ n) : code.toNat ≠ n.toNat := fun he => hc (BitVec.eq_of_toNat_eq he)
    have hp : fieldSet sectorWidth r.body = some [⟨code.toNat, v⟩] := by
      refine fieldSet_some (hb ▸ parseFieldSet_one hv) ?_
      unfold widthsFit sectorWidth
      simp only [List.all_cons, List.all_nil, Bool.and_true]
      split
      · next he => exact absurd he (hne h1)
      · next he => exact absurd he (hne h2)
      · rfl
    exact setSector_refuses h hs hp (sectorFailures_unknown (hne h1) (hne h2) v) (List.cons_ne_nil _ _) rfl
  case stationTwice =>
    have hp : fieldSet sectorWidth r.body = some [⟨1, a⟩, ⟨1, b⟩] := by
      refine fieldSet_some (hb ▸ parseFieldSet_two (len := 6) (length := 6) ha hb') ?_
      simp only [widthsFit, sectorWidth, List.all_cons, List.all_nil, ha, hb']
      decide
    exact setSector_refuses h hs hp (sectorFailures_twice 1 a b) (List.cons_ne_nil _ _) (pickField_pair 1)
  case markTwice =>
    have hp : fieldSet sectorWidth r.body = some [⟨2, m⟩, ⟨2, n⟩] := by
      refine fieldSet_some (hb ▸ parseFieldSet_two (len := 2) (length := 2) hm hn) ?_
      simp only [widthsFit, sectorWidth, List.all_cons, List.all_nil, hm, hn]
      decide
    exact setSector_refuses h hs hp (sectorFailures_twice 2 m n) (List.cons_ne_nil _ _) (pickField_pair 2)
  case widths =>
    refine setSector_unformed h hs ?_
    have hne {n : Byte} (hl : len ≠ n) : v.length ≠ n.toNat := fun he => hl (BitVec.eq_of_toNat_eq (hv.symm.trans he))
    rcases hb with ⟨hb, hl⟩ | ⟨hb, hl⟩
    · refine fieldSet_none (hb ▸ parseFieldSet_one hv) fun hw => ?_
      simp only [widthsFit, List.all_cons, List.all_nil, Bool.and_true] at hw
      exact hne hl (of_decide_eq_true hw)
    · refine fieldSet_none (hb ▸ parseFieldSet_one hv) fun hw => ?_
      simp only [widthsFit, List.all_cons, List.all_nil, Bool.and_true] at hw
      exact hne hl (of_decide_eq_true hw)
  case unformed =>
    refine setSector_unformed h hs ?_
    unfold fieldSet
    rw [hp]

end Sys2Proof.Machine
end

section
/-! SUPPORT. WRITE-CARRIER (R68, R70, R79): its checks, and what an accepted one makes of its carrier: O20 and O21. -/

namespace Sys2Proof.Machine

/-! ### Slots that take a kind by their own (R79) -/

theorem Carrier.slotUse_foldl {g : SlotNo → SlotUse → SlotUse} (hg : ∀ y u, g y (g y u) = g y u) (l : List SlotNo) (k : Carrier)
    (x : SlotNo) : (l.foldl (fun j y => j.setSlot y (g y (j.slotUse y))) k).slotUse x =
      if x ∈ l then g x (k.slotUse x) else k.slotUse x := by
  induction l generalizing k with
  | nil => rfl
  | cons y l ih =>
    rw [List.foldl_cons, ih, Carrier.slotUse_setSlot]
    by_cases hx : x = y
    · subst hx
      simp only [if_true, List.mem_cons, true_or, hg, ite_self]
    · simp only [hx, if_false, List.mem_cons, false_or]

theorem SlotUse.rebase_idem (cfg : CarrierConfig) (y : SlotNo) (u : SlotUse) :
    (u.rebase (cfg.baseKind y)).rebase (cfg.baseKind y) = u.rebase (cfg.baseKind y) := by
  unfold CarrierConfig.baseKind
  cases u <;> cases cfg.base.getLsbD y.val <;> rfl

theorem Carrier.configure_slotUse (k : Carrier) (new : CarrierConfig) (x : SlotNo) :
    (k.configure new).slotUse x = (k.slotUse x).rebase (new.baseKind x) := by
  unfold Carrier.configure
  rw [Carrier.slotUse_foldl (g := fun y u => u.rebase (new.baseKind y)) fun y u => SlotUse.rebase_idem new y u]
  exact if_pos (List.mem_finRange x)

theorem Carrier.configure_frame (k : Carrier) (new : CarrierConfig) :
    { k.configure new with slots := [] } = { k with cfg := new, slots := [] } := by
  unfold Carrier.configure
  exact Carrier.foldl_setSlot_standing (fun j y => (j.slotUse y).rebase (new.baseKind y)) allSlots { k with cfg := new }

theorem Carrier.configure_rest (k : Carrier) (new : CarrierConfig) : (k.configure new).state = k.state ∧
    (k.configure new).calendar = k.calendar := by
  have h := k.configure_frame new
  generalize k.configure new = j at h ⊢
  have hstate := congrArg Carrier.state h
  have hcalendar := congrArg Carrier.calendar h
  exact ⟨hstate, hcalendar⟩

/-! ### One carrier changed, and at most marks of records -/

/-- From `s` to `u` the record of carrier `c` became `k` and the event sets `e`; no configuration, link fields or held frames of a
terminal changed, nor the Profile Table, nor what was handed to the modem. -/
structure Sector.Governed (s : Sector) (c : CarrierNo) (k : Carrier) (e : EventSets) (u : Sector) : Prop where
  records : ∀ t, (u.term t).cfg = (s.term t).cfg ∧ (u.term t).link = (s.term t).link ∧ (u.term t).hold = (s.term t).hold
  onlyCar : OnlyCarrier s u c
  car : u.car c = k
  events : u.events = e
  profiles : u.profiles = s.profiles
  handed : u.mlOut = s.mlOut

theorem Sector.Governed.rfl' (s : Sector) (c : CarrierNo) : s.Governed c (s.car c) s.events s :=
  ⟨fun _ => ⟨rfl, rfl, rfl⟩, fun _ _ => rfl, rfl, rfl, rfl, rfl⟩

section
variable {s a : Sector} {c : CarrierNo} {k : Carrier} {e : EventSets} (h : s.Governed c k e a)
include h

theorem Sector.Governed.modCar (f : Carrier → Carrier) : s.Governed c (f k) e (a.modCar c f) where
  records := h.records
  onlyCar d hd := (Sector.onlyCarrier_modCar a c f d hd).trans (h.onlyCar d hd)
  car := (Sector.car_modCar_self a c f).trans (congrArg f h.car)
  events := h.events
  profiles := h.profiles
  handed := h.handed

theorem Sector.Governed.setState (x : CarrierState) : s.Governed c { k with state := x }
    (if k.state = x then e else e.addCarrier c) (a.setCarrierState c x) := by
  have hset := h.modCar fun k => { k with state := x }
  unfold Sector.setCarrierState
  dsimp only
  rw [h.car]
  split
  · exact hset
  · exact { hset with events := congrArg (·.addCarrier c) hset.events }

theorem Sector.Governed.marks (t : TermNo) (f : OwedMarks → OwedMarks) : s.Governed c k e (a.modOwed t f) where
  records v := by
    unfold Sector.modOwed
    rw [Sector.term_modTerm]
    split
    · next hv => subst hv; exact h.records v
    · exact h.records v
  onlyCar := h.onlyCar
  car := h.car
  events := h.events
  profiles := h.profiles
  handed := h.handed

theorem Sector.Governed.clearCalendar : s.Governed c k.clearCalendar e (a.clearCalendar c) := by
  unfold Sector.clearCalendar
  have hcleared := h.modCar Carrier.clearCalendar
  generalize a.modCar c Carrier.clearCalendar = b at hcleared
  generalize a.boundTo c = l
  induction l generalizing b with
  | nil => exact hcleared
  | cons t l ih =>
    refine ih _ ?_
    dsimp only
    split
    · exact hcleared.marks t _
    · exact hcleared

end

/-! ### What an accepted write makes of the carrier (R68, R70) -/

/-- The carrier with enabled set to yes (R70). -/
def Carrier.enabling (k : Carrier) : Carrier := { k with state := .down, recovery := 0 }

/-- The carrier with enabled set to no (R70). -/
def Carrier.disabling (k : Carrier) : Carrier :=
  { k.clearCalendar with state := .disabled, recovery := 0, res := { k.res with window := [], exponent := 0 } }

/-- The carrier after a write of the settings `new`. -/
def Carrier.rewritten (new : CarrierConfig) (k : Carrier) : Carrier :=
  if k.cfg.enabled = new.enabled then k.configure new
  else if new.enabled then (k.configure new).enabling
  else (k.configure new).disabling

/-- The event sets after a write of the settings `new` (R69, R70). -/
def EventSets.rewritten (c : CarrierNo) (new : CarrierConfig) (k : Carrier) (e : EventSets) : EventSets :=
  if k.cfg.enabled = new.enabled ∨ k.state = (if new.enabled then .down else .disabled) then e else e.addCarrier c

theorem Sector.writeCarrier_governed (s : Sector) (c : CarrierNo) (new : CarrierConfig) :
    s.Governed c ((s.car c).rewritten new) (s.events.rewritten c new (s.car c)) (s.writeCarrier c new) := by
  have hset := (Sector.Governed.rfl' s c).modCar fun k => k.configure new
  obtain ⟨hstate, -⟩ := (s.car c).configure_rest new
  unfold Sector.writeCarrier Carrier.rewritten EventSets.rewritten
  dsimp only at hset ⊢
  generalize s.modCar c (fun k => k.configure new) = a at hset ⊢
  generalize (s.car c).configure new = j at hset hstate ⊢
  by_cases hsame : (s.car c).cfg.enabled = new.enabled
  · rw [if_pos hsame, if_pos hsame, if_pos (.inl hsame)]
    exact hset
  · rw [if_neg hsame, if_neg hsame]
    simp only [hsame, false_or]
    cases new.enabled with
    | true =>
      have hdown := (hset.setState .down).modCar fun k => { k with recovery := 0 }
      rw [hstate] at hdown
      exact hdown
    | false =>
      have hoff := ((hset.setState .disabled).clearCalendar).modCar fun k =>
        { k with recovery := 0, res := { k.res with window := [], exponent := 0 } }
      rw [hstate] at hoff
      exact hoff

theorem Carrier.rewritten_cfg (new : CarrierConfig) (k : Carrier) : (k.rewritten new).cfg = new := by
  have hcfg := k.configure_cfg new
  unfold Carrier.rewritten
  generalize k.configure new = j at hcfg ⊢
  split
  · exact hcfg
  · split
    · exact hcfg
    · exact hcfg

theorem Carrier.rewritten_slotUse (new : CarrierConfig) (k : Carrier) (x : SlotNo) :
    (k.rewritten new).slotUse x = (k.slotUse x).rebase (new.baseKind x) := by
  have huse := k.configure_slotUse new x
  unfold Carrier.rewritten
  generalize k.configure new = j at huse ⊢
  split
  · exact huse
  · split
    · exact huse
    · exact huse

/-! ### The checks of Table 4.3 -/

/-- A setting's code is one of Table 4.1. -/
theorem isCarrierField_iff {c : Nat} : isCarrierField c = true ↔ 1 ≤ c ∧ c ≤ 24 := by
  unfold isCarrierField
  rw [Bool.and_eq_true, decide_eq_true_eq, decide_eq_true_eq]

/-- A field set passes the check of order 2 (R68). -/
def CarrierConfig.Fits (old : CarrierConfig) (es : List FieldEntry) : Prop :=
  (∀ e ∈ es, 1 ≤ e.code ∧ e.code ≤ 24 ∧ (old.setField e).isSome = true) ∧ (es.map FieldEntry.code).Nodup ∧
    (old.withFields es).backoffLow < (old.withFields es).backoffHigh

theorem carrierRangeFailures_eq_nil {old : CarrierConfig} {es : List FieldEntry} :
    carrierRangeFailures old es = [] ↔ old.Fits es := by
  have hsingle : misnamed isCarrierField es ++
      (es.filter fun e => isCarrierField e.code && (old.setField e).isNone).map (·.code) = [] ↔
      (∀ e ∈ es, 1 ≤ e.code ∧ e.code ≤ 24 ∧ (old.setField e).isSome = true) ∧ (es.map FieldEntry.code).Nodup := by
    simp only [List.append_eq_nil_iff, misnamed_eq_nil, List.map_eq_nil_iff, List.filter_eq_nil_iff, Bool.and_eq_true, not_and,
      Option.isNone_iff_eq_none, isCarrierField_iff, Option.isSome_iff_ne_none, ne_eq]
    exact ⟨fun ⟨⟨hc, hn⟩, hv⟩ => ⟨fun e he => ⟨(hc e he).1, (hc e he).2, hv e he (hc e he)⟩, hn⟩,
      fun ⟨hv, hn⟩ => ⟨⟨fun e he => ⟨(hv e he).1, (hv e he).2.1⟩, hn⟩, fun e he _ => (hv e he).2.2⟩⟩
  unfold carrierRangeFailures CarrierConfig.Fits
  dsimp only
  rw [← and_assoc, ← hsingle]
  generalize misnamed isCarrierField es ++
    (es.filter fun e => isCarrierField e.code && (old.setField e).isNone).map (·.code) = single
  cases single with
  | cons x l => exact iff_of_false (fun h => List.cons_ne_nil _ _ (List.append_eq_nil_iff.1 h).1) fun h => List.cons_ne_nil _ _ h.1
  | nil =>
    rw [List.nil_append, ite_singleton_eq_nil]
    simp only [List.contains_nil, Bool.or_false, Bool.not_false, Bool.true_and, decide_eq_true_eq, not_le, true_and]

/-- The check of order 3 fails (R68, Table 4.3). -/
def Sector.CarrierHeld (s : Sector) (c : CarrierNo) (new : CarrierConfig) : Prop :=
  (new.base ≠ (s.car c).cfg.base ∧ (s.car c).state ≠ .disabled) ∨
    ((s.car c).cfg.enabled = true ∧ new.enabled = false ∧
      ∃ t, ((s.term t).cfg.configured = true ∧ (s.term t).cfg.carrier = c) ∧ (s.term t).link.state ≠ .held)

theorem Sector.carrierStateFailures_eq (s : Sector) (c : CarrierNo) (es : List FieldEntry) (new : CarrierConfig)
    [Decidable (s.CarrierHeld c new)] :
    s.carrierStateFailures c es new = if s.CarrierHeld c new then [lowestNamed es [1, 24]] else [] := by
  unfold Sector.carrierStateFailures
  dsimp only
  refine if_congr ?_ rfl rfl
  unfold Sector.CarrierHeld Sector.anyNotHeld
  simp only [Bool.or_eq_true, Bool.and_eq_true, decide_eq_true_eq, Bool.not_eq_true', List.any_eq_true, Sector.mem_boundTo, and_assoc]

/-- The check of order 4 fails (R68). -/
def Sector.CarrierClash (s : Sector) (c : CarrierNo) (new : CarrierConfig) : Prop :=
  ∃ t, ((s.term t).cfg.configured = true ∧ (s.term t).cfg.carrier = c) ∧
    ∃ z ∈ (s.term t).cfg.homeSlots, new.base.getLsbD z.val = true

theorem Sector.baseFailures_eq (s : Sector) (c : CarrierNo) (new : CarrierConfig) [Decidable (s.CarrierClash c new)] :
    s.baseFailures c new = if s.CarrierClash c new then [24] else [] := by
  have hbase (z : SlotNo) : new.baseKind z = .reentry ↔ new.base.getLsbD z.val = true := by
    unfold CarrierConfig.baseKind
    cases new.base.getLsbD z.val <;> decide
  unfold Sector.baseFailures
  refine if_congr ?_ rfl rfl
  unfold Sector.CarrierClash
  simp only [List.any_eq_true, decide_eq_true_eq, Sector.mem_boundTo, hbase]

theorem lowestNamed_states (es : List FieldEntry) [Decidable (∃ e ∈ es, e.code = 1)] [Decidable (∃ e ∈ es, e.code = 24)] :
    lowestNamed es [1, 24] = if ∃ e ∈ es, e.code = 1 then 1 else if ∃ e ∈ es, e.code = 24 then 24 else 0 := by
  unfold lowestNamed
  rw [← if_congr (names_iff (es := es) (c := 1)) rfl rfl, ← if_congr (names_iff (es := es) (c := 24)) rfl rfl]
  simp only [List.find?_cons, List.find?_nil]
  cases names es 1 <;> cases names es 24 <;> rfl

end Sys2Proof.Machine
end

section
/-! SUPPORT. WRITE-CARRIER (R68, R70): the status of the checks, the answer, and O20 and O21. -/

namespace Sys2Proof.Machine

/-! ### The outcome of the checks -/

section
variable {s : Sector} {c : CarrierNo} {es : List FieldEntry}

theorem Sector.carrierCheck_unfit (h : ¬ (s.car c).cfg.Fits es) : (s.carrierCheck c es).1 = .badValue := by
  cases hfail : carrierRangeFailures (s.car c).cfg es with
  | nil => exact absurd (carrierRangeFailures_eq_nil.1 hfail) h
  | cons x l => simp only [Sector.carrierCheck, hfail]

theorem Sector.carrierCheck_held (hfit : (s.car c).cfg.Fits es) (h : s.CarrierHeld c ((s.car c).cfg.withFields es)) :
    s.carrierCheck c es = (.wrongState, lowestNamed es [1, 24]) := by
  classical
  unfold Sector.carrierCheck
  simp only [carrierRangeFailures_eq_nil.2 hfit, Sector.carrierStateFailures_eq, if_pos h, pickField_one]

theorem Sector.carrierCheck_clash (hfit : (s.car c).cfg.Fits es) (hheld : ¬ s.CarrierHeld c ((s.car c).cfg.withFields es))
    (h : s.CarrierClash c ((s.car c).cfg.withFields es)) : s.carrierCheck c es = (.conflict, 24) := by
  classical
  unfold Sector.carrierCheck
  simp only [carrierRangeFailures_eq_nil.2 hfit, Sector.carrierStateFailures_eq, if_neg hheld, Sector.baseFailures_eq, if_pos h,
    pickField_one]

theorem Sector.carrierCheck_clear (hfit : (s.car c).cfg.Fits es) (hheld : ¬ s.CarrierHeld c ((s.car c).cfg.withFields es))
    (h : ¬ s.CarrierClash c ((s.car c).cfg.withFields es)) : s.carrierCheck c es = (.done, 0) := by
  classical
  unfold Sector.carrierCheck
  simp only [carrierRangeFailures_eq_nil.2 hfit, Sector.carrierStateFailures_eq, if_neg hheld, Sector.baseFailures_eq, if_neg h]

end

/-- The status of the checks, by what fails first (R68). -/
theorem Sector.carrierCheck_status (s : Sector) (c : CarrierNo) (es : List FieldEntry) :
    let new := (s.car c).cfg.withFields es
    let fits := (s.car c).cfg.Fits es
    let status := (s.carrierCheck c es).1
    (status = .badValue ↔ ¬ fits) ∧ (status = .wrongState ↔ fits ∧ s.CarrierHeld c new) ∧
    (status = .conflict ↔ fits ∧ ¬ s.CarrierHeld c new ∧ s.CarrierClash c new) ∧
    (status = .done ↔ fits ∧ ¬ s.CarrierHeld c new ∧ ¬ s.CarrierClash c new) := by
  intro new fits status
  by_cases hfit : fits
  · by_cases hheld : s.CarrierHeld c new
    · rw [show status = .wrongState from congrArg Prod.fst (Sector.carrierCheck_held hfit hheld)]
      simp [hfit, hheld]
    · by_cases hclash : s.CarrierClash c new
      · rw [show status = .conflict from congrArg Prod.fst (Sector.carrierCheck_clash hfit hheld hclash)]
        simp [hfit, hheld, hclash]
      · rw [show status = .done from congrArg Prod.fst (Sector.carrierCheck_clear hfit hheld hclash)]
        simp [hfit, hheld, hclash]
  · rw [show status = .badValue from Sector.carrierCheck_unfit hfit]
    simp [hfit]

/-! ### The answer -/

section
variable {s : State} {r : Request} {c : CarrierNo} (h : s.headIs r 8) (hc : r.selectsCarrier c)
include h hc

theorem exec_writeCarrier : exec .writeCarrier s =
    .next (State.respond s (s.writeCarrierRequest r c).1 r (s.writeCarrierRequest r c).2) :=
  congrArg Host.Outcome.next (State.serve_head Request.carrier? State.writeCarrierRequest noCarrierField h (Request.carrier?_eq hc))

theorem exec_writeCarrier_unformed (he : fieldSet carrierWidth r.body = none) :
    exec .writeCarrier s = .next (State.respond s s r { status := .badValue, body := be8 0 }) := by
  have hown : s.writeCarrierRequest r c = (s, { status := .badValue, body := be8 0 }) := by
    simp only [State.writeCarrierRequest, he, noCarrierField]
  rw [exec_writeCarrier h hc, hown]

variable {es : List FieldEntry} (he : fieldSet carrierWidth r.body = some es)
include he

theorem exec_writeCarrier_refused (hn : (s.sector.carrierCheck c es).1 ≠ .done) : exec .writeCarrier s =
    .next (State.respond s s r { status := (s.sector.carrierCheck c es).1, body := be8 (s.sector.carrierCheck c es).2 }) := by
  have hown : s.writeCarrierRequest r c =
      (s, { status := (s.sector.carrierCheck c es).1, body := be8 (s.sector.carrierCheck c es).2 }) := by
    simp only [State.writeCarrierRequest, he, hn, if_false]
  rw [exec_writeCarrier h hc, hown]

theorem exec_writeCarrier_accepted (hd : (s.sector.carrierCheck c es).1 = .done) :
    ∃ u, exec .writeCarrier s = .next u ∧ Answered s u r .done [] ∧ OnlyLinkAnswered s u ∧
      u.sector = s.sector.writeCarrier c ((s.sector.car c).cfg.withFields es) := by
  have hown : s.writeCarrierRequest r c =
      (s.event fun x => x.writeCarrier c ((x.car c).cfg.withFields es), .plain .done) := by
    simp only [State.writeCarrierRequest, he, hd, if_true]
  have hexec := exec_writeCarrier h hc
  rw [hown] at hexec
  have honly := State.event_only s fun x => x.writeCarrier c ((x.car c).cfg.withFields es)
  refine ⟨_, hexec, honly.answered r (.plain .done), honly.onlyLinkAnswered h.2.2.2 r (.plain .done), ?_⟩
  rw [State.respond_sector, State.event_sector]

end

/-! ### The carrier, by what becomes of enabled -/

theorem Carrier.rewritten_same {new : CarrierConfig} (k : Carrier) (h : k.cfg.enabled = new.enabled) :
    k.rewritten new = k.configure new := if_pos h

theorem Carrier.rewritten_enabled {new : CarrierConfig} (k : Carrier) (hold : k.cfg.enabled = false)
    (hnew : new.enabled = true) : k.rewritten new = (k.configure new).enabling := by
  simp [Carrier.rewritten, hold, hnew]

theorem Carrier.rewritten_disabled {new : CarrierConfig} (k : Carrier) (hold : k.cfg.enabled = true)
    (hnew : new.enabled = false) : k.rewritten new = (k.configure new).disabling := by
  simp [Carrier.rewritten, hold, hnew]

/-! ### The statements -/

/-- Settles O21: the status by the checks in their order, and the answer by the status. -/
theorem writeCarrierChecks : Obligations.WriteCarrierChecks := by
  unfold Obligations.WriteCarrierChecks
  intro c es s k new mine fits wrong clash status
  obtain ⟨hbad, hwrong, hclash, hdone⟩ := s.sector.carrierCheck_status c es
  refine ⟨hbad, hwrong, hclash, hdone, fun h => ?_, fun h => ?_, fun r h hc he => ?_⟩
  · obtain ⟨hfit, hheld⟩ := hwrong.1 h
    rw [Sector.carrierCheck_held hfit hheld]
    exact lowestNamed_states es
  · obtain ⟨hfit, hheld, hcl⟩ := hclash.1 h
    rw [Sector.carrierCheck_clash hfit hheld hcl]
  · by_cases hd : status = .done
    · obtain ⟨u, hexec, hans, -⟩ := exec_writeCarrier_accepted h hc he hd
      exact ⟨u, hexec, fun _ => hans, fun hn => absurd hd hn⟩
    · obtain ⟨u, hexec, hans, honly⟩ := State.respond_only (exec_writeCarrier_refused h hc he hd)
      exact ⟨u, hexec, fun hdone => absurd hdone hd, fun _ => ⟨honly, hans⟩⟩

/-- Settles O20: an accepted write governs its carrier alone, and what it makes of the carrier follows enabled. -/
theorem writeCarrierTakesSettings : Obligations.WriteCarrierTakesSettings := by
  unfold Obligations.WriteCarrierTakesSettings
  refine ⟨fun r c s h hc => ⟨fun he => ?unformed, fun es he hn => ?refused, fun es he hd => ?accepted⟩, ?effects⟩
  case unformed => exact State.respond_only (exec_writeCarrier_unformed h hc he)
  case refused =>
    obtain ⟨u, hu⟩ := State.respond_only (exec_writeCarrier_refused h hc he hn)
    exact ⟨u, _, hu⟩
  case accepted =>
    obtain ⟨u, hexec, hans, honly, hsec⟩ := exec_writeCarrier_accepted h hc he hd
    have hgov := s.sector.writeCarrier_governed c ((s.sector.car c).cfg.withFields es)
    rw [← hsec] at hgov
    refine ⟨u, hexec, hans, honly, ?_, hgov.onlyCar, hgov.records, hgov.profiles, hgov.handed⟩
    rw [hgov.car, Carrier.rewritten_cfg]
  case effects =>
    intro r c es s h hc he hd k new
    obtain ⟨u, hexec, -, -, hsec⟩ := exec_writeCarrier_accepted h hc he hd
    have hgov := s.sector.writeCarrier_governed c new
    rw [← hsec, show s.sector.car c = k from rfl] at hgov
    obtain ⟨hstate, hcalendar⟩ := k.configure_rest new
    have huse := k.rewritten_slotUse new
    refine ⟨u, hexec, fun hsame => ?same, fun hold hnew hoff => ?enabled, fun hold hnew hon => ?disabled, fun x => ?slots⟩
    case same =>
      rw [hgov.car, hgov.events, k.rewritten_same hsame, EventSets.rewritten, if_pos (.inl hsame)]
      exact ⟨hstate, hcalendar, rfl⟩
    case enabled =>
      have hout : ¬ (k.cfg.enabled = new.enabled ∨ k.state = (if new.enabled then .down else .disabled)) := by
        simp [hold, hnew, hoff]
      rw [hgov.car, hgov.events, k.rewritten_enabled hold hnew, EventSets.rewritten, if_neg hout]
      generalize k.configure new = j at hcalendar ⊢
      exact ⟨rfl, rfl, hcalendar, rfl⟩
    case disabled =>
      have hout : ¬ (k.cfg.enabled = new.enabled ∨ k.state = (if new.enabled then .down else .disabled)) := by
        simp [hold, hnew, hon]
      rw [hgov.car, hgov.events, k.rewritten_disabled hold hnew, EventSets.rewritten, if_neg hout]
      have hclear := congrArg (List.map fun (x : Row) => { x with filled := false, cells := [] }) hcalendar
      generalize k.configure new = j at hclear ⊢
      exact ⟨rfl, rfl, hclear, rfl, rfl, rfl⟩
    case slots =>
      rw [hgov.car, huse]
      cases k.slotUse x <;> rfl

end Sys2Proof.Machine
end

section
/-! SUPPORT. The records R180 discards, parser by parser: O33. -/

namespace Sys2Proof.Machine

/-! ### Bytes that name something -/

theorem carrierByte_eq_none {b : Byte} : carrierByte b = none ↔ 3 < b.toNat := by
  unfold carrierByte
  rw [dite_eq_right_iff]
  simp only [reduceCtorEq, imp_false, not_lt]
  rfl

theorem slotByte_eq_none {b : Byte} : slotByte b = none ↔ 31 < b.toNat := by
  unfold slotByte
  rw [dite_eq_right_iff]
  simp only [reduceCtorEq, imp_false, not_lt]
  rfl

theorem profileByte_eq_none {b : Byte} : profileByte b = none ↔ 7 < b.toNat := by
  unfold profileByte
  rw [dite_eq_right_iff]
  simp only [reduceCtorEq, imp_false, not_lt]
  rfl

theorem flagByte_eq_none {b : Byte} : flagByte b = none ↔ 1 < b.toNat := by
  refine ⟨fun h => ?_, flagByte_above⟩
  by_contra hb
  rw [flagByte_of_lt (by omega)] at h
  exact Option.some_ne_none _ h

theorem Byte.eq_iff {b : Byte} {n : Nat} (hn : n < 256) : b = BitVec.ofNat 8 n ↔ b.toNat = n := by
  rw [← BitVec.toNat_inj, BitVec.toNat_ofNat, Nat.mod_eq_of_lt hn]

/-! ### The payload of a traffic burst -/

theorem parsePayload_eq_none {n : Nat} {l : List Byte} : parsePayload n l = none ↔ ¬ payloadEnds n l := by
  induction n generalizing l with
  | zero => simp [parsePayload, payloadEnds]
  | succ n ih =>
    match l with
    | [] => simp [parsePayload, payloadEnds]
    | [_] => simp [parsePayload, payloadEnds]
    | hi :: lo :: l =>
      have hlen : 2 ≤ (hi :: lo :: l).length := by simp
      simp only [parsePayload, payloadEnds, hlen, true_and, List.take_succ_cons, List.take_zero, List.drop_succ_cons,
        List.drop_zero]
      split
      · next h => simp [h]
      · next h => simp [not_lt.1 h, Option.map_eq_none_iff, ih]

theorem parsePayload_append {n : Nat} {l : List Byte} {ps : List (List Byte)} (h : parsePayload n l = some ps)
    (extra : List Byte) : parsePayload n (l ++ extra) = some ps := by
  induction n generalizing l ps with
  | zero => exact h
  | succ n ih =>
    match l with
    | [] => exact nomatch h
    | [_] => exact nomatch h
    | hi :: lo :: l =>
      simp only [List.cons_append, parsePayload, List.length_append] at h ⊢
      split at h
      · exact nomatch h
      · next hl =>
        have hle := not_lt.1 hl
        rw [if_neg (by omega), List.drop_append_of_le_length hle, List.take_append_of_le_length hle]
        obtain ⟨qs, hqs, rfl⟩ := Option.map_eq_some_iff.1 h
        rw [ih hqs]
        rfl

/-! ### What a burst of each kind carries -/

/-- Byte `i` of a string as a number, 0 beyond its end. -/
def byteNat (l : List Byte) (i : Nat) : Nat := (l.getD i 0).toNat

theorem byteNat_zero (b : Byte) (l : List Byte) : byteNat (b :: l) 0 = b.toNat := rfl

theorem byteNat_succ (b : Byte) (l : List Byte) (i : Nat) : byteNat (b :: l) (i + 1) = byteNat l i := rfl

theorem byteNat_drop (l : List Byte) (n i : Nat) : byteNat (l.drop n) i = byteNat l (n + i) := by
  simp [byteNat, List.getD_eq_getElem?_getD, List.getElem?_drop]

/-- What follows the header of a burst of kind code `k` is malformed (R180, Table 12.2). -/
def kindMalformed (k : Nat) (l : List Byte) : Prop :=
  2 < k ∨
  (k = 0 ∧ (l.length < 2 ∨ 1 < byteNat l 0 ∨ 7 < byteNat l 1)) ∨
  (k = 1 ∧ l.length < 1) ∨
  (k = 2 ∧ (l.length < 3 ∨ 1 < byteNat l 1 ∨ ¬ payloadEnds (byteNat l 2) (l.drop 3)))

theorem parseKind_zero {l : List Byte} :
    parseKind 0 l = none ↔ l.length < 2 ∨ 1 < byteNat l 0 ∨ 7 < byteNat l 1 := by
  match l with
  | [] => simp [parseKind]
  | [_] => simp [parseKind]
  | lock :: prof :: l =>
    have hlen : ¬ (lock :: prof :: l).length < 2 := by simp
    simp only [parseKind, if_true, hlen, false_or, byteNat_zero, byteNat_succ, ← flagByte_eq_none,
      ← profileByte_eq_none]
    cases flagByte lock <;> cases profileByte prof <;> simp

theorem parseKind_one {l : List Byte} : parseKind 1 l = none ↔ l.length < 1 := by
  cases l with
  | nil => exact iff_of_true rfl (by simp)
  | cons x l => exact iff_of_false (Option.some_ne_none _) (by simp)

theorem parseKind_two {l : List Byte} :
    parseKind 2 l = none ↔ l.length < 3 ∨ 1 < byteNat l 1 ∨ ¬ payloadEnds (byteNat l 2) (l.drop 3) := by
  match l with
  | [] => simp [parseKind]
  | [_] => simp [parseKind]
  | [_, _] => simp [parseKind]
  | x :: pause :: n :: l =>
    have hlen : ¬ (x :: pause :: n :: l).length < 3 := by simp
    have h0 : ¬ (2 : Byte) = 0 := by decide
    have h1 : ¬ (2 : Byte) = 1 := by decide
    simp only [parseKind, h0, h1, if_false, if_true, hlen, false_or, byteNat_zero, byteNat_succ,
      List.drop_succ_cons, List.drop_zero, ← flagByte_eq_none, ← parsePayload_eq_none]
    cases flagByte pause <;> cases parsePayload n.toNat l <;> simp

theorem parseKind_eq_none {k : Byte} {l : List Byte} : parseKind k l = none ↔ kindMalformed k.toNat l := by
  have hcode {n : Nat} (hn : n < 256) (h : k ≠ BitVec.ofNat 8 n) : k.toNat ≠ n := fun e => h ((Byte.eq_iff hn).2 e)
  unfold kindMalformed
  by_cases h0 : k = 0
  · subst h0
    rw [parseKind_zero]
    simp
  · by_cases h1 : k = 1
    · subst h1
      rw [parseKind_one]
      simp
    · by_cases h2 : k = 2
      · subst h2
        rw [parseKind_two]
        simp
      · have hout : parseKind k l = none := by
          unfold parseKind
          rw [if_neg h0, if_neg h1, if_neg h2]
        have hn0 : k.toNat ≠ 0 := hcode (by decide) h0
        have hn1 : k.toNat ≠ 1 := hcode (by decide) h1
        have hn2 : k.toNat ≠ 2 := hcode (by decide) h2
        exact iff_of_true hout (.inl (by omega))

theorem parseKind_append {k : Byte} {l : List Byte} {b : BurstKind} (h : parseKind k l = some b) (extra : List Byte) :
    parseKind k (l ++ extra) = some b := by
  unfold parseKind at h ⊢
  split at h
  · next hk =>
    rw [if_pos hk]
    match l with
    | [] => exact nomatch h
    | [_] => exact nomatch h
    | lock :: prof :: l => exact h
  · next hk0 =>
    rw [if_neg hk0]
    split at h
    · next hk =>
      rw [if_pos hk]
      match l with
      | [] => exact nomatch h
      | x :: l => exact h
    · next hk1 =>
      rw [if_neg hk1]
      split at h
      · next hk =>
        rw [if_pos hk]
        match l with
        | [] => exact nomatch h
        | [_] => exact nomatch h
        | [_, _] => exact nomatch h
        | x :: pause :: n :: l =>
          dsimp only [List.cons_append] at h ⊢
          cases hps : parsePayload n.toNat l with
          | none =>
            rw [hps] at h
            cases hf : flagByte pause with
            | none => rw [hf] at h; exact nomatch h
            | some p => rw [hf] at h; exact nomatch h
          | some ps =>
            rw [hps] at h
            rw [parsePayload_append hps]
            exact h
      · exact nomatch h

/-! ### Bursts and slot outcomes -/

/-- A burst header is malformed (R180, Table 12.2). -/
def burstMalformed (l : List Byte) : Prop :=
  l.length < 5 ∨ kindMalformed (byteNat l 0) (l.drop 5) ∨ 100 < byteNat l 4 ∨
    (BitVec.ofNat 16 (256 * byteNat l 2 + byteNat l 3)).toInt < -4096 ∨
    4095 < (BitVec.ofNat 16 (256 * byteNat l 2 + byteNat l 3)).toInt

theorem parseBurst_eq_none {l : List Byte} : parseBurst l = none ↔ burstMalformed l := by
  unfold burstMalformed
  match l with
  | [] => simp [parseBurst]
  | [_] => simp [parseBurst]
  | [_, _] => simp [parseBurst]
  | [_, _, _] => simp [parseBurst]
  | [_, _, _, _] => simp [parseBurst]
  | k :: t :: hi :: lo :: snr :: l =>
    have hlen : ¬ (k :: t :: hi :: lo :: snr :: l).length < 5 := by simp
    simp only [parseBurst, hlen, false_or, byteNat_zero, byteNat_succ, List.drop_succ_cons, List.drop_zero,
      ← parseKind_eq_none, ← beNat_pair]
    cases parseKind k l with
    | none => simp
    | some kind =>
      simp only [reduceCtorEq, false_or, Burst.inRange, ite_eq_right_iff, Bool.and_eq_true, decide_eq_true_eq, imp_false]
      omega

theorem parseBurst_append {l : List Byte} {b : Burst} (h : parseBurst l = some b) (extra : List Byte) :
    parseBurst (l ++ extra) = some b := by
  match l with
  | [] => exact nomatch h
  | [_] => exact nomatch h
  | [_, _] => exact nomatch h
  | [_, _, _] => exact nomatch h
  | [_, _, _, _] => exact nomatch h
  | k :: t :: hi :: lo :: snr :: l =>
    dsimp only [parseBurst, List.cons_append] at h ⊢
    cases hk : parseKind k l with
    | none => rw [hk] at h; exact nomatch h
    | some kind =>
      rw [hk] at h
      rw [parseKind_append hk]
      exact h

/-- An outcome and its burst header are malformed (R180, Table 12.1). -/
def resultMalformed (l : List Byte) : Prop :=
  l.length < 1 ∨ 2 < byteNat l 0 ∨ (byteNat l 0 = 1 ∧ burstMalformed (l.drop 1))

theorem parseResult_eq_none {l : List Byte} : parseResult l = none ↔ resultMalformed l := by
  unfold resultMalformed
  cases l with
  | nil => simp [parseResult]
  | cons o l =>
    have hlen : ¬ (o :: l).length < 1 := by simp
    simp only [parseResult, hlen, false_or, byteNat_zero, List.drop_succ_cons, List.drop_zero]
    split
    · next h0 => subst h0; simp
    · next h0 =>
      split
      · next h1 => subst h1; simp [parseBurst_eq_none]
      · next h1 =>
        have hn0 : o.toNat ≠ 0 := fun h => h0 ((Byte.eq_iff (by decide)).2 h)
        have hn1 : o.toNat ≠ 1 := fun h => h1 ((Byte.eq_iff (by decide)).2 h)
        split
        · next h2 => subst h2; simp
        · next h2 =>
          have hn2 : o.toNat ≠ 2 := fun h => h2 ((Byte.eq_iff (by decide)).2 h)
          exact iff_of_true rfl (.inl (by omega))

theorem parseResult_append {l : List Byte} {o : SlotResult} (h : parseResult l = some o) (extra : List Byte) :
    parseResult (l ++ extra) = some o := by
  cases l with
  | nil => exact nomatch h
  | cons x l =>
    dsimp only [parseResult, List.cons_append] at h ⊢
    split at h
    · next h0 => rw [if_pos h0]; exact h
    · next h0 =>
      rw [if_neg h0]
      split at h
      · next h1 =>
        obtain ⟨b, hb, rfl⟩ := Option.map_eq_some_iff.1 h
        rw [if_pos h1, parseBurst_append hb]
        rfl
      · next h1 => rw [if_neg h1]; exact h

/-! ### Records -/

/-- What follows the type and carrier bytes of a record of type `ty` is malformed (R180). -/
def recordMalformed (ty : Nat) (l : List Byte) : Prop :=
  ty < 1 ∨ 5 < ty ∨ ((ty = 1 ∨ ty = 5) ∧ l.length < 2) ∨
    (ty = 4 ∧ (l.length < 3 ∨ 31 < byteNat l 2 ∨ resultMalformed (l.drop 3)))

theorem malformed_cons (ty cb : Byte) (l : List Byte) :
    malformed (ty :: cb :: l) ↔ 3 < cb.toNat ∨ recordMalformed ty.toNat l := by
  unfold malformed recordMalformed resultMalformed burstMalformed kindMalformed
  simp only [byteNat_drop, List.drop_drop, List.length_drop, Nat.reduceAdd]
  simp only [byteNat, List.length_cons, List.getD_cons_zero, List.getD_cons_succ, List.drop_succ_cons]
  by_cases hp : payloadEnds (l.getD 11 0).toNat (l.drop 12)
  · simp only [hp, not_true_eq_false, or_false]
    omega
  · simp only [hp, not_false_eq_true, or_true, and_true]
    omega

/-- A record of a frame number alone. -/
def frameRecord (f : FrameNo → MlRecord) : List Byte → Option MlRecord
  | hi :: lo :: _ => some (f (BitVec.ofNat 16 (beNat [hi, lo])))
  | _ => none

/-- A record of a slot outcome. -/
def outcomeRecord (c : CarrierNo) : List Byte → Option MlRecord
  | hi :: lo :: sb :: rest =>
    match slotByte sb, parseResult rest with
    | some slot, some o => some (.slotOutcome c (BitVec.ofNat 16 (beNat [hi, lo])) slot o)
    | _, _ => none
  | _ => none

/-- What follows the type and the carrier. -/
def typedRecord (ty : Byte) (c : CarrierNo) (l : List Byte) : Option MlRecord :=
  if ty = 1 then frameRecord (.frameStart c) l
  else if ty = 2 then some (.carrierLost c)
  else if ty = 3 then some (.carrierFound c)
  else if ty = 4 then outcomeRecord c l
  else if ty = 5 then frameRecord (.listClose c) l
  else none

theorem MlRecord.parse_cons (ty cb : Byte) (l : List Byte) :
    MlRecord.parse (ty :: cb :: l) = (carrierByte cb).bind fun c => typedRecord ty c l := by
  show (match carrierByte cb with | none => none | some c => typedRecord ty c l) = _
  cases carrierByte cb <;> rfl

theorem frameRecord_eq_none {f : FrameNo → MlRecord} {l : List Byte} : frameRecord f l = none ↔ l.length < 2 := by
  match l with
  | [] => simp [frameRecord]
  | [_] => simp [frameRecord]
  | _ :: _ :: l => simp [frameRecord]

theorem outcomeRecord_eq_none {c : CarrierNo} {l : List Byte} :
    outcomeRecord c l = none ↔ l.length < 3 ∨ 31 < byteNat l 2 ∨ resultMalformed (l.drop 3) := by
  match l with
  | [] => simp [outcomeRecord]
  | [_] => simp [outcomeRecord]
  | [_, _] => simp [outcomeRecord]
  | hi :: lo :: sb :: rest =>
    have hlen : ¬ (hi :: lo :: sb :: rest).length < 3 := by simp
    simp only [outcomeRecord, hlen, false_or, byteNat_zero, byteNat_succ, List.drop_succ_cons, List.drop_zero,
      ← slotByte_eq_none, ← parseResult_eq_none]
    cases slotByte sb <;> cases parseResult rest <;> simp

theorem typedRecord_eq_none {ty : Byte} {c : CarrierNo} {l : List Byte} :
    typedRecord ty c l = none ↔ recordMalformed ty.toNat l := by
  have h1 : ty = 1 ↔ ty.toNat = 1 := Byte.eq_iff (by decide)
  have h2 : ty = 2 ↔ ty.toNat = 2 := Byte.eq_iff (by decide)
  have h3 : ty = 3 ↔ ty.toNat = 3 := Byte.eq_iff (by decide)
  have h4 : ty = 4 ↔ ty.toNat = 4 := Byte.eq_iff (by decide)
  have h5 : ty = 5 ↔ ty.toNat = 5 := Byte.eq_iff (by decide)
  unfold typedRecord recordMalformed
  simp only [h1, h2, h3, h4, h5]
  generalize ty.toNat = n
  split
  · next h => subst h; simp [frameRecord_eq_none]
  · split
    · next h => subst h; simp
    · split
      · next h => subst h; simp
      · split
        · next h => subst h; simp [outcomeRecord_eq_none]
        · split
          · next h => subst h; simp [frameRecord_eq_none]
          · exact iff_of_true rfl (by omega)

theorem MlRecord.parse_eq_none {bytes : List Byte} : MlRecord.parse bytes = none ↔ malformed bytes := by
  match bytes with
  | [] => exact iff_of_true rfl (.inl (by decide))
  | [_] => exact iff_of_true rfl (.inl (by simp))
  | ty :: cb :: l =>
    rw [malformed_cons, ← carrierByte_eq_none, MlRecord.parse_cons]
    cases carrierByte cb with
    | none => simp
    | some c => simp [typedRecord_eq_none]

/-! ### Bytes after the last field -/

theorem frameRecord_append {f : FrameNo → MlRecord} {l : List Byte} {m : MlRecord} (h : frameRecord f l = some m)
    (extra : List Byte) : frameRecord f (l ++ extra) = some m := by
  match l with
  | [] => exact nomatch h
  | [_] => exact nomatch h
  | _ :: _ :: l => exact h

theorem outcomeRecord_append {c : CarrierNo} {l : List Byte} {m : MlRecord} (h : outcomeRecord c l = some m)
    (extra : List Byte) : outcomeRecord c (l ++ extra) = some m := by
  match l with
  | [] => exact nomatch h
  | [_] => exact nomatch h
  | [_, _] => exact nomatch h
  | hi :: lo :: sb :: rest =>
    dsimp only [outcomeRecord, List.cons_append] at h ⊢
    cases hs : slotByte sb with
    | none => rw [hs] at h; exact nomatch h
    | some z =>
      rw [hs] at h
      cases ho : parseResult rest with
      | none => rw [ho] at h; exact nomatch h
      | some o =>
        rw [ho] at h
        rw [parseResult_append ho]
        exact h

theorem typedRecord_append {ty : Byte} {c : CarrierNo} {l : List Byte} {m : MlRecord} (h : typedRecord ty c l = some m)
    (extra : List Byte) : typedRecord ty c (l ++ extra) = some m := by
  unfold typedRecord at h ⊢
  by_cases h1 : ty = 1
  · rw [if_pos h1] at h ⊢
    exact frameRecord_append h extra
  · by_cases h4 : ty = 4
    · subst h4
      exact outcomeRecord_append h extra
    · by_cases h5 : ty = 5
      · subst h5
        exact frameRecord_append h extra
      · simp only [h1, h4, h5, if_false] at h ⊢
        exact h

theorem MlRecord.parse_append {bytes : List Byte} {m : MlRecord} (h : MlRecord.parse bytes = some m) (extra : List Byte) :
    MlRecord.parse (bytes ++ extra) = some m := by
  match bytes with
  | [] => exact nomatch h
  | [_] => exact nomatch h
  | ty :: cb :: l =>
    rw [MlRecord.parse_cons] at h
    obtain ⟨c, hc, hty⟩ := Option.bind_eq_some_iff.1 h
    rw [List.cons_append, List.cons_append, MlRecord.parse_cons, hc]
    exact typedRecord_append hty extra

/-! ### The statement -/

/-- Settles O33: the parser refuses what is malformed, its result takes no further byte, and neither a refused record nor an
outcome out of range reaches the link side. -/
theorem malformedRecordDiscarded : Obligations.MalformedRecordDiscarded := by
  unfold Obligations.MalformedRecordDiscarded
  refine ⟨fun bytes => ⟨MlRecord.parse_eq_none, fun hgood extra => ?valid, fun s hbad => ?discarded⟩, fun c u slot o s hout => ?range⟩
  case valid =>
    cases hp : MlRecord.parse bytes with
    | none => exact absurd (MlRecord.parse_eq_none.1 hp) hgood
    | some m => exact MlRecord.parse_append hp extra
  case discarded =>
    show Host.Outcome.next (s.takeRecord bytes) = _
    rw [State.takeRecord, MlRecord.parse_eq_none.2 hbad]
  case range =>
    show Host.Outcome.next (if o.inRange then s.slotOutcome c u slot o else s) = _
    rw [if_neg (by simp [hout])]

end Sys2Proof.Machine
end

section
/-! SUPPORT. A frame start on the window and the frame counts (R77): O34. -/

namespace Sys2Proof.Machine

/-- Settles O34: a whole frame start moves the window and the frame count of its carrier and keeps the rest. -/
theorem frameStartMovesWindow : Obligations.FrameStartMovesWindow := by
  unfold Obligations.FrameStartMovesWindow
  intro c f order s
  have h := State.frameStart_moved s c f order
  have hcounted := h.counted
  simp only [Carrier.frames, Carrier.countFrame, Prod.mk.injEq] at hcounted
  obtain ⟨hlast, hstarts, hslips⟩ := hcounted
  refine ⟨_, rfl, State.frameStart_only s c f order, ⟨hlast, hstarts, hslips, h.window⟩, fun d hd => ?others, h.settings, h.cfg,
    h.profiles, h.storeLowMark, h.handed⟩
  case others =>
    have hframes := h.others d hd
    simp only [Carrier.frames, Prod.mk.injEq] at hframes
    obtain ⟨hlast, hstarts, -⟩ := hframes
    exact ⟨hlast, hstarts, h.rows d hd⟩

end Sys2Proof.Machine
end

section
/-! SUPPORT. What an accepted WRITE-TERMINAL makes of the slots, the schedules and the record (R24 to R26, R59, R79): O19. -/

namespace Sys2Proof.Machine

/-! ### Slots that leave and join the home slots (R79) -/

theorem Carrier.claimSlots_slotUse (k : Carrier) (t : TermNo) (l : List SlotNo) (x : SlotNo) :
    (k.claimSlots t l).slotUse x = if x ∈ l then .traffic t else k.slotUse x :=
  Carrier.slotUse_foldl (g := fun _ _ => .traffic t) (fun _ _ => rfl) l k x

theorem Carrier.releaseSlots_slotUse (k : Carrier) (l : List SlotNo) (x : SlotNo) :
    (k.releaseSlots l).slotUse x = if x ∈ l then k.cfg.baseKind x else k.slotUse x := by
  unfold Carrier.releaseSlots
  induction l generalizing k with
  | nil => rfl
  | cons y l ih =>
    rw [List.foldl_cons, ih, Carrier.slotUse_setSlot]
    by_cases hx : x = y
    · subst hx
      simp only [if_true, List.mem_cons, true_or]
      exact ite_self _
    · simp only [hx, if_false, List.mem_cons, false_or]
      rfl

/-- The carrier after terminal `t`'s configuration goes from `old` to `new`. -/
def Carrier.moved (t : TermNo) (old new : TermConfig) (c : CarrierNo) (k : Carrier) : Carrier :=
  (k.releaseSlots ((old.slotsOn c).filter fun x => !(new.slotsOn c).contains x)).claimSlots t
    ((new.slotsOn c).filter fun x => !(old.slotsOn c).contains x)

theorem Carrier.moved_slotUse (t : TermNo) (old new : TermConfig) (c : CarrierNo) (k : Carrier) (x : SlotNo) :
    (k.moved t old new c).slotUse x =
      if x ∈ new.slotsOn c ∧ x ∉ old.slotsOn c then .traffic t
      else if x ∈ old.slotsOn c ∧ x ∉ new.slotsOn c then k.cfg.baseKind x else k.slotUse x := by
  unfold Carrier.moved
  rw [Carrier.claimSlots_slotUse, Carrier.releaseSlots_slotUse]
  simp only [List.mem_filter, Bool.not_eq_true', List.contains_eq_mem, decide_eq_false_iff_not]

theorem Carrier.moved_res (t : TermNo) (old new : TermConfig) (c : CarrierNo) (k : Carrier) : (k.moved t old new c).res = k.res := by
  unfold Carrier.moved
  generalize (old.slotsOn c).filter (fun x => !(new.slotsOn c).contains x) = out
  generalize (new.slotsOn c).filter (fun x => !(old.slotsOn c).contains x) = into
  have hframe := (Carrier.foldl_setSlot_standing (fun _ _ => SlotUse.traffic t) into (k.releaseSlots out)).trans
    (Carrier.foldl_setSlot_standing (fun x slot => x.cfg.baseKind slot) out k)
  have hres := congrArg Carrier.res hframe
  exact hres

theorem mem_slotsOn {cfg : TermConfig} {c : CarrierNo} {x : SlotNo} :
    x ∈ cfg.slotsOn c ↔ cfg.configured = true ∧ cfg.carrier = c ∧ x ∈ cfg.homeSlots := by
  unfold TermConfig.slotsOn
  split
  · next h => simp [h]
  · next h => exact iff_of_false List.not_mem_nil fun hx => h ⟨hx.1, hx.2.1⟩

theorem Carrier.moved_slotUse_iff (t : TermNo) (old new : TermConfig) (c : CarrierNo) (k : Carrier) (x : SlotNo) :
    let before : Prop := old.configured = true ∧ old.carrier = c ∧ x ∈ old.homeSlots
    let after : Prop := new.configured = true ∧ new.carrier = c ∧ x ∈ new.homeSlots
    (after → ¬ before → (k.moved t old new c).slotUse x = .traffic t) ∧
    (before → ¬ after → (k.moved t old new c).slotUse x = k.cfg.baseKind x) ∧
    ((after ↔ before) → (k.moved t old new c).slotUse x = k.slotUse x) := by
  intro before after
  rw [Carrier.moved_slotUse]
  simp only [mem_slotsOn]
  refine ⟨fun ha hb => if_pos ⟨ha, hb⟩, fun hb ha => ?_, fun hab => ?_⟩
  · rw [if_neg fun h => ha h.1, if_pos ⟨hb, ha⟩]
  · rw [if_neg fun h => h.2 (hab.1 h.1), if_neg fun h => h.2 (hab.2 h.1)]

theorem foldl_modCar_car (f : CarrierNo → Carrier → Carrier) {l : List CarrierNo} (hl : l.Nodup) (s : Sector) (d : CarrierNo) :
    (l.foldl (fun s c => s.modCar c (f c)) s).car d = if d ∈ l then f d (s.car d) else s.car d := by
  induction l generalizing s with
  | nil => rfl
  | cons c l ih =>
    obtain ⟨hc, hl⟩ := List.nodup_cons.1 hl
    rw [List.foldl_cons, ih hl, Sector.car_modCar]
    by_cases hd : d = c
    · subst hd
      simp [hc]
    · simp [hd]

theorem foldl_moveSlots_car (t : TermNo) (old new : TermConfig) (s : Sector) (c : CarrierNo) :
    (allCarriers.foldl (moveSlots t old new) s).car c = (s.car c).moved t old new c :=
  (foldl_modCar_car (Carrier.moved t old new) (List.nodup_finRange 4) s c).trans (if_pos (List.mem_finRange c))

/-! ### The entry of a CALLED terminal (R26, R90) -/

theorem Scheduler.reclass_rest (t : TermNo) (cls : Fin 4) (q : Scheduler) :
    (q.reclass t cls).ranging = q.ranging ∧ (q.reclass t cls).nextOrder = q.nextOrder := by
  unfold Scheduler.reclass
  split <;> exact ⟨rfl, rfl⟩

theorem Scheduler.reclass_absent {t : TermNo} (cls : Fin 4) {q : Scheduler} (h : ¬ ∃ e ∈ q.queue, e.terminal = t) :
    q.reclass t cls = q := by
  unfold Scheduler.reclass
  split
  · rfl
  · next e he =>
    have het := List.find?_some (p := fun e : QueueEntry => decide (e.terminal = t)) he
    exact absurd ⟨e, List.mem_of_find?_eq_some he, of_decide_eq_true het⟩ h

section
variable {size : Nat} {cls : TermNo → Fin 4} {called trimming : TermNo → Prop} {q : Scheduler}
  (h : q.Planned size cls called trimming) {t : TermNo}
include h

/-- A terminal has one entry. -/
theorem Scheduler.Planned.entry_unique {a b : QueueEntry} (ha : a ∈ q.queue) (hb : b ∈ q.queue) (he : a.terminal = b.terminal) :
    a = b := List.inj_on_of_nodup_map h.terminals ha hb he

theorem Scheduler.Planned.mem_reclass (new : Fin 4) {e : QueueEntry} : e ∈ (q.reclass t new).queue ↔
    (e.terminal ≠ t ∧ e ∈ q.queue) ∨ (e.terminal = t ∧ e.cls = new ∧ { e with cls := cls t } ∈ q.queue) := by
  unfold Scheduler.reclass
  cases hf : q.queue.find? fun e : QueueEntry => decide (e.terminal = t) with
  | none =>
    have hnone : ∀ x ∈ q.queue, x.terminal ≠ t := by simpa [List.find?_eq_none] using hf
    exact ⟨fun he => .inl ⟨hnone e he, he⟩,
      fun he => he.elim (·.2) fun ⟨ht, _, hm⟩ => absurd ht (hnone { e with cls := cls t } hm)⟩
  | some x =>
    have hx : x ∈ q.queue := List.mem_of_find?_eq_some hf
    have hxt : x.terminal = t := of_decide_eq_true (List.find?_some (p := fun e : QueueEntry => decide (e.terminal = t)) hf)
    have hxc : x.cls = cls t := hxt ▸ h.classes x hx
    simp only [mem_enqueue, List.mem_filter, decide_eq_true_eq]
    constructor
    · rintro (rfl | ⟨he, ht⟩)
      · refine .inr ⟨hxt, rfl, ?_⟩
        rw [← hxc]
        exact hx
      · exact .inl ⟨ht, he⟩
    · rintro (⟨ht, he⟩ | ⟨ht, hc, hm⟩)
      · exact .inr ⟨he, ht⟩
      · have hsame : { e with cls := cls t } = x := h.entry_unique hm hx (ht.trans hxt.symm)
        left
        rw [← hsame, ← hc]

theorem Scheduler.Planned.reclass_ordered (new : Fin 4) (ht : called t) :
    (q.reclass t new).queue.Pairwise fun a b => a.cls < b.cls ∨ (a.cls = b.cls ∧ a.stamp < b.stamp) := by
  have hp := h.reclass (cls' := Function.update cls t new) ht fun u hu => Function.update_of_ne hu new cls
  rw [Function.update_self] at hp
  exact hp.ordered

/-- An entry that keeps its class keeps its place. -/
theorem Scheduler.Planned.reclass_same (ht : called t) : q.reclass t (cls t) = q := by
  have hp := h.reclass (cls' := cls) ht fun _ _ => rfl
  have hmem (e : QueueEntry) : e ∈ (q.reclass t (cls t)).queue ↔ e ∈ q.queue := by
    rw [h.mem_reclass]
    constructor
    · rintro (⟨-, he⟩ | ⟨-, hc, hm⟩)
      · exact he
      · rw [← hc] at hm
        exact hm
    · intro he
      by_cases het : e.terminal = t
      · refine .inr ⟨het, het ▸ h.classes e he, ?_⟩
        rw [show cls t = e.cls from (het ▸ h.classes e he).symm]
        exact he
      · exact .inl ⟨het, he⟩
  have hperm : (q.reclass t (cls t)).queue.Perm q.queue :=
    (List.perm_ext_iff_of_nodup hp.terminals.of_map h.terminals.of_map).2 hmem
  have hqueue : (q.reclass t (cls t)).queue = q.queue := by
    refine hperm.eq_of_pairwise (fun a b _ _ hab hba => ?_) hp.ordered h.ordered
    omega
  unfold Scheduler.reclass at hqueue ⊢
  split at hqueue
  · rfl
  · exact congrArg (fun l => { q with queue := l }) hqueue

end

/-! ### The carriers, the record and the pools after the write -/

/-- The carrier after an accepted write that left its terminal in link state `x`. -/
def Carrier.replaced (t : TermNo) (old new : TermConfig) (x : LinkState) (c : CarrierNo) (k : Carrier) : Carrier :=
  if x = .called ∧ c = new.carrier then { k.moved t old new c with res := k.res.reclass t new.cls } else k.moved t old new c

theorem Sector.writeTerminal_examined (s : Sector) (t : TermNo) (es : List FieldEntry) (new : TermConfig) :
    ∃ d : Sector, d.term t = (s.term t).written es new ∧
      (∀ c, d.car c = (s.car c).replaced t (s.term t).cfg new ((s.term t).written es new).link.state c) ∧
      d.freeDescriptors = s.freeDescriptors +
        (if (s.term t).cfg.configured = new.configured then 0 else (s.term t).hold.queue.length) ∧
      s.writeTerminal t es new =
        if (s.term t).cfg.autoAdmit = false ∧ new.autoAdmit = true then d.examineAdmission t else d := by
  obtain ⟨w, -, hcars, hdesc, hwt, hwrite⟩ := s.writeTerminal_steps t es new
  dsimp only at hwrite
  have hcar (c : CarrierNo) : (allCarriers.foldl (moveSlots t (s.term t).cfg new) w).car c =
      (s.car c).moved t (s.term t).cfg new c := by
    rw [foldl_moveSlots_car, Sector.car, hcars]
    rfl
  have hterm := (foldl_moveSlots_term t t (s.term t).cfg new allCarriers w).trans hwt
  have hpool : (allCarriers.foldl (moveSlots t (s.term t).cfg new) w).freeDescriptors = w.freeDescriptors :=
    List.foldlRecOn (motive := fun a : Sector => a.freeDescriptors = w.freeDescriptors) allCarriers _ rfl fun _ h _ _ => h
  generalize allCarriers.foldl (moveSlots t (s.term t).cfg new) w = m at hcar hterm hpool hwrite
  refine ⟨_, ?_, fun c => ?_, ?_, hwrite⟩
  · split <;> exact hterm
  · rw [hterm]
    unfold Carrier.replaced
    split
    · next hcalled =>
      rw [Sector.modRes, Sector.car_modCar]
      by_cases hc : c = new.carrier
      · subst hc
        rw [if_pos rfl, if_pos ⟨hcalled, rfl⟩, hcar, Carrier.moved_res]
      · rw [if_neg hc, if_neg fun h => hc h.2, hcar]
    · next hcalled => rw [if_neg fun h => hcalled h.1, hcar]
  · rw [← hdesc, ← hpool]
    split <;> rfl

/-! ### The record -/

theorem Terminal.written_configured {es : List FieldEntry} {new : TermConfig} {r : Terminal} (h : r.cfg.configured = new.configured) :
    (r.written es new).link = r.link.activeCopies es new ∧ (r.written es new).adm = r.adm ∧ (r.written es new).owed = r.owed ∧
      (r.written es new).cfg = new := by
  unfold Terminal.written
  rw [if_pos h]
  unfold Terminal.configure Terminal.rebound
  split <;> exact ⟨rfl, rfl, rfl, rfl⟩

theorem Terminal.written_fresh {es : List FieldEntry} {new : TermConfig} {r : Terminal} (h : r.cfg.configured ≠ new.configured) :
    r.written es new = { cfg := new, link := LinkFields.fresh new, ctr := r.ctr } := by
  unfold Terminal.written Terminal.fresh
  rw [if_neg h, Terminal.configure_cfg, Terminal.configure_ctr]

/-- A record written anew is not examined: it is HELD (R24, R25). -/
theorem Sector.writeTerminal_fresh {s : Sector} {t : TermNo} {new : TermConfig} (es : List FieldEntry)
    (h : (s.term t).cfg.configured ≠ new.configured) :
    (s.writeTerminal t es new).term t = { cfg := new, link := LinkFields.fresh new, ctr := (s.term t).ctr } ∧
      (∀ c, (s.writeTerminal t es new).car c = (s.car c).moved t (s.term t).cfg new c) ∧
      (s.writeTerminal t es new).freeDescriptors = s.freeDescriptors + (s.term t).hold.queue.length := by
  obtain ⟨d, hterm, hcar, hdesc, hwrite⟩ := s.writeTerminal_examined t es new
  rw [Terminal.written_fresh h] at hterm hcar
  rw [if_neg h] at hdesc
  have hidle : d.examineAdmission t = d := Sector.examineAdmission_idle fun hadm => by
    have hstate := hadm.1
    rw [hterm] at hstate
    cases hstate
  rw [hwrite, hidle, ite_self]
  exact ⟨hterm, fun c => (hcar c).trans (if_neg fun hc => nomatch hc.1), hdesc⟩

/-- The examination after automatic admission is turned on owes the ADMIT exactly under R59, and leaves the permit flag. -/
theorem Sector.writeTerminal_admission {s : Sector} {t : TermNo} {es : List FieldEntry} {new : TermConfig}
    (h : (s.term t).cfg.configured = new.configured) :
    let x := s.term t
    let u := s.writeTerminal t es new
    let y := u.term t
    (∀ c, u.car c = (s.car c).replaced t x.cfg new x.link.state c) ∧
    (if x.cfg.autoAdmit = false ∧ new.autoAdmit = true ∧ x.link.state = .admitting ∧ x.owed.admission = false ∧
        x.adm.sent = none ∧ x.adm.reclaimPending = false ∧
        (∀ z ∈ new.homeSlots, ∀ m, (u.car new.carrier).slotUse z ≠ .lent t m)
      then y.owed = { x.owed with admission := true } else y.owed = x.owed) ∧
    y.link.permit = x.link.permit ∧ y.adm = x.adm := by
  intro x u y
  obtain ⟨d, hterm, hcar, -, hwrite⟩ := s.writeTerminal_examined t es new
  obtain ⟨hlink, hadm, howed, hcfg⟩ := Terminal.written_configured (es := es) h
  rw [← hterm] at hlink hadm howed hcfg
  have hstate : (d.term t).link.state = x.link.state := (congrArg LinkFields.state hlink).trans rfl
  have hpermit : (d.term t).link.permit = x.link.permit := (congrArg LinkFields.permit hlink).trans rfl
  rw [← hterm, hstate] at hcar
  have hadmits (hauto : new.autoAdmit = true) : d.admits t ↔ x.link.state = .admitting ∧ x.owed.admission = false ∧
      x.adm.sent = none ∧ x.adm.reclaimPending = false ∧ ∀ z ∈ new.homeSlots, ∀ m, (d.car new.carrier).slotUse z ≠ .lent t m := by
    unfold Sector.admits
    rw [Sector.admissible_iff, Sector.someLent, hstate, howed, hadm, hcfg, hauto]
    simp only [or_true, and_true, not_exists, not_and, ne_eq]
    rw [and_comm (a := ∀ z, _)]
  by_cases hturn : x.cfg.autoAdmit = false ∧ new.autoAdmit = true
  · by_cases hd : d.admits t
    · have hu : u = d.modTerm t Terminal.owingAdmit := by
        rw [← Sector.examineAdmission_admits hd]
        exact hwrite.trans (if_pos hturn)
      have hy : y = (d.term t).owingAdmit := by
        show u.term t = _
        rw [hu, Sector.term_modTerm, if_pos rfl]
      obtain ⟨hadmitting, hnone, hsent, hreclaim, hhome⟩ := (hadmits hturn.2).1 hd
      have hcaru (c : CarrierNo) : u.car c = d.car c := by rw [hu]; rfl
      refine ⟨fun c => (hcaru c).trans (hcar c), ?_, ?_, by rw [hy]; exact hadm⟩
      · rw [if_pos ⟨hturn.1, hturn.2, hadmitting, hnone, hsent, hreclaim, by rw [hcaru]; exact hhome⟩, hy, ← howed]
        rfl
      · rw [hy]
        show ((d.term t).link.permit && (d.term t).cfg.autoAdmit) = _
        rw [hcfg, hturn.2, Bool.and_true, hpermit]
    · have hu : u = d := by
        rw [← Sector.examineAdmission_idle hd]
        exact hwrite.trans (if_pos hturn)
      rw [show y = d.term t from congrArg (Sector.term · t) hu, hu]
      refine ⟨hcar, ?_, hpermit, hadm⟩
      rw [if_neg fun hn => hd ((hadmits hturn.2).2 hn.2.2)]
      exact howed
  · have hu : u = d := hwrite.trans (if_neg hturn)
    rw [show y = d.term t from congrArg (Sector.term · t) hu, hu]
    refine ⟨hcar, ?_, hpermit, hadm⟩
    rw [if_neg fun hn => hturn ⟨hn.1, hn.2.1⟩]
    exact howed

/-! ### The schedules -/

theorem Carrier.replaced_slotUse (t : TermNo) (old new : TermConfig) (x : LinkState) (c : CarrierNo) (k : Carrier) (z : SlotNo) :
    (k.replaced t old new x c).slotUse z = (k.moved t old new c).slotUse z := by
  unfold Carrier.replaced
  split <;> rfl

theorem Carrier.replaced_res (t : TermNo) (old new : TermConfig) (x : LinkState) (c : CarrierNo) (k : Carrier) :
    (k.replaced t old new x c).res = if x = .called ∧ c = new.carrier then k.res.reclass t new.cls else k.res := by
  unfold Carrier.replaced
  split
  · rfl
  · exact Carrier.moved_res t old new c k

/-- A terminal with an entry is not moved to another carrier (R21). -/
theorem Sector.scheduled_carrier {s : Sector} {t : TermNo} {new : TermConfig} (hs : s.allScheduled)
    (hcalled : (s.term t).link.state = .called) (hn : ¬ (s.term t).NeedsHeld new) :
    (s.term t).cfg.configured = true ∧ new.carrier = (s.term t).cfg.carrier := by
  have hne : (s.term t).link.state ≠ .held := by rw [hcalled]; decide
  have hc : (s.term t).cfg.configured = true := by
    by_contra hf
    exact hne (hs.2 t (Bool.eq_false_iff.2 hf))
  exact ⟨hc, by_contra fun hd => hn ⟨hc, hne, .inl hd⟩⟩

theorem exec_writeTerminal_accepted {s : State} {r : Request} {t : TermNo} {es : List FieldEntry} (h : s.headIs r 2)
    (ht : r.selectsTerminal t) (he : fieldSet termWidth r.body = some es) (hd : (s.sector.writeCheck t es).1 = .done) :
    ∃ u, exec .writeTerminal s = .next u ∧ Answered s u r .done [] ∧ OnlyLinkAnswered s u ∧
      u.sector = s.sector.writeTerminal t es ((s.sector.term t).cfg.withFields es) := by
  have hanswer : writeAnswer r s t (writeOne es s t) = { status := .done, body := [] } := by
    unfold writeAnswer
    rw [(writeOne_status es s t).trans hd]
    rfl
  have hexec := exec_writeTerminal_terminal h ht he
  rw [hanswer] at hexec
  refine ⟨_, hexec, (writeOne_only es s t).answered r _, (writeOne_only es s t).onlyLinkAnswered h.2.2.2 r _, ?_⟩
  rw [State.respond_sector, writeOne_sector hd]

/-! ### The statement -/

/-- Settles O19: the record and the slots of a write that configures, one that unconfigures, and one that does neither. -/
theorem acceptedWriteEffects : Obligations.AcceptedWriteEffects := by
  unfold Obligations.AcceptedWriteEffects
  intro r t es s h ht he hd old new fresh
  obtain ⟨u, hexec, hans, honly, hsec⟩ := exec_writeTerminal_accepted h ht he hd
  obtain ⟨hw, -⟩ := s.sector.writeTerminal_spec t es new
  have hneed : ¬ (s.sector.term t).NeedsHeld new := by
    obtain ⟨-, -, -, -, hdone⟩ := s.sector.writeCheck_iff t es
    exact (hdone.1 hd).2.1
  refine ⟨fun hold hnew => ?configures, fun hold hnew => ?unconfigures, fun hsame => ?keeps⟩
  case configures =>
    have hne : old.configured ≠ new.configured := by simp [hold, hnew]
    obtain ⟨hterm, hcar, -⟩ := Sector.writeTerminal_fresh es hne
    refine ⟨u, hexec, hans, honly, ?_⟩
    rw [hsec]
    refine ⟨hterm, fun x hx => ?_, fun c x hx => ?_, hw.events, hw.handed⟩
    · obtain ⟨hjoin, -, -⟩ := (s.sector.car new.carrier).moved_slotUse_iff t old new new.carrier x
      rw [hcar]
      exact hjoin ⟨hnew, rfl, hx⟩ fun hb => by cases hold.symm.trans hb.1
    · obtain ⟨-, -, hstay⟩ := (s.sector.car c).moved_slotUse_iff t old new c x
      rw [hcar]
      exact hstay (iff_of_false (fun ha => hx.elim (fun hc => hc ha.2.1.symm) fun hm => hm ha.2.2)
        fun hb => by cases hold.symm.trans hb.1)
  case unconfigures =>
    have hne : old.configured ≠ new.configured := by simp [hold, hnew]
    obtain ⟨hterm, hcar, hdesc⟩ := Sector.writeTerminal_fresh es hne
    have hheld : (s.sector.term t).link.state = .held := by
      by_contra hstate
      exact hneed ⟨hold, hstate, .inr (.inr hnew)⟩
    refine ⟨u, hexec, hans, honly, hheld, ?_⟩
    rw [hsec]
    refine ⟨hterm, fun x hx => ?_, fun c x hx => ?_, hdesc, hw.events, hw.handed⟩
    · obtain ⟨-, hleave, -⟩ := (s.sector.car old.carrier).moved_slotUse_iff t old new old.carrier x
      rw [hcar]
      exact hleave ⟨hold, rfl, hx⟩ fun ha => by cases hnew.symm.trans ha.1
    · obtain ⟨-, -, hstay⟩ := (s.sector.car c).moved_slotUse_iff t old new c x
      rw [hcar]
      exact hstay (iff_of_false (fun ha => by cases hnew.symm.trans ha.1)
        fun hb => hx.elim (fun hc => hc hb.2.1.symm) fun hm => hm hb.2.2)
  case keeps =>
    obtain ⟨hcar, howed, hpermit, hadm⟩ := Sector.writeTerminal_admission (es := es) hsame
    have hres (c : CarrierNo) := Carrier.replaced_res t old new (s.sector.term t).link.state c (s.sector.car c)
    refine ⟨u, hexec, hans, honly, ?_⟩
    rw [hsec]
    refine ⟨fun c z => ?slots, fun c => ?sets, fun hs c hc => ?schedule, fun hs hcalled => ?entry, howed, hpermit, hadm, hw.events⟩
    case slots =>
      rw [hcar, Carrier.replaced_slotUse, Carrier.moved_slotUse]
      exact if_congr (and_congr mem_slotsOn (not_congr mem_slotsOn)) rfl
        (if_congr (and_congr mem_slotsOn (not_congr mem_slotsOn)) rfl rfl)
    case sets =>
      rw [hcar, hres]
      split
      · exact Scheduler.reclass_rest t new.cls _
      · exact ⟨rfl, rfl⟩
    case schedule =>
      rw [hcar, hres]
      split
      · next hnow =>
        obtain ⟨hcalled, hcn⟩ := hnow
        obtain ⟨hconf, hcarrier⟩ := Sector.scheduled_carrier hs hcalled hneed
        rcases hc with hc | hcls | hc
        · exact absurd hcalled hc
        · have hplan := (s.sector.scheduled_iff c).1 (hs.1 c)
          rw [hcls]
          exact hplan.reclass_same ⟨by rw [hcn, hcarrier]; exact Sector.bound_carrierOf hconf, hcalled⟩
        · exact absurd (hcn.trans hcarrier) hc
      · rfl
    case entry =>
      intro p q
      obtain ⟨hconf, hcarrier⟩ := Sector.scheduled_carrier hs hcalled hneed
      have hplan := (s.sector.scheduled_iff old.carrier).1 (hs.1 old.carrier)
      have hq : q = ((s.sector.car old.carrier).res.reclass t new.cls).queue := by
        show ((s.sector.writeTerminal t es new).car old.carrier).res.queue = _
        rw [hcar, hres, if_pos ⟨hcalled, hcarrier.symm⟩]
      refine ⟨?_, fun e hne => ?_, fun e het => ?_⟩
      · rw [hq]
        exact hplan.reclass_ordered new.cls ⟨Sector.bound_carrierOf hconf, hcalled⟩
      · rw [hq, hplan.mem_reclass]
        exact ⟨fun he => he.elim (·.2) fun he => absurd he.1 hne, fun he => .inl ⟨hne, he⟩⟩
      · rw [hq, hplan.mem_reclass]
        exact ⟨fun he => he.elim (fun he => absurd het he.1) (·.2), fun he => .inr ⟨het, he⟩⟩

end Sys2Proof.Machine
end

section
/-! SUPPORT. The marks a list carries, as a list of ranks and terminals (R160 to R162): what `carried` keeps and takes, which marks
find no place, and which late grants are reached. -/

namespace Sys2Proof.Machine

/-- Terminal `t` holds one of the directives placed. -/
def holds (placed : List (Rank × TermNo)) (t : TermNo) : Bool := placed.any fun x => decide (x.2 = t)

/-- A GRANT that is late or beyond the pace. -/
def Unfit (late : TermNo → Bool) (pace : Nat) (placed : List (Rank × TermNo)) (m : Rank × TermNo) : Prop :=
  m.1 = .grant ∧ (late m.2 = true ∨ pace ≤ placed.countP fun x => decide (x.1 = .grant))

theorem holds_iff {placed : List (Rank × TermNo)} {t : TermNo} : holds placed t = true ↔ ∃ k, (k, t) ∈ placed := by
  unfold holds
  simp only [List.any_eq_true, decide_eq_true_eq, Prod.exists, exists_eq_right]

section
variable {late : TermNo → Bool} {pace : Nat} {placed : List (Rank × TermNo)}

/-! ### One mark, and marks in turn -/

theorem carried_held {m : Rank × TermNo} (h : holds placed m.2 = true) : carried late pace placed [m] = placed := if_pos h

theorem carried_unfit {m : Rank × TermNo} (h : Unfit late pace placed m) : carried late pace placed [m] = placed := by
  unfold carried
  split
  · rfl
  · exact if_pos h

theorem carried_full {m : Rank × TermNo} (h : 12 ≤ placed.length) : carried late pace placed [m] = placed := by
  unfold carried
  split
  · rfl
  · split
    · rfl
    · rfl

theorem carried_placed {m : Rank × TermNo} (hheld : ¬ holds placed m.2 = true) (hfit : ¬ Unfit late pace placed m)
    (hroom : ¬ 12 ≤ placed.length) : carried late pace placed [m] = placed ++ [m] := by
  unfold carried
  exact (if_neg hheld).trans ((if_neg hfit).trans (if_neg hroom))

/-- One mark is passed over or placed. -/
theorem carried_one (m : Rank × TermNo) : carried late pace placed [m] = placed ∨
    (carried late pace placed [m] = placed ++ [m] ∧ holds placed m.2 = false ∧ ¬ Unfit late pace placed m ∧ placed.length < 12) := by
  by_cases hheld : holds placed m.2 = true
  · exact .inl (carried_held hheld)
  · by_cases hfit : Unfit late pace placed m
    · exact .inl (carried_unfit hfit)
    · by_cases hroom : 12 ≤ placed.length
      · exact .inl (carried_full hroom)
      · exact .inr ⟨carried_placed hheld hfit hroom, Bool.eq_false_iff.2 hheld, hfit, not_le.1 hroom⟩

theorem carried_cons (m : Rank × TermNo) (l : List (Rank × TermNo)) :
    carried late pace placed (m :: l) = carried late pace (carried late pace placed [m]) l := by
  obtain ⟨k, t⟩ := m
  simp only [carried]
  split
  · rfl
  · split
    · rfl
    · split <;> rfl

theorem carried_append (a b : List (Rank × TermNo)) :
    carried late pace placed (a ++ b) = carried late pace (carried late pace placed a) b := by
  induction a generalizing placed with
  | nil => rfl
  | cons m a ih => rw [List.cons_append, carried_cons, ih, ← carried_cons]

/-- What one mark keeps, every run of marks keeps. -/
theorem carried_invariant {P : List (Rank × TermNo) → Prop} {l : List (Rank × TermNo)}
    (hone : ∀ placed, ∀ m ∈ l, P placed → holds placed m.2 = false → ¬ Unfit late pace placed m → placed.length < 12 →
      P (placed ++ [m]))
    (h : P placed) : P (carried late pace placed l) := by
  induction l generalizing placed with
  | nil => exact h
  | cons m l ih =>
    rw [carried_cons]
    refine ih (fun p x hx => hone p x (List.mem_cons_of_mem m hx)) ?_
    rcases carried_one (late := late) (pace := pace) (placed := placed) m with he | ⟨he, hheld, hfit, hroom⟩
    · rw [he]
      exact h
    · rw [he]
      exact hone placed m (List.mem_cons_self ..) h hheld hfit hroom

/-! ### What is placed -/

theorem carried_extends (placed l : List (Rank × TermNo)) :
    ∃ new, carried late pace placed l = placed ++ new ∧ ∀ m ∈ new, m ∈ l := by
  refine carried_invariant (P := fun p => ∃ new, p = placed ++ new ∧ ∀ m ∈ new, m ∈ l) ?_ ⟨[], (List.append_nil _).symm, nofun⟩
  rintro p m hm ⟨new, rfl, hnew⟩ - - -
  refine ⟨new ++ [m], List.append_assoc .., fun x hx => ?_⟩
  rcases List.mem_append.1 hx with hx | hx
  · exact hnew x hx
  · exact List.mem_singleton.1 hx ▸ hm

theorem mem_carried {l : List (Rank × TermNo)} {m : Rank × TermNo} (h : m ∈ carried late pace placed l) : m ∈ placed ∨ m ∈ l := by
  obtain ⟨new, he, hnew⟩ := carried_extends (late := late) (pace := pace) placed l
  rw [he] at h
  exact (List.mem_append.1 h).imp_right (hnew m)

theorem mem_carried_of_mem {l : List (Rank × TermNo)} {m : Rank × TermNo} (h : m ∈ placed) : m ∈ carried late pace placed l := by
  obtain ⟨new, he, -⟩ := carried_extends (late := late) (pace := pace) placed l
  rw [he]
  exact List.mem_append_left _ h

theorem carried_length_le {l : List (Rank × TermNo)} (h : placed.length ≤ 12) : (carried late pace placed l).length ≤ 12 := by
  refine carried_invariant (P := fun p => p.length ≤ 12) (fun p m _ _ _ _ hroom => ?_) h
  rw [List.length_append]
  exact hroom

theorem carried_terminals_nodup {l : List (Rank × TermNo)} (h : (placed.map Prod.snd).Nodup) :
    ((carried late pace placed l).map Prod.snd).Nodup := by
  refine carried_invariant (P := fun p => (p.map Prod.snd).Nodup) (fun p m _ hp hheld _ _ => ?_) h
  rw [List.map_append, List.nodup_append]
  refine ⟨hp, List.nodup_singleton _, fun a ha b hb hab => ?_⟩
  obtain ⟨x, hx, rfl⟩ := List.mem_map.1 ha
  have hbm : b = m.2 := List.mem_singleton.1 hb
  have hin : holds p m.2 = true := holds_iff.2 ⟨x.1, by rw [← hbm, ← hab]; exact hx⟩
  rw [hheld] at hin
  cases hin

theorem carried_grants_le {l : List (Rank × TermNo)} (h : (placed.countP fun x => decide (x.1 = .grant)) ≤ pace) :
    ((carried late pace placed l).countP fun x => decide (x.1 = .grant)) ≤ pace := by
  refine carried_invariant (P := fun p => (p.countP fun x => decide (x.1 = .grant)) ≤ pace) (fun p m _ hp _ hfit _ => ?_) h
  rw [List.countP_append, List.countP_singleton]
  split
  · next hg => exact not_le.1 fun hle => hfit ⟨of_decide_eq_true hg, .inr hle⟩
  · exact hp

theorem carried_not_late {l : List (Rank × TermNo)} (h : ∀ t, (Rank.grant, t) ∈ placed → late t = false) {t : TermNo}
    (ht : (Rank.grant, t) ∈ carried late pace placed l) : late t = false := by
  refine carried_invariant (P := fun p => ∀ t, (Rank.grant, t) ∈ p → late t = false) (fun p m _ hp _ hfit _ t ht => ?_) h t ht
  rcases List.mem_append.1 ht with ht | ht
  · exact hp t ht
  · obtain rfl := List.mem_singleton.1 ht
    exact Bool.eq_false_iff.2 fun hl => hfit ⟨rfl, .inl hl⟩

/-! ### Marks that find no place (R165) -/

theorem not_wantsPlace_nil : ¬ wantsPlace late pace placed [] := by
  rintro ⟨before, k, t, after, he, -⟩
  exact List.append_ne_nil_of_right_ne_nil before (List.cons_ne_nil _ _) he.symm

/-- The next mark is left for want of a place alone. -/
def wantsNow (late : TermNo → Bool) (pace : Nat) (placed : List (Rank × TermNo)) (m : Rank × TermNo) : Prop :=
  12 ≤ placed.length ∧ holds placed m.2 = false ∧ ¬ Unfit late pace placed m

theorem wantsPlace_cons {m : Rank × TermNo} {l : List (Rank × TermNo)} : wantsPlace late pace placed (m :: l) ↔
    wantsNow late pace placed m ∨ wantsPlace late pace (carried late pace placed [m]) l := by
  have hheld (p : List (Rank × TermNo)) (t : TermNo) : (∀ x ∈ p, x.2 ≠ t) ↔ holds p t = false := by
    rw [Bool.eq_false_iff, ne_eq, holds_iff]
    exact ⟨fun h ⟨k, hk⟩ => h _ hk rfl, fun h x hx he => h ⟨x.1, he ▸ hx⟩⟩
  constructor
  · rintro ⟨before, k, t, after, he, hfull, hfree, hfit⟩
    cases before with
    | nil =>
      obtain ⟨rfl, rfl⟩ := List.cons.inj he
      exact .inl ⟨hfull, (hheld _ _).1 hfree, hfit⟩
    | cons x before =>
      obtain ⟨rfl, rfl⟩ := List.cons.inj he
      rw [carried_cons] at hfull hfree hfit
      exact .inr ⟨before, k, t, after, rfl, hfull, hfree, hfit⟩
  · rintro (⟨hfull, hfree, hfit⟩ | ⟨before, k, t, after, rfl, hfull, hfree, hfit⟩)
    · exact ⟨[], m.1, m.2, l, rfl, hfull, (hheld _ _).2 hfree, hfit⟩
    · refine ⟨m :: before, k, t, after, rfl, ?_⟩
      rw [carried_cons]
      exact ⟨hfull, hfree, hfit⟩

/-! ### Late grants that are reached (R162) -/

/-- The terminals whose late GRANT is reached, in the order they are. -/
def overdue (late : TermNo → Bool) (pace : Nat) : List (Rank × TermNo) → List (Rank × TermNo) → List TermNo
  | _, [] => []
  | placed, m :: l =>
    (if m.1 = .grant ∧ late m.2 = true ∧ holds placed m.2 = false then [m.2] else []) ++
      overdue late pace (carried late pace placed [m]) l

theorem overdue_append (a b : List (Rank × TermNo)) :
    overdue late pace placed (a ++ b) = overdue late pace placed a ++ overdue late pace (carried late pace placed a) b := by
  induction a generalizing placed with
  | nil => rfl
  | cons m a ih => rw [List.cons_append, overdue, ih, ← carried_cons, overdue, List.append_assoc]

theorem overdue_none {l : List (Rank × TermNo)} (h : ∀ m ∈ l, m.1 ≠ .grant) : overdue late pace placed l = [] := by
  induction l generalizing placed with
  | nil => rfl
  | cons m l ih =>
    rw [overdue, ih fun x hx => h x (List.mem_cons_of_mem m hx), if_neg fun hm => h m (List.mem_cons_self ..) hm.1]
    rfl

theorem overdue_sublist (l : List (Rank × TermNo)) : (overdue late pace placed l).Sublist (l.map Prod.snd) := by
  induction l generalizing placed with
  | nil => exact List.Sublist.slnil
  | cons m l ih =>
    rw [overdue, List.map_cons]
    split
    · exact ih.cons_cons m.2
    · exact ih.cons m.2

/-- A late GRANT is reached unless its terminal holds a directive of a rank before. -/
theorem mem_overdue {l : List (Rank × TermNo)} (hl : ∀ m ∈ l, m.1 = .grant) {t : TermNo} :
    t ∈ overdue late pace placed l ↔ (Rank.grant, t) ∈ l ∧ late t = true ∧ holds placed t = false := by
  induction l generalizing placed with
  | nil => simp [overdue]
  | cons m l ih =>
    obtain ⟨k, v⟩ := m
    obtain rfl : k = .grant := hl _ (List.mem_cons_self ..)
    have hsame (hlate : late t = true) : holds (carried late pace placed [(Rank.grant, v)]) t = holds placed t := by
      rcases carried_one (late := late) (pace := pace) (placed := placed) (Rank.grant, v) with he | ⟨he, -, hfit, -⟩
      · rw [he]
      · have hne : v ≠ t := fun hv => hfit ⟨rfl, .inl (hv ▸ hlate)⟩
        rw [he]
        simp [holds, hne]
    rw [overdue, List.mem_append, ih fun x hx => hl x (List.mem_cons_of_mem _ hx), List.mem_cons, Prod.mk.injEq]
    constructor
    · rintro (ht | ⟨hin, hlate, hfree⟩)
      · split at ht
        · next hm =>
          obtain rfl := List.mem_singleton.1 ht
          exact ⟨.inl ⟨rfl, rfl⟩, hm.2⟩
        · exact nomatch ht
      · exact ⟨.inr hin, hlate, hsame hlate ▸ hfree⟩
    · rintro ⟨⟨-, rfl⟩ | hin, hlate, hfree⟩
      · left
        rw [if_pos ⟨rfl, hlate, hfree⟩]
        exact List.mem_singleton_self _
      · exact .inr ⟨hin, hlate, (hsame hlate).trans hfree⟩

end

end Sys2Proof.Machine
end

section
/-! SUPPORT. A composition under way, by the marks placed and the grants withdrawn so far (R160 to R165). -/

namespace Sys2Proof.Machine

/-! ### What a mark placed is sent as (R163, R164) -/

/-- The directive of a mark, by the records and settings of `s`. -/
def Sector.directiveOf (s : Sector) (c : CarrierNo) (g : FrameNo) (k : Rank) (t : TermNo) : Directive :=
  match k with
  | .halt => .halt t
  | .admission => .admission t (FrameNo.plus g (s.car c).cfg.applyLead) (s.term t).cfg.homeSlots
  | .stepDown | .stepUp =>
    match (s.term t).ladder.pending with
    | some p => .profile t p.target (s.profile p.target).modulation (s.profile p.target).codeRate
        (FrameNo.plus g (s.car c).cfg.applyLead)
    | none => .halt t
  | .grant =>
    match (s.term t).owed.grant with
    | some w => .trim t w (s.term t).range.correction (s.term t).range.power
    | none => .halt t

/-- The record of a terminal after a mark of rank `k` was sent, `lead` the frame it takes effect in. -/
def Terminal.sentMark (k : Rank) (lead : FrameNo) (r : Terminal) : Terminal :=
  match k with
  | .halt => { r with owed := { r.owed with halt := false } }
  | .admission =>
    { r with owed := { r.owed with admission := false }
             adm := if r.link.state = .admitting then { r.adm with sent := some lead } else r.adm }
  | .stepDown | .stepUp =>
    { r with owed := { r.owed with profile := false }
             ladder := { r.ladder with pending := r.ladder.pending.map fun p => { p with apply := some lead } } }
  | .grant => { r with owed := { r.owed with grant := none } }

/-- One directive more counted for rank `k`. -/
def DcpCounters.sentAs (k : Rank) (n : DcpCounters) : DcpCounters :=
  match k with
  | .halt => { n with haltsSent := n.haltsSent + 1 }
  | .admission => { n with admitsSent := n.admitsSent + 1 }
  | .stepDown => { n with downsSent := n.downsSent + 1 }
  | .grant => { n with trimsSent := n.trimsSent + 1 }
  | .stepUp => { n with upsSent := n.upsSent + 1 }

/-- A mark sent: its record and count, and the directive. -/
def Sector.sends (s : Sector) (c : CarrierNo) (g : FrameNo) (k : Rank) (t : TermNo) : Sector × Directive :=
  ((s.modTerm t (Terminal.sentMark k (FrameNo.plus g (s.car c).cfg.applyLead))).countDcp c (DcpCounters.sentAs k),
    s.directiveOf c g k t)

theorem Sector.sendProfile_eq {s : Sector} {t : TermNo} {p : PendingProfile} {k : Rank}
    (hk : k = .stepDown ∧ p.direction = .stepDown ∨ k = .stepUp ∧ p.direction = .stepUp)
    (hp : (s.term t).ladder.pending = some p) (c : CarrierNo) (g : FrameNo) : s.sendProfile c g t p = s.sends c g k t := by
  unfold Sector.sendProfile Sector.sends
  obtain ⟨target, direction, apply⟩ := p
  rcases hk with ⟨rfl, rfl⟩ | ⟨rfl, rfl⟩
  · simp only [Sector.directiveOf, hp]
    congr 2
    exact modTerm_congr (by simp only [Terminal.sentMark, hp, Option.map_some])
  · simp only [Sector.directiveOf, hp]
    congr 2
    exact modTerm_congr (by simp only [Terminal.sentMark, hp, Option.map_some])

theorem Sector.sendGrant_eq {s : Sector} {t : TermNo} {x : GrantRef} (hx : (s.term t).owed.grant = some x) (c : CarrierNo)
    (g : FrameNo) : s.sendGrant c t x = s.sends c g .grant t := by
  unfold Sector.sendGrant Sector.sends Sector.directiveOf
  rw [hx]
  rfl

theorem LadderFields.pendingIs_iff {d : Direction} {l : LadderFields} :
    l.pendingIs d = true ↔ ∃ p, l.pending = some p ∧ p.direction = d := by
  unfold LadderFields.pendingIs
  cases l.pending with
  | none => simp
  | some p => simp

/-! ### Reaching a terminal in a rank (R160 to R162) -/

section
variable {d : Draft} {c : CarrierNo} {g : FrameNo} {k : Rank} {t : TermNo}

theorem Draft.reach_held (h : d.body.any (fun x => decide (x.terminal = t)) = true) : d.reach c g k t = d := if_pos h

theorem Draft.reach_unowed (h : k.owedBy (d.sector.term t) = false) : d.reach c g k t = d := by
  unfold Draft.reach
  split
  · rfl
  · exact if_neg (Bool.eq_false_iff.1 h)

/-- A mark but a GRANT is placed where there is room. -/
theorem Draft.reach_owed (hfree : ¬ d.body.any (fun x => decide (x.terminal = t)) = true) (hk : k ≠ .grant)
    (h : k.owedBy (d.sector.term t) = true) : d.reach c g k t = d.place c k t (d.sector.sends c g k t) := by
  unfold Draft.reach
  rw [if_neg hfree, if_pos h]
  cases k with
  | halt => rfl
  | admission => rfl
  | stepDown =>
    obtain ⟨p, hp, hd⟩ := LadderFields.pendingIs_iff.1 (Bool.and_eq_true_iff.1 h).2
    simp only [hp]
    rw [Sector.sendProfile_eq (.inl ⟨rfl, hd⟩) hp]
  | grant => exact absurd rfl hk
  | stepUp =>
    obtain ⟨p, hp, hd⟩ := LadderFields.pendingIs_iff.1 (Bool.and_eq_true_iff.1 h).2
    simp only [hp]
    rw [Sector.sendProfile_eq (.inr ⟨rfl, hd⟩) hp]

/-- An owed GRANT is late, beyond the pace, or placed where there is room. -/
theorem Draft.reach_grant (hfree : ¬ d.body.any (fun x => decide (x.terminal = t)) = true) {x : GrantRef}
    (hx : (d.sector.term t).owed.grant = some x) : d.reach c g .grant t =
      if FrameNo.later x.frame g = false then
        { d with sector := (d.sector.withdraw t).countDcp c fun n => { n with lateGrants := n.lateGrants + 1 } }
      else if (d.sector.car c).pace ≤ d.body.countP Directive.isTrim then d
      else d.place c .grant t (d.sector.sends c g .grant t) := by
  have howed : Rank.grant.owedBy (d.sector.term t) = true := by simp [Rank.owedBy, hx]
  unfold Draft.reach
  rw [if_neg hfree, if_pos howed]
  simp only [hx]
  unfold Draft.judgeGrant
  cases FrameNo.later x.frame g with
  | false => rfl
  | true => rw [Sector.sendGrant_eq hx]; rfl

end

/-! ### The record by the marks placed and the grants withdrawn -/

/-- A mark of the rank was placed for the terminal. -/
def sentIn (placed : List (Rank × TermNo)) (k : Rank) (t : TermNo) : Bool := decide ((k, t) ∈ placed)

/-- The record of `t` with the marks of `placed` sent and the grants of `gone` withdrawn. -/
def Terminal.marked (lead : FrameNo) (placed : List (Rank × TermNo)) (gone : List TermNo) (t : TermNo) (x : Terminal) : Terminal :=
  let steps := sentIn placed .stepDown t || sentIn placed .stepUp t
  { x with
    owed := { halt := x.owed.halt && !sentIn placed .halt t, admission := x.owed.admission && !sentIn placed .admission t
              profile := x.owed.profile && !steps
              grant := if sentIn placed .grant t || decide (t ∈ gone) then none else x.owed.grant }
    adm := if sentIn placed .admission t && decide (x.link.state = .admitting) then { x.adm with sent := some lead } else x.adm
    ladder := if steps then { x.ladder with pending := x.ladder.pending.map fun p => { p with apply := some lead } } else x.ladder
    range := if t ∈ gone then { x.range with attempts := x.range.attempts - 1, grant := none } else x.range }

section
variable {lead : FrameNo} {placed : List (Rank × TermNo)} {gone : List TermNo} {t v : TermNo} {x : Terminal}

theorem sentIn_append (placed : List (Rank × TermNo)) (k r : Rank) (t v : TermNo) :
    sentIn (placed ++ [(k, t)]) r v = (sentIn placed r v || (decide (r = k) && decide (v = t))) := by
  unfold sentIn
  simp only [List.mem_append, List.mem_singleton, Prod.mk.injEq, Bool.decide_or, Bool.decide_and]

theorem sentIn_of_free (h : holds placed t = false) (k : Rank) : sentIn placed k t = false :=
  decide_eq_false fun hk => Bool.eq_false_iff.1 h (holds_iff.2 ⟨k, hk⟩)

theorem Terminal.marked_none (lead : FrameNo) (t : TermNo) (x : Terminal) : x.marked lead [] [] t = x := by
  simp [Terminal.marked, sentIn]

theorem Terminal.marked_place_of_ne (k : Rank) (hv : v ≠ t) :
    x.marked lead (placed ++ [(k, t)]) gone v = x.marked lead placed gone v := by
  simp only [Terminal.marked, sentIn_append, hv, decide_false, Bool.and_false, Bool.or_false]

theorem Terminal.marked_gone_of_ne (hv : v ≠ t) : x.marked lead placed (gone ++ [t]) v = x.marked lead placed gone v := by
  simp only [Terminal.marked, List.mem_append, List.mem_singleton, hv, or_false]

theorem Terminal.marked_place (k : Rank) (hfree : holds placed t = false) (ho : k.owedBy x = true) :
    x.marked lead (placed ++ [(k, t)]) gone t = (x.marked lead placed gone t).sentMark k lead := by
  cases k with
  | halt => simp [Terminal.marked, Terminal.sentMark, sentIn_append, sentIn_of_free hfree]
  | admission => simp [Terminal.marked, Terminal.sentMark, sentIn_append, sentIn_of_free hfree]
  | stepDown => simp [Terminal.marked, Terminal.sentMark, sentIn_append, sentIn_of_free hfree]
  | grant => simp [Terminal.marked, Terminal.sentMark, sentIn_append, sentIn_of_free hfree]
  | stepUp => simp [Terminal.marked, Terminal.sentMark, sentIn_append, sentIn_of_free hfree]

theorem Terminal.marked_withdrawn (hgone : t ∉ gone) (hsent : sentIn placed .grant t = false) {w : GrantRef}
    (hw : x.owed.grant = some w) : x.marked lead placed (gone ++ [t]) t = (x.marked lead placed gone t).withdrawn := by
  simp [Terminal.marked, Terminal.withdrawn, hgone, hsent, hw]

end

end Sys2Proof.Machine
end

section
/-! SUPPORT. A composition under way and the carrier it leaves; each terminal reached (R160 to R165). -/

namespace Sys2Proof.Machine

/-! ### The carrier -/

/-- The carrier with the grants of the terminals `gone` withdrawn, by their records in `s` (R165). -/
def Carrier.withdrawnAll (s : Sector) (gone : List TermNo) (k : Carrier) : Carrier :=
  gone.foldl (fun k t => k.withdrawn t (s.term t)) k

/-- The rotation pointers after the marks of `placed` (R161). -/
def RankPointers.after (placed : List (Rank × TermNo)) (p : RankPointers) : RankPointers :=
  placed.foldl (fun p m => p.set m.1 m.2) p

/-- The counters after the marks of `placed` and `n` late grants. -/
def DcpCounters.tallied (placed : List (Rank × TermNo)) (n : Nat) (ctr : DcpCounters) : DcpCounters :=
  { placed.foldl (fun n m => n.sentAs m.1) ctr with lateGrants := ctr.lateGrants + BitVec.ofNat 32 n }

theorem Carrier.clearGrant_calendar (k : Carrier) (t : TermNo) (w : GrantRef) :
    ∃ cal, k.clearGrant t w = { k with calendar := cal } := by
  unfold Carrier.clearGrant
  split
  · split
    · exact ⟨_, rfl⟩
    · exact ⟨k.calendar, rfl⟩
  · exact ⟨k.calendar, rfl⟩

theorem Carrier.withdrawn_frame (k : Carrier) (t : TermNo) (r : Terminal) (p : RankPointers) (n : DcpCounters) :
    ({ k with dcp := p, dcpCtr := n } : Carrier).withdrawn t r = { k.withdrawn t r with dcp := p, dcpCtr := n } := by
  unfold Carrier.withdrawn
  cases r.owed.grant with
  | none => rfl
  | some w =>
    have hclear : ({ k with dcp := p, dcpCtr := n } : Carrier).clearGrant t w =
        { k.clearGrant t w with dcp := p, dcpCtr := n } := by
      unfold Carrier.clearGrant
      show (match k.cell w.frame w.slot with
        | .granted o _ => if o = t then ({ k with dcp := p, dcpCtr := n } : Carrier).setCell w.frame w.slot .empty
          else { k with dcp := p, dcpCtr := n }
        | _ => { k with dcp := p, dcpCtr := n }) = _
      cases k.cell w.frame w.slot with
      | empty => rfl
      | offered => rfl
      | granted o m => dsimp only; split <;> rfl
    dsimp only
    rw [hclear]

theorem DcpCounters.sentAs_late (k : Rank) (n : DcpCounters) (x : Counter) :
    ({ n with lateGrants := x } : DcpCounters).sentAs k = { n.sentAs k with lateGrants := x } := by cases k <;> rfl

theorem DcpCounters.tallied_none (ctr : DcpCounters) : ctr.tallied [] 0 = ctr := by
  cases ctr
  simp [DcpCounters.tallied]

theorem DcpCounters.tallied_place (placed : List (Rank × TermNo)) (m : Rank × TermNo) (n : Nat) (ctr : DcpCounters) :
    ctr.tallied (placed ++ [m]) n = (ctr.tallied placed n).sentAs m.1 := by
  unfold DcpCounters.tallied
  rw [DcpCounters.sentAs_late, List.foldl_append]
  rfl

theorem DcpCounters.tallied_late (placed : List (Rank × TermNo)) (n : Nat) (ctr : DcpCounters) :
    ctr.tallied placed (n + 1) = { ctr.tallied placed n with lateGrants := (ctr.tallied placed n).lateGrants + 1 } := by
  unfold DcpCounters.tallied
  dsimp only
  rw [BitVec.ofNat_add, ← BitVec.add_assoc]
  rfl

/-! ### A composition under way -/

/-- From `s` the draft has the marks of `placed` sent, the grants of `gone` withdrawn, and counted `n` late. -/
structure Draft.Made (s : Sector) (c : CarrierNo) (g : FrameNo) (placed : List (Rank × TermNo)) (gone : List TermNo) (n : Nat)
    (d : Draft) : Prop where
  body : d.body = placed.map fun m => s.directiveOf c g m.1 m.2
  owed : ∀ m ∈ placed, m.1.owedBy (s.term m.2) = true
  once : gone.Nodup
  taken : ∀ t ∈ gone, s.bound c t = true ∧ (s.term t).owed.grant.isSome = true ∧ sentIn placed .grant t = false
  term : ∀ t, d.sector.term t = (s.term t).marked (FrameNo.plus g (s.car c).cfg.applyLead) placed gone t
  car : d.sector.car c = { (s.car c).withdrawnAll s gone with
    dcp := (s.car c).dcp.after placed, dcpCtr := (s.car c).dcpCtr.tallied placed n }
  onlyCar : OnlyCarrier s d.sector c
  profiles : d.sector.profiles = s.profiles
  events : d.sector.events = s.events
  handed : d.sector.mlOut = s.mlOut

theorem Draft.Made.start (s : Sector) (c : CarrierNo) (g : FrameNo) :
    Draft.Made s c g [] [] 0 { sector := s, body := [], want := false } where
  body := rfl
  owed := nofun
  once := List.nodup_nil
  taken := nofun
  term t := (Terminal.marked_none _ t _).symm
  car := by
    rw [DcpCounters.tallied_none]
    rfl
  onlyCar _ _ := rfl
  profiles := rfl
  events := rfl
  handed := rfl

section
variable {s : Sector} {c : CarrierNo} {g : FrameNo} {placed : List (Rank × TermNo)} {gone : List TermNo} {n : Nat} {d : Draft}
  (h : Draft.Made s c g placed gone n d)
include h

/-- Only the sector and the body of a draft matter. -/
theorem Draft.Made.withWant (b : Bool) : Draft.Made s c g placed gone n { d with want := b } :=
  ⟨h.body, h.owed, h.once, h.taken, h.term, h.car, h.onlyCar, h.profiles, h.events, h.handed⟩

theorem Draft.Made.bound (v : TermNo) : d.sector.bound c v = s.bound c v := by
  unfold Sector.bound
  rw [h.term]
  rfl

end

theorem Carrier.withdrawn_standing (t : TermNo) (r : Terminal) (k : Carrier) :
    { k.withdrawn t r with calendar := k.calendar, resCtr := k.resCtr } = k := by
  unfold Carrier.withdrawn
  cases r.owed.grant with
  | none => rfl
  | some w =>
    obtain ⟨cal, hcal⟩ := k.clearGrant_calendar t w
    dsimp only
    rw [hcal]

theorem Carrier.withdrawnAll_standing (s : Sector) (gone : List TermNo) (k : Carrier) :
    { k.withdrawnAll s gone with calendar := k.calendar, resCtr := k.resCtr } = k := by
  unfold Carrier.withdrawnAll
  induction gone generalizing k with
  | nil => rfl
  | cons t l ih =>
    rw [List.foldl_cons]
    have hstep := ih (k.withdrawn t (s.term t))
    have hone := k.withdrawn_standing t (s.term t)
    generalize l.foldl (fun k t => k.withdrawn t (s.term t)) (k.withdrawn t (s.term t)) = j at hstep ⊢
    rw [← hstep] at hone
    exact hone

theorem Carrier.withdrawnAll_settings (s : Sector) (gone : List TermNo) (k : Carrier) :
    (k.withdrawnAll s gone).cfg = k.cfg ∧ (k.withdrawnAll s gone).state = k.state := by
  have h := k.withdrawnAll_standing s gone
  have hcfg := congrArg Carrier.cfg h
  have hstate := congrArg Carrier.state h
  exact ⟨hcfg, hstate⟩

theorem RankPointers.get_set (p : RankPointers) (k r : Rank) (t : TermNo) :
    (p.set k t).get r = if r = k then t else p.get r := by
  cases k <;> cases r <;> rfl

theorem RankPointers.get_after (placed : List (Rank × TermNo)) (p : RankPointers) (r : Rank) : (p.after placed).get r =
    (((placed.filter fun m => decide (m.1 = r)).getLast?).map Prod.snd).getD (p.get r) := by
  unfold RankPointers.after
  induction placed using List.reverseRecOn with
  | nil => rfl
  | append_singleton l m ih =>
    rw [List.foldl_append, List.filter_append]
    simp only [List.foldl_cons, List.foldl_nil, RankPointers.get_set, List.filter_cons, List.filter_nil, decide_eq_true_eq]
    by_cases hm : m.1 = r
    · simp [hm]
    · rw [if_neg (Ne.symm hm), if_neg hm, List.append_nil]
      exact ih

end Sys2Proof.Machine
end

section
/-! SUPPORT. Each terminal reached, and each grant left over, in a composition (R160 to R165). -/

namespace Sys2Proof.Machine

/-! ### What a draft shows of the marks placed -/

theorem Sector.directiveOf_terminal (s : Sector) (c : CarrierNo) (g : FrameNo) (k : Rank) (t : TermNo) :
    (s.directiveOf c g k t).terminal = t := by
  unfold Sector.directiveOf
  cases k with
  | halt => rfl
  | admission => rfl
  | stepDown => dsimp only; split <;> rfl
  | grant => dsimp only; split <;> rfl
  | stepUp => dsimp only; split <;> rfl

theorem Sector.directiveOf_isTrim {s : Sector} {k : Rank} {t : TermNo} (h : k.owedBy (s.term t) = true) (c : CarrierNo)
    (g : FrameNo) : (s.directiveOf c g k t).isTrim = decide (k = .grant) := by
  unfold Sector.directiveOf
  cases k with
  | halt => rfl
  | admission => rfl
  | stepDown => dsimp only; split <;> rfl
  | grant =>
    obtain ⟨w, hw⟩ := Option.isSome_iff_exists.1 h
    simp only [hw]
    rfl
  | stepUp => dsimp only; split <;> rfl

/-- The GRANT of a terminal is late at the list of frame `g` (R162). -/
def Sector.lateFor (s : Sector) (g : FrameNo) (t : TermNo) : Bool := (s.term t).owed.grant.any fun w => !FrameNo.later w.frame g

section
variable {s : Sector} {c : CarrierNo} {g : FrameNo} {placed : List (Rank × TermNo)} {gone : List TermNo} {n : Nat} {d : Draft}
  (h : Draft.Made s c g placed gone n d) {k : Rank} {t : TermNo}
include h

theorem Draft.Made.heldIn (t : TermNo) : d.body.any (fun x => decide (x.terminal = t)) = holds placed t := by
  rw [h.body, List.any_map]
  unfold holds
  congr 1
  funext m
  exact congrArg (fun v => decide (v = t)) (s.directiveOf_terminal c g m.1 m.2)

theorem Draft.Made.trims : d.body.countP Directive.isTrim = placed.countP fun m => decide (m.1 = .grant) := by
  rw [h.body, List.countP_map]
  exact List.countP_congr fun m hm => by rw [Function.comp, Sector.directiveOf_isTrim (h.owed m hm)]

theorem Draft.Made.length : d.body.length = placed.length := by rw [h.body, List.length_map]

theorem Draft.Made.settings : (d.sector.car c).cfg = (s.car c).cfg ∧ (d.sector.car c).state = (s.car c).state := by
  rw [h.car]
  exact Carrier.withdrawnAll_settings s gone (s.car c)

theorem Draft.Made.pace : (d.sector.car c).pace = (s.car c).pace := by
  obtain ⟨hcfg, hstate⟩ := h.settings
  unfold Carrier.pace
  rw [hcfg, hstate]

theorem Draft.Made.owes (hfree : holds placed t = false) (hgone : k = .grant → t ∉ gone) :
    k.owedBy (d.sector.term t) = k.owedBy (s.term t) := by
  rw [h.term]
  cases k with
  | halt => simp [Rank.owedBy, Terminal.marked, sentIn_of_free hfree]
  | admission => simp [Rank.owedBy, Terminal.marked, sentIn_of_free hfree]
  | stepDown => simp [Rank.owedBy, Terminal.marked, sentIn_of_free hfree]
  | grant => simp [Rank.owedBy, Terminal.marked, sentIn_of_free hfree, hgone rfl]
  | stepUp => simp [Rank.owedBy, Terminal.marked, sentIn_of_free hfree]

theorem Draft.Made.grant (hfree : holds placed t = false) (hgone : t ∉ gone) :
    (d.sector.term t).owed.grant = (s.term t).owed.grant := by
  rw [h.term]
  simp [Terminal.marked, sentIn_of_free hfree, hgone]

theorem Draft.Made.directive (hfree : holds placed t = false) (hgone : k = .grant → t ∉ gone) :
    d.sector.directiveOf c g k t = s.directiveOf c g k t := by
  obtain ⟨hcfg, -⟩ := h.settings
  have hterm := h.term t
  unfold Sector.directiveOf Sector.profile
  rw [hcfg, h.profiles, hterm]
  cases k with
  | halt => rfl
  | admission => rfl
  | stepDown => simp [Terminal.marked, sentIn_of_free hfree]
  | grant => simp [Terminal.marked, sentIn_of_free hfree, hgone rfl]
  | stepUp => simp [Terminal.marked, sentIn_of_free hfree]

/-! ### A mark placed -/

theorem Draft.Made.placing (hfree : holds placed t = false) (hgone : k = .grant → t ∉ gone)
    (ho : k.owedBy (s.term t) = true) : Draft.Made s c g (placed ++ [(k, t)]) gone n
      { d with sector := (d.sector.sends c g k t).1.modCar c fun x => { x with dcp := x.dcp.set k t }
               body := d.body ++ [(d.sector.sends c g k t).2] } where
  body := by
    show d.body ++ [d.sector.directiveOf c g k t] = _
    rw [h.directive hfree hgone, h.body, List.map_append]
    rfl
  owed m hm := by
    rcases List.mem_append.1 hm with hm | hm
    · exact h.owed m hm
    · obtain rfl := List.mem_singleton.1 hm
      exact ho
  once := h.once
  taken v hv := by
    obtain ⟨hb, hg, hs⟩ := h.taken v hv
    refine ⟨hb, hg, ?_⟩
    rw [sentIn_append, hs, Bool.false_or, Bool.and_eq_false_iff, decide_eq_false_iff_not, decide_eq_false_iff_not,
      ← not_and_or]
    rintro ⟨rfl, rfl⟩
    exact hgone rfl hv
  term v := by
    show (d.sector.modTerm t _).term v = _
    rw [Sector.term_modTerm, h.settings.1]
    split
    · next hv =>
      subst hv
      rw [h.term, Terminal.marked_place k hfree ho]
    · next hv => rw [h.term, Terminal.marked_place_of_ne k hv]
  car := by
    unfold Sector.sends Sector.countDcp
    rw [Sector.car_modCar_self, Sector.car_modCar_self, Sector.car_modTerm, h.car, DcpCounters.tallied_place]
    unfold RankPointers.after
    rw [List.foldl_append]
    rfl
  onlyCar v hv := by
    unfold Sector.sends Sector.countDcp
    rw [Sector.car_modCar, if_neg hv, Sector.car_modCar, if_neg hv]
    exact h.onlyCar v hv
  profiles := h.profiles
  events := h.events
  handed := h.handed

end

/-! ### A grant withdrawn -/

theorem Sector.withdraw_none {s : Sector} {t : TermNo} (h : (s.term t).owed.grant = none) : s.withdraw t = s := by
  unfold Sector.withdraw
  rw [h]

theorem Sector.withdraw_some {s : Sector} {t : TermNo} {w : GrantRef} (h : (s.term t).owed.grant = some w) :
    s.withdraw t = (s.modTerm t Terminal.withdrawn).modCar (s.carrierOf t) (Carrier.withdrawn t (s.term t)) := by
  have hterm : s.modTerm t Terminal.withdrawn = s.modTerm t fun r =>
      { r with range := { r.range with attempts := r.range.attempts - 1, grant := none }, owed := { r.owed with grant := none } } :=
    modTerm_congr (by unfold Terminal.withdrawn; rw [h])
  have hcar : Carrier.withdrawn t (s.term t) = fun k =>
      { k.clearGrant t w with resCtr := { (k.clearGrant t w).resCtr with
          grantsWithdrawn := (k.clearGrant t w).resCtr.grantsWithdrawn + 1 } } := by
    funext k
    unfold Carrier.withdrawn
    rw [h]
  unfold Sector.withdraw
  rw [hterm, hcar, h]
  refine Eq.trans ?_ (Sector.modCar_modCar _ (s.carrierOf t) (fun k => k.clearGrant t w) fun k =>
    { k with resCtr := { k.resCtr with grantsWithdrawn := k.resCtr.grantsWithdrawn + 1 } })
  rfl

section
variable {s : Sector} {c : CarrierNo} {g : FrameNo} {placed : List (Rank × TermNo)} {gone : List TermNo} {n : Nat} {d : Draft}
  (h : Draft.Made s c g placed gone n d) {t : TermNo}
include h

theorem Draft.Made.withdraw (hb : s.bound c t = true) (hgone : t ∉ gone) (hsent : sentIn placed .grant t = false) {w : GrantRef}
    (hw : (s.term t).owed.grant = some w) :
    Draft.Made s c g placed (gone ++ [t]) n { d with sector := d.sector.withdraw t } := by
  have hgrant : (d.sector.term t).owed.grant = some w := by
    rw [h.term, ← hw]
    simp [Terminal.marked, hgone, hsent]
  have hcarrier : d.sector.carrierOf t = c := by
    obtain ⟨-, hc⟩ := Bool.and_eq_true_iff.1 hb
    unfold Sector.carrierOf
    rw [h.term]
    exact of_decide_eq_true hc
  rw [Sector.withdraw_some hgrant, hcarrier]
  have honce : (gone ++ [t]).Nodup := by
    refine List.nodup_append.2 ⟨h.once, List.nodup_singleton t, fun a ha b hb he => hgone ?_⟩
    rw [← List.mem_singleton.1 hb, ← he]
    exact ha
  have htaken : ∀ v ∈ gone ++ [t], s.bound c v = true ∧ (s.term v).owed.grant.isSome = true ∧ sentIn placed .grant v = false := by
    intro v hv
    rcases List.mem_append.1 hv with hv | hv
    · exact h.taken v hv
    · obtain rfl := List.mem_singleton.1 hv
      exact ⟨hb, Option.isSome_iff_exists.2 ⟨w, hw⟩, hsent⟩
  refine ⟨h.body, h.owed, honce, htaken, fun v => ?_, ?_, fun v hv => ?_, h.profiles, h.events, h.handed⟩
  · show (d.sector.modTerm t Terminal.withdrawn).term v = _
    rw [Sector.term_modTerm]
    split
    · next hv =>
      subst hv
      rw [h.term, Terminal.marked_withdrawn hgone hsent hw]
    · next hv => rw [h.term, Terminal.marked_gone_of_ne hv]
  · have hsame (k : Carrier) : k.withdrawn t (d.sector.term t) = k.withdrawn t (s.term t) := by
      unfold Carrier.withdrawn
      rw [hgrant, hw]
    dsimp only
    rw [Sector.car_modCar_self, Sector.car_modTerm, h.car, Carrier.withdrawn_frame, hsame]
    unfold Carrier.withdrawnAll
    rw [List.foldl_append]
    rfl
  · exact (Sector.onlyCarrier_modCar (d.sector.modTerm t Terminal.withdrawn) c _ v hv).trans (h.onlyCar v hv)

theorem Draft.Made.countLate : Draft.Made s c g placed gone (n + 1)
    { d with sector := d.sector.countDcp c fun n => { n with lateGrants := n.lateGrants + 1 } } := by
  refine ⟨h.body, h.owed, h.once, h.taken, h.term, ?_, fun v hv => ?_, h.profiles, h.events, h.handed⟩
  · unfold Sector.countDcp
    dsimp only
    rw [Sector.car_modCar_self, h.car, DcpCounters.tallied_late]
  · exact (Sector.onlyCarrier_modCar d.sector c _ v hv).trans (h.onlyCar v hv)

/-! ### A terminal reached in a rank -/

/-- A mark that is owed and fit, where there is room or not. -/
theorem Draft.Made.reach_place {k : Rank} (hfree : holds placed t = false) (hgone : k = .grant → t ∉ gone)
    (ho : k.owedBy (s.term t) = true) {late : TermNo → Bool} {pace : Nat} (hfit : ¬ Unfit late pace placed (k, t)) :
    let p := d.place c k t (d.sector.sends c g k t)
    Draft.Made s c g (carried late pace placed [(k, t)]) gone n p ∧
      (p.want = true ↔ d.want = true ∨ wantsNow late pace placed (k, t)) := by
  intro p
  have hp : p = d.place c k t (d.sector.sends c g k t) := rfl
  by_cases hfull : 12 ≤ placed.length
  · rw [Draft.place, if_pos (show bodyPlaces ≤ d.body.length from h.length ▸ hfull)] at hp
    rw [carried_full hfull, hp]
    exact ⟨h.withWant true, iff_of_true rfl (.inr ⟨hfull, hfree, hfit⟩)⟩
  · rw [Draft.place, if_neg (show ¬ bodyPlaces ≤ d.body.length from h.length ▸ hfull)] at hp
    rw [carried_placed (Bool.eq_false_iff.1 hfree) hfit hfull, hp]
    exact ⟨h.placing hfree hgone ho, (or_iff_left fun hw => hfull hw.1).symm⟩

end

/-- The marks that terminal `t` owes in rank `k`. -/
def Sector.marksOf (s : Sector) (m : Rank × TermNo) : List (Rank × TermNo) := if m.1.owedBy (s.term m.2) then [m] else []

theorem overdue_one (late : TermNo → Bool) (pace : Nat) (placed : List (Rank × TermNo)) (m : Rank × TermNo) :
    overdue late pace placed [m] = if m.1 = .grant ∧ late m.2 = true ∧ holds placed m.2 = false then [m.2] else [] :=
  List.append_nil _

theorem wantsPlace_one {late : TermNo → Bool} {pace : Nat} {placed : List (Rank × TermNo)} {m : Rank × TermNo} :
    wantsPlace late pace placed [m] ↔ wantsNow late pace placed m := by
  rw [wantsPlace_cons]
  exact or_iff_left not_wantsPlace_nil

section
variable {s : Sector} {c : CarrierNo} {g : FrameNo} {placed : List (Rank × TermNo)} {gone : List TermNo} {n : Nat} {d : Draft}

/-- A terminal passed over leaves the draft. -/
theorem Draft.Made.passed (h : Draft.Made s c g placed gone n d) {e : Draft} (hd : e = d) {late : TermNo → Bool} {pace : Nat}
    {l : List (Rank × TermNo)} (hnone : overdue late pace placed l = []) (hsame : carried late pace placed l = placed)
    (hwant : ¬ wantsPlace late pace placed l) :
    Draft.Made s c g (carried late pace placed l) (gone ++ overdue late pace placed l)
        (n + (overdue late pace placed l).length) e ∧
      (e.want = true ↔ d.want = true ∨ wantsPlace late pace placed l) := by
  rw [hnone, hsame, hd, List.append_nil]
  exact ⟨h, (or_iff_left hwant).symm⟩

/-- An owed GRANT reached: withdrawn as late, passed over beyond the pace, or placed where there is room (R162). -/
theorem Draft.Made.reach_owedGrant (h : Draft.Made s c g placed gone n d) {t : TermNo} (hb : s.bound c t = true)
    (hfree : holds placed t = false) (hout : t ∉ gone) (ho : Rank.grant.owedBy (s.term t) = true) :
    let late := s.lateFor g
    let pace := (s.car c).pace
    let missed := overdue late pace placed [(Rank.grant, t)]
    Draft.Made s c g (carried late pace placed [(Rank.grant, t)]) (gone ++ missed) (n + missed.length) (d.reach c g .grant t) ∧
      ((d.reach c g .grant t).want = true ↔ d.want = true ∨ wantsPlace late pace placed [(Rank.grant, t)]) := by
  intro late pace missed
  obtain ⟨w, hw⟩ := Option.isSome_iff_exists.1 ho
  have hbody : ¬ d.body.any (fun x => decide (x.terminal = t)) = true := by rw [h.heldIn]; exact Bool.eq_false_iff.1 hfree
  have hlate : late t = !FrameNo.later w.frame g := by
    show (s.term t).owed.grant.any _ = _
    rw [hw]
    rfl
  have hover : missed = if Rank.grant = .grant ∧ late t = true ∧ holds placed t = false then [t] else [] := overdue_one _ _ _ _
  rw [Draft.reach_grant hbody ((h.grant hfree hout).trans hw)]
  by_cases hl : FrameNo.later w.frame g = false
  · have hnow : late t = true := by rw [hlate, hl]; rfl
    have hunfit : Unfit late pace placed (Rank.grant, t) := ⟨rfl, .inl hnow⟩
    rw [if_pos hl, hover, if_pos ⟨rfl, hnow, hfree⟩, carried_unfit hunfit, wantsPlace_one]
    exact ⟨(h.withdraw hb hout (sentIn_of_free hfree _) hw).countLate, (or_iff_left fun hn => hn.2.2 hunfit).symm⟩
  · have hok : ¬ late t = true := by rw [hlate, (Bool.not_eq_false _).mp hl]; decide
    have hnone : missed = [] := by rw [hover, if_neg fun hn => hok hn.2.1]
    rw [if_neg hl, h.pace, h.trims]
    by_cases hpace : (s.car c).pace ≤ placed.countP fun m => decide (m.1 = .grant)
    · have hunfit : Unfit late pace placed (Rank.grant, t) := ⟨rfl, .inr hpace⟩
      rw [if_pos hpace]
      refine h.passed rfl hnone (carried_unfit hunfit) ?_
      rw [wantsPlace_one]
      exact fun hn => hn.2.2 hunfit
    · have hfit : ¬ Unfit late pace placed (Rank.grant, t) := fun hu => hu.2.elim hok hpace
      rw [if_neg hpace, hnone, List.append_nil, wantsPlace_one]
      exact h.reach_place hfree (fun _ => hout) ho hfit

theorem Draft.Made.reach (h : Draft.Made s c g placed gone n d) {m : Rank × TermNo} (hb : s.bound c m.2 = true)
    (hgone : m.1 = .grant → m.2 ∉ gone) :
    let late := s.lateFor g
    let pace := (s.car c).pace
    Draft.Made s c g (carried late pace placed (s.marksOf m)) (gone ++ overdue late pace placed (s.marksOf m))
        (n + (overdue late pace placed (s.marksOf m)).length) (d.reach c g m.1 m.2) ∧
      ((d.reach c g m.1 m.2).want = true ↔ d.want = true ∨ wantsPlace late pace placed (s.marksOf m)) := by
  obtain ⟨k, t⟩ := m
  intro late pace
  dsimp only at hb hgone
  by_cases ho : k.owedBy (s.term t) = true
  · have hmarks : s.marksOf (k, t) = [(k, t)] := if_pos ho
    rw [hmarks]
    by_cases hheld : holds placed t = true
    · refine h.passed (Draft.reach_held (h.heldIn t ▸ hheld)) ?_ (carried_held hheld) ?_
      · rw [overdue_one, if_neg fun hn => Bool.eq_false_iff.1 hn.2.2 hheld]
      · rw [wantsPlace_one]
        exact fun hw => Bool.eq_false_iff.1 hw.2.1 hheld
    · have hfree : holds placed t = false := Bool.eq_false_iff.2 hheld
      have hbody : ¬ d.body.any (fun x => decide (x.terminal = t)) = true := by rw [h.heldIn]; exact hheld
      have howes : k.owedBy (d.sector.term t) = true := (h.owes hfree hgone).trans ho
      by_cases hk : k = .grant
      · subst hk
        exact h.reach_owedGrant hb hfree (hgone rfl) ho
      · have hfit : ¬ Unfit late pace placed (k, t) := fun hu => hk hu.1
        rw [overdue_one, if_neg fun hn => hk hn.1, wantsPlace_one, Draft.reach_owed hbody hk howes, List.append_nil]
        exact h.reach_place hfree hgone ho hfit
  · have hmarks : s.marksOf (k, t) = [] := if_neg ho
    rw [hmarks]
    refine h.passed ?_ rfl rfl not_wantsPlace_nil
    by_cases hheld : holds placed t = true
    · exact Draft.reach_held (h.heldIn t ▸ hheld)
    · exact Draft.reach_unowed ((h.owes (Bool.eq_false_iff.2 hheld) hgone).trans (Bool.eq_false_iff.2 ho))

end

end Sys2Proof.Machine
end

section
/-! SUPPORT. The five ranks in turn, the grants left over, and the list handed (R158 to R165): O51 and O52. -/

namespace Sys2Proof.Machine

/-! ### The marks, rank by rank -/

/-- The terminals of carrier `c` in the order rank `k` takes them (R161), as marks of that rank. -/
def Sector.turnOf (s : Sector) (c : CarrierNo) (k : Rank) : List (Rank × TermNo) :=
  (rotated ((s.car c).dcp.get k) (s.boundTo c)).map fun t => (k, t)

/-- The marks owed in rank `k`, in the order it takes them. -/
def Sector.marksIn (s : Sector) (c : CarrierNo) (k : Rank) : List (Rank × TermNo) := (s.turnOf c k).flatMap s.marksOf

theorem rotated_nodup {p : TermNo} {l : List TermNo} (h : l.Nodup) : (rotated p l).Nodup := by
  unfold rotated
  refine List.nodup_append.2 ⟨h.filter _, h.filter _, fun a ha b hb he => ?_⟩
  have h₁ := of_decide_eq_true (List.mem_filter.1 ha).2
  have h₂ := of_decide_eq_true (List.mem_filter.1 hb).2
  exact absurd h₁ (not_lt.2 (he ▸ h₂))

theorem Sector.mem_turnOf {s : Sector} {c : CarrierNo} {k : Rank} {m : Rank × TermNo} :
    m ∈ s.turnOf c k ↔ m.1 = k ∧ s.bound c m.2 = true := by
  unfold Sector.turnOf
  simp only [List.mem_map, mem_rotated]
  constructor
  · rintro ⟨t, ht, rfl⟩
    exact ⟨rfl, (List.mem_filter.1 ht).2⟩
  · rintro ⟨rfl, hb⟩
    exact ⟨m.2, List.mem_filter.2 ⟨List.mem_finRange _, hb⟩, rfl⟩

theorem Sector.turnOf_nodup (s : Sector) (c : CarrierNo) (k : Rank) : (s.turnOf c k).Nodup :=
  (rotated_nodup ((List.nodup_finRange 256).filter _)).map fun _ _ h => (Prod.mk.inj h).2

theorem Sector.mem_marksIn {s : Sector} {c : CarrierNo} {k : Rank} {m : Rank × TermNo} :
    m ∈ s.marksIn c k ↔ m.1 = k ∧ s.bound c m.2 = true ∧ k.owedBy (s.term m.2) = true := by
  unfold Sector.marksIn Sector.marksOf
  simp only [List.mem_flatMap, Sector.mem_turnOf]
  constructor
  · rintro ⟨x, ⟨rfl, hb⟩, hm⟩
    split at hm
    · next ho =>
      obtain rfl := List.mem_singleton.1 hm
      exact ⟨rfl, hb, ho⟩
    · exact nomatch hm
  · rintro ⟨rfl, hb, ho⟩
    exact ⟨m, ⟨rfl, hb⟩, by rw [if_pos ho]; exact List.mem_singleton_self m⟩

theorem mem_overdue_marksOf {late : TermNo → Bool} {pace : Nat} {placed : List (Rank × TermNo)} {s : Sector} {m : Rank × TermNo}
    {t : TermNo} (h : t ∈ overdue late pace placed (s.marksOf m)) : m.1 = .grant ∧ t = m.2 := by
  unfold Sector.marksOf at h
  split at h
  · rw [overdue_one] at h
    split at h
    · next hm => exact ⟨hm.1, List.mem_singleton.1 h⟩
    · exact nomatch h
  · exact nomatch h

theorem wantsPlace_append {late : TermNo → Bool} {pace : Nat} {placed : List (Rank × TermNo)} (a b : List (Rank × TermNo)) :
    wantsPlace late pace placed (a ++ b) ↔
      wantsPlace late pace placed a ∨ wantsPlace late pace (carried late pace placed a) b := by
  induction a generalizing placed with
  | nil => exact (or_iff_right not_wantsPlace_nil).symm
  | cons m a ih => rw [List.cons_append, wantsPlace_cons, ih, wantsPlace_cons, carried_cons m a, or_assoc]

section
variable {s : Sector} {c : CarrierNo} {g : FrameNo}

theorem Draft.Made.foldl {placed : List (Rank × TermNo)} {gone : List TermNo} {n : Nat} {d : Draft}
    (h : Draft.Made s c g placed gone n d) {l : List (Rank × TermNo)} (hb : ∀ m ∈ l, s.bound c m.2 = true) (hl : l.Nodup)
    (hgone : ∀ m ∈ l, m.1 = .grant → m.2 ∉ gone) :
    let late := s.lateFor g
    let pace := (s.car c).pace
    let marks := l.flatMap s.marksOf
    let e := l.foldl (fun d m => d.reach c g m.1 m.2) d
    Draft.Made s c g (carried late pace placed marks) (gone ++ overdue late pace placed marks)
        (n + (overdue late pace placed marks).length) e ∧
      (e.want = true ↔ d.want = true ∨ wantsPlace late pace placed marks) := by
  intro late pace
  induction l generalizing placed gone n d with
  | nil =>
    refine ⟨?_, (or_iff_left not_wantsPlace_nil).symm⟩
    rw [List.flatMap_nil, overdue, List.append_nil]
    exact h
  | cons m l ih =>
    obtain ⟨hm, hl⟩ := List.nodup_cons.1 hl
    obtain ⟨hmade, hwant⟩ := h.reach (hb m (List.mem_cons_self ..)) (hgone m (List.mem_cons_self ..))
    have hnext : ∀ x ∈ l, x.1 = .grant → x.2 ∉ gone ++ overdue late pace placed (s.marksOf m) := by
      intro x hx hxg hin
      rcases List.mem_append.1 hin with hin | hin
      · exact hgone x (List.mem_cons_of_mem m hx) hxg hin
      · obtain ⟨hmg, hxm⟩ := mem_overdue_marksOf hin
        exact hm (Prod.ext (hxg.trans hmg.symm) hxm ▸ hx)
    obtain ⟨hrest, hwants⟩ := ih hmade (fun x hx => hb x (List.mem_cons_of_mem m hx)) hl hnext
    rw [List.foldl_cons, List.flatMap_cons]
    dsimp only
    rw [carried_append, overdue_append, wantsPlace_append, List.length_append]
    rw [List.append_assoc, Nat.add_assoc] at hrest
    refine ⟨hrest, ?_⟩
    rw [hwants, hwant, or_assoc]

/-- One rank: its pointer is as it was while no mark of it is placed. -/
theorem Draft.Made.rank {placed : List (Rank × TermNo)} {gone : List TermNo} {n : Nat} {d : Draft}
    (h : Draft.Made s c g placed gone n d) {k : Rank} (hk : ∀ m ∈ placed, m.1 ≠ k) (hgone : k = .grant → gone = []) :
    let late := s.lateFor g
    let pace := (s.car c).pace
    let marks := s.marksIn c k
    Draft.Made s c g (carried late pace placed marks) (gone ++ overdue late pace placed marks)
        (n + (overdue late pace placed marks).length) (d.rank c g k) ∧
      ((d.rank c g k).want = true ↔ d.want = true ∨ wantsPlace late pace placed marks) := by
  have hptr : (d.sector.car c).dcp.get k = (s.car c).dcp.get k := by
    rw [h.car]
    refine (RankPointers.get_after placed _ k).trans ?_
    rw [List.filter_eq_nil_iff.2 fun m hm => by rw [decide_eq_true_eq]; exact hk m hm]
    rfl
  have hbound : d.sector.boundTo c = s.boundTo c := by
    unfold Sector.boundTo
    exact List.filter_congr fun t _ => h.bound t
  have hrank : d.rank c g k = (s.turnOf c k).foldl (fun d m => d.reach c g m.1 m.2) d := by
    unfold Draft.rank Sector.turnOf
    rw [hptr, hbound, List.foldl_map]
  rw [hrank]
  refine h.foldl (fun m hm => (Sector.mem_turnOf.1 hm).2) (s.turnOf_nodup c k) fun m hm hg => ?_
  rw [hgone ((Sector.mem_turnOf.1 hm).1.symm.trans hg)]
  exact List.not_mem_nil

/-- The ranks of `ks` in turn. -/
theorem Draft.Made.ranks {ks : List Rank} (hks : ks.Nodup) {placed : List (Rank × TermNo)} {gone : List TermNo} {n : Nat} {d : Draft}
    (h : Draft.Made s c g placed gone n d) (hplaced : ∀ m ∈ placed, m.1 ∉ ks) (hgone : Rank.grant ∈ ks → gone = []) :
    let late := s.lateFor g
    let pace := (s.car c).pace
    let marks := ks.flatMap (s.marksIn c)
    Draft.Made s c g (carried late pace placed marks) (gone ++ overdue late pace placed marks)
        (n + (overdue late pace placed marks).length) (ks.foldl (Draft.rank c g) d) ∧
      ((ks.foldl (Draft.rank c g) d).want = true ↔ d.want = true ∨ wantsPlace late pace placed marks) := by
  intro late pace
  induction ks generalizing placed gone n d with
  | nil =>
    refine ⟨?_, (or_iff_left not_wantsPlace_nil).symm⟩
    rw [List.flatMap_nil, overdue, List.append_nil]
    exact h
  | cons k ks ih =>
    obtain ⟨hk, hks⟩ := List.nodup_cons.1 hks
    obtain ⟨hmade, hwant⟩ := h.rank (fun m hm hmk => hplaced m hm (hmk ▸ List.mem_cons_self ..))
      fun hkg => hgone (hkg ▸ List.mem_cons_self ..)
    have hranks : ∀ m ∈ carried late pace placed (s.marksIn c k), m.1 ∉ ks := by
      intro m hm hin
      rcases mem_carried hm with hm | hm
      · exact hplaced m hm (List.mem_cons_of_mem k hin)
      · rw [(Sector.mem_marksIn.1 hm).1] at hin
        exact hk hin
    have hnone : Rank.grant ∈ ks → gone ++ overdue late pace placed (s.marksIn c k) = [] := by
      intro hg
      rw [hgone (List.mem_cons_of_mem k hg), List.nil_append]
      refine overdue_none fun m hm hmg => hk ?_
      rw [← (Sector.mem_marksIn.1 hm).1, hmg]
      exact hg
    obtain ⟨hrest, hwants⟩ := ih hks hmade hranks hnone
    rw [List.foldl_cons, List.flatMap_cons]
    dsimp only
    rw [carried_append, overdue_append, wantsPlace_append, List.length_append]
    rw [List.append_assoc, Nat.add_assoc] at hrest
    refine ⟨hrest, ?_⟩
    rw [hwants, hwant, or_assoc]

/-! ### Grants left over (R165) -/

theorem Draft.Made.withdrawLeft {placed : List (Rank × TermNo)} {n : Nat} {l : List TermNo} (hl : ∀ t ∈ l, s.bound c t = true)
    {gone : List TermNo} {d : Draft} (h : Draft.Made s c g placed gone n d) :
    ∃ all, Draft.Made s c g placed all n { d with sector := l.foldl Sector.withdraw d.sector } ∧
      (∀ t ∈ gone, t ∈ all) ∧
      ∀ t ∈ l, (s.term t).owed.grant.isSome = true → sentIn placed .grant t = false → t ∈ all := by
  induction l generalizing gone d with
  | nil => exact ⟨gone, h, fun _ => id, nofun⟩
  | cons t l ih =>
    have hrest := fun v hv => hl v (List.mem_cons_of_mem t hv)
    by_cases hout : (s.term t).owed.grant.isSome = true ∧ sentIn placed .grant t = false ∧ t ∉ gone
    · obtain ⟨hsome, hsent, hgone⟩ := hout
      obtain ⟨w, hw⟩ := Option.isSome_iff_exists.1 hsome
      obtain ⟨all, hall, hkeep, htake⟩ := ih hrest (h.withdraw (hl t (List.mem_cons_self ..)) hgone hsent hw)
      refine ⟨all, hall, fun v hv => hkeep v (List.mem_append_left _ hv), fun v hv hv₁ hv₂ => ?_⟩
      rcases List.mem_cons.1 hv with rfl | hv
      · exact hkeep v (List.mem_append_right _ (List.mem_singleton_self v))
      · exact htake v hv hv₁ hv₂
    · have hnone : (d.sector.term t).owed.grant = none := by
        rw [h.term]
        by_cases hsome : (s.term t).owed.grant.isSome = true
        · have hin : sentIn placed .grant t = true ∨ t ∈ gone := by
            by_contra hn
            obtain ⟨hn₁, hn₂⟩ := not_or.1 hn
            exact hout ⟨hsome, Bool.eq_false_iff.2 hn₁, hn₂⟩
          rcases hin with hin | hin
          · simp [Terminal.marked, hin]
          · simp [Terminal.marked, hin]
        · simp [Terminal.marked, Option.not_isSome_iff_eq_none.1 hsome]
      obtain ⟨all, hall, hkeep, htake⟩ := ih hrest h
      rw [List.foldl_cons, Sector.withdraw_none hnone]
      refine ⟨all, hall, hkeep, fun v hv hv₁ hv₂ => ?_⟩
      rcases List.mem_cons.1 hv with rfl | hv
      · exact hkeep v (by_contra fun hn => hout ⟨hv₁, hv₂, hn⟩)
      · exact htake v hv hv₁ hv₂

end

end Sys2Proof.Machine
end

section
/-! SUPPORT. The cells and counters that a composition leaves (R160 to R165). -/

namespace Sys2Proof.Machine

/-! ### The counters -/

/-- The directives of rank `k` placed, as a count. -/
def numberOf (placed : List (Rank × TermNo)) (k : Rank) : Counter := BitVec.ofNat 32 (placed.countP fun m => decide (m.1 = k))

theorem numberOf_append (placed : List (Rank × TermNo)) (m : Rank × TermNo) (k : Rank) :
    numberOf (placed ++ [m]) k = if m.1 = k then numberOf placed k + 1 else numberOf placed k := by
  unfold numberOf
  rw [List.countP_append, List.countP_singleton]
  by_cases h : m.1 = k
  · simp only [h, decide_true, if_true, BitVec.ofNat_add]
    rfl
  · simp only [h, decide_false, if_false, Bool.false_eq_true, Nat.add_zero]

theorem DcpCounters.tallied_eq (placed : List (Rank × TermNo)) (n : Nat) (ctr : DcpCounters) : ctr.tallied placed n =
    { ctr with haltsSent := ctr.haltsSent + numberOf placed .halt, admitsSent := ctr.admitsSent + numberOf placed .admission
               downsSent := ctr.downsSent + numberOf placed .stepDown, upsSent := ctr.upsSent + numberOf placed .stepUp
               trimsSent := ctr.trimsSent + numberOf placed .grant, lateGrants := ctr.lateGrants + BitVec.ofNat 32 n } := by
  induction placed using List.reverseRecOn with
  | nil => simp [DcpCounters.tallied, numberOf]
  | append_singleton l m ih =>
    obtain ⟨k, t⟩ := m
    rw [DcpCounters.tallied_place, ih]
    cases k with
    | halt => simp [DcpCounters.sentAs, numberOf_append, BitVec.add_assoc]
    | admission => simp [DcpCounters.sentAs, numberOf_append, BitVec.add_assoc]
    | stepDown => simp [DcpCounters.sentAs, numberOf_append, BitVec.add_assoc]
    | grant => simp [DcpCounters.sentAs, numberOf_append, BitVec.add_assoc]
    | stepUp => simp [DcpCounters.sentAs, numberOf_append, BitVec.add_assoc]

theorem Carrier.withdrawnAll_resCtr {s : Sector} {gone : List TermNo} (h : ∀ t ∈ gone, (s.term t).owed.grant.isSome = true)
    (k : Carrier) : (k.withdrawnAll s gone).resCtr =
      { k.resCtr with grantsWithdrawn := k.resCtr.grantsWithdrawn + BitVec.ofNat 32 gone.length } := by
  unfold Carrier.withdrawnAll
  induction gone generalizing k with
  | nil => simp
  | cons t l ih =>
    obtain ⟨w, hw⟩ := Option.isSome_iff_exists.1 (h t (List.mem_cons_self ..))
    obtain ⟨cal, hcal⟩ := k.clearGrant_calendar t w
    have hone : (k.withdrawn t (s.term t)).resCtr = { k.resCtr with grantsWithdrawn := k.resCtr.grantsWithdrawn + 1 } := by
      unfold Carrier.withdrawn
      rw [hw]
      dsimp only
      rw [hcal]
    rw [List.foldl_cons, ih (fun v hv => h v (List.mem_cons_of_mem t hv)), hone, List.length_cons]
    simp only [ResCounters.mk.injEq, and_self, true_and, and_true]
    rw [BitVec.add_assoc, BitVec.ofNat_add, BitVec.add_comm 1]
    rfl

/-! ### The cells -/

theorem Carrier.withdrawn_cell (k : Carrier) (t : TermNo) (r : Terminal) (u : FrameNo) (x : SlotNo) :
    ((∃ n, k.cell u x = .granted t n) → r.owed.grant = some { frame := u, slot := x } → (k.withdrawn t r).cell u x = .empty) ∧
    (((∃ n, k.cell u x = .granted t n) → r.owed.grant ≠ some { frame := u, slot := x }) → (k.withdrawn t r).cell u x = k.cell u x) := by
  have hclear (w : GrantRef) (hw : r.owed.grant = some w) : (k.withdrawn t r).cell u x = (k.clearGrant t w).cell u x := by
    unfold Carrier.withdrawn
    rw [hw]
    rfl
  constructor
  · rintro ⟨n, hn⟩ hw
    rw [hclear _ hw]
    unfold Carrier.clearGrant
    simp only [hn, if_true]
    rw [Carrier.cell_setCell_empty, if_pos ⟨rfl, rfl⟩]
  · intro hkeep
    cases hw : r.owed.grant with
    | none =>
      unfold Carrier.withdrawn
      rw [hw]
    | some w =>
      rw [hclear w hw]
      unfold Carrier.clearGrant
      split
      · next o n hcell =>
        split
        · next ho =>
          rw [Carrier.cell_setCell_empty, if_neg]
          rintro ⟨rfl, rfl⟩
          exact hkeep ⟨n, ho ▸ hcell⟩ hw
        · rfl
      · rfl

theorem Carrier.withdrawnAll_kept {s : Sector} {gone : List TermNo} {k : Carrier} {u : FrameNo} {x : SlotNo}
    (h : ∀ t ∈ gone, ∀ n, k.cell u x = .granted t n → (s.term t).owed.grant ≠ some { frame := u, slot := x }) :
    (k.withdrawnAll s gone).cell u x = k.cell u x := by
  unfold Carrier.withdrawnAll
  induction gone generalizing k with
  | nil => rfl
  | cons t l ih =>
    have hone := (k.withdrawn_cell t (s.term t) u x).2 fun ⟨n, hn⟩ => h t (List.mem_cons_self ..) n hn
    rw [List.foldl_cons, ih fun v hv n hn => h v (List.mem_cons_of_mem t hv) n (hone ▸ hn), hone]

theorem Carrier.withdrawnAll_cleared {s : Sector} {gone : List TermNo} {k : Carrier} {u : FrameNo} {x : SlotNo} {t : TermNo}
    {n : Nat} (ht : t ∈ gone) (hcell : k.cell u x = .granted t n) (hw : (s.term t).owed.grant = some { frame := u, slot := x }) :
    (k.withdrawnAll s gone).cell u x = .empty := by
  unfold Carrier.withdrawnAll
  induction gone generalizing k with
  | nil => exact absurd ht List.not_mem_nil
  | cons v l ih =>
    rw [List.foldl_cons]
    by_cases hv : v = t
    · subst hv
      have hone := (k.withdrawn_cell v (s.term v) u x).1 ⟨n, hcell⟩ hw
      exact (Carrier.withdrawnAll_kept fun y _ m hm => absurd (hone.symm.trans hm) nofun).trans hone
    · have hone := (k.withdrawn_cell v (s.term v) u x).2 fun ⟨m, hm⟩ => by
        rw [hcell] at hm
        exact absurd (Cell.granted.inj hm).1.symm hv
      exact ih ((List.mem_cons.1 ht).resolve_left (Ne.symm hv)) (hone.trans hcell)

end Sys2Proof.Machine
end

section
/-! SUPPORT. The list handed at a list-close (R158 to R165): O51 and O52. -/

namespace Sys2Proof.Machine

/-! ### The whole composition -/

/-- All marks owed on carrier `c`, in the order the ranks take them. -/
def Sector.marksOn (s : Sector) (c : CarrierNo) : List (Rank × TermNo) := allRanks.flatMap (s.marksIn c)

/-- The marks that the list of frame `g` carries. -/
def Sector.carriedOn (s : Sector) (c : CarrierNo) (g : FrameNo) : List (Rank × TermNo) :=
  carried (s.lateFor g) (s.car c).pace [] (s.marksOn c)

/-- The terminals whose GRANT was too late for the list of frame `g`. -/
def Sector.overdueOn (s : Sector) (c : CarrierNo) (g : FrameNo) : List TermNo :=
  overdue (s.lateFor g) (s.car c).pace [] (s.marksOn c)

theorem Sector.compose_made (s : Sector) (c : CarrierNo) (g : FrameNo) :
    ∃ all d, Draft.Made s c g (s.carriedOn c g) all (s.overdueOn c g).length d ∧ (s.overdueOn c g).Nodup ∧
      (∀ t, t ∈ all ↔ s.bound c t = true ∧ (s.term t).owed.grant.isSome = true ∧ sentIn (s.carriedOn c g) .grant t = false) ∧
      (d.want = true ↔ wantsPlace (s.lateFor g) (s.car c).pace [] (s.marksOn c)) ∧
      s.compose c g = (if d.want then d.sector.noteFull c else d.sector, d.body) := by
  obtain ⟨hmade, hwant⟩ := (Draft.Made.start s c g).ranks (ks := allRanks) (by decide) nofun fun _ => rfl
  have hcompose : s.compose c g = (
      let e := allRanks.foldl (Draft.rank c g) { sector := s, body := [], want := false }
      (if e.want then (e.sector.withdrawLeft c).noteFull c else e.sector.withdrawLeft c, e.body)) := rfl
  generalize allRanks.foldl (Draft.rank c g) { sector := s, body := [], want := false } = e at hmade hwant hcompose
  have hnodup := hmade.once
  rw [List.nil_append] at hnodup
  obtain ⟨all, hall, -, htake⟩ := hmade.withdrawLeft (l := s.boundTo c) fun t ht => (List.mem_filter.1 ht).2
  rw [Nat.zero_add] at hall
  have hleft : (s.boundTo c).foldl Sector.withdraw e.sector = e.sector.withdrawLeft c := by
    unfold Sector.withdrawLeft
    congr 1
    exact (List.filter_congr fun t _ => hmade.bound t).symm
  rw [hleft] at hall
  refine ⟨all, _, hall, hnodup, fun t => ⟨hall.taken t, fun ⟨hb, hg, hs⟩ => htake t ?_ hg hs⟩, ?_, hcompose⟩
  · exact List.mem_filter.2 ⟨List.mem_finRange t, hb⟩
  · exact hwant.trans (or_iff_right Bool.false_ne_true)

/-! ### Which marks are placed -/

theorem Sector.mem_marksOn {s : Sector} {c : CarrierNo} {m : Rank × TermNo} :
    m ∈ s.marksOn c ↔ s.bound c m.2 = true ∧ m.1.owedBy (s.term m.2) = true := by
  unfold Sector.marksOn
  simp only [List.mem_flatMap, Sector.mem_marksIn]
  constructor
  · rintro ⟨k, -, rfl, h⟩
    exact h
  · intro h
    refine ⟨m.1, ?_, rfl, h⟩
    cases m.1 <;> decide

theorem Sector.mem_carriedOn {s : Sector} {c : CarrierNo} {g : FrameNo} {m : Rank × TermNo} (h : m ∈ s.carriedOn c g) :
    s.bound c m.2 = true ∧ m.1.owedBy (s.term m.2) = true :=
  Sector.mem_marksOn.1 ((mem_carried h).resolve_left List.not_mem_nil)

theorem Sector.lateFor_owed {s : Sector} {g : FrameNo} {t : TermNo} (h : s.lateFor g t = true) :
    Rank.grant.owedBy (s.term t) = true := by
  unfold Sector.lateFor at h
  unfold Rank.owedBy
  cases hw : (s.term t).owed.grant with
  | none => rw [hw] at h; exact nomatch h
  | some w => rfl

/-- A late GRANT counts unless its terminal holds a directive of a rank before (R162). -/
theorem Sector.mem_overdueOn {s : Sector} {c : CarrierNo} {g : FrameNo} {t : TermNo} : t ∈ s.overdueOn c g ↔
    s.bound c t = true ∧ s.lateFor g t = true ∧ sentIn (s.carriedOn c g) .halt t = false ∧
      sentIn (s.carriedOn c g) .admission t = false ∧ sentIn (s.carriedOn c g) .stepDown t = false := by
  have hmarks : s.marksOn c = (s.marksIn c .halt ++ s.marksIn c .admission ++ s.marksIn c .stepDown) ++
      (s.marksIn c .grant ++ s.marksIn c .stepUp) := by
    simp only [Sector.marksOn, allRanks, List.flatMap_cons, List.flatMap_nil, List.append_nil, List.append_assoc]
  have hfirst {m : Rank × TermNo} (hm : m ∈ s.marksIn c .halt ++ s.marksIn c .admission ++ s.marksIn c .stepDown) :
      m.1 = .halt ∨ m.1 = .admission ∨ m.1 = .stepDown := by
    rcases List.mem_append.1 hm with hm | hm
    · rcases List.mem_append.1 hm with hm | hm
      · exact .inl (Sector.mem_marksIn.1 hm).1
      · exact .inr (.inl (Sector.mem_marksIn.1 hm).1)
    · exact .inr (.inr (Sector.mem_marksIn.1 hm).1)
  have hlast {m : Rank × TermNo} (hm : m ∈ s.marksIn c .grant ++ s.marksIn c .stepUp) : m.1 = .grant ∨ m.1 = .stepUp :=
    (List.mem_append.1 hm).imp (fun hm => (Sector.mem_marksIn.1 hm).1) fun hm => (Sector.mem_marksIn.1 hm).1
  unfold Sector.overdueOn Sector.carriedOn
  rw [hmarks]
  generalize s.marksIn c .halt ++ s.marksIn c .admission ++ s.marksIn c .stepDown = before at hfirst ⊢
  have hsent {k : Rank} (hk : k = .halt ∨ k = .admission ∨ k = .stepDown) :
      sentIn (carried (s.lateFor g) (s.car c).pace [] (before ++ (s.marksIn c .grant ++ s.marksIn c .stepUp))) k t =
        sentIn (carried (s.lateFor g) (s.car c).pace [] before) k t := by
    unfold sentIn
    rw [carried_append, decide_eq_decide]
    refine ⟨fun hm => (mem_carried hm).resolve_right fun hin => ?_, fun hm => mem_carried_of_mem hm⟩
    rcases hlast hin with rfl | rfl
    · simp at hk
    · simp at hk
  rw [hsent (.inl rfl), hsent (.inr (.inl rfl)), hsent (.inr (.inr rfl)), overdue_append, overdue_append,
    overdue_none fun m hm => by rcases hfirst hm with h | h | h <;> rw [h] <;> decide,
    overdue_none (l := s.marksIn c .stepUp) fun m hm => by rw [(Sector.mem_marksIn.1 hm).1]; decide,
    List.nil_append, List.append_nil, mem_overdue fun m hm => (Sector.mem_marksIn.1 hm).1, Sector.mem_marksIn]
  have hholds : holds (carried (s.lateFor g) (s.car c).pace [] before) t = false ↔
      sentIn (carried (s.lateFor g) (s.car c).pace [] before) .halt t = false ∧
      sentIn (carried (s.lateFor g) (s.car c).pace [] before) .admission t = false ∧
      sentIn (carried (s.lateFor g) (s.car c).pace [] before) .stepDown t = false := by
    refine ⟨fun h => ⟨sentIn_of_free h _, sentIn_of_free h _, sentIn_of_free h _⟩, fun ⟨h₁, h₂, h₃⟩ => ?_⟩
    refine Bool.eq_false_iff.2 fun hh => ?_
    obtain ⟨k, hk⟩ := holds_iff.1 hh
    have hin : sentIn (carried (s.lateFor g) (s.car c).pace [] before) k t = true := decide_eq_true hk
    rcases hfirst ((mem_carried hk).resolve_left List.not_mem_nil) with rfl | rfl | rfl
    · exact Bool.false_ne_true (h₁.symm.trans hin)
    · exact Bool.false_ne_true (h₂.symm.trans hin)
    · exact Bool.false_ne_true (h₃.symm.trans hin)
  rw [hholds]
  exact ⟨fun ⟨⟨_, hb, _⟩, hl, hs⟩ => ⟨hb, hl, hs⟩, fun ⟨hb, hl, hs⟩ => ⟨⟨rfl, hb, Sector.lateFor_owed hl⟩, hl, hs⟩⟩

theorem countP_eq_length {l : List TermNo} (hl : l.Nodup) {p : TermNo → Bool} (h : ∀ t, t ∈ l ↔ p t = true) :
    (List.finRange 256).countP p = l.length := by
  rw [List.countP_eq_length_filter]
  refine (((List.perm_ext_iff_of_nodup ((List.nodup_finRange 256).filter p) hl)).2 fun t => ?_).length_eq
  rw [List.mem_filter, h]
  exact and_iff_right (List.mem_finRange t)

end Sys2Proof.Machine
end

section
/-! SUPPORT. What a list-close answers (R158, R159, R165): O51 and O52. -/

namespace Sys2Proof.Machine

/-! ### The list-close of a carrier, by its state -/

/-- The sector with the list-close counted. -/
def Sector.closing (s : Sector) (c : CarrierNo) : Sector := s.countDcp c fun n => { n with listCloses := n.listCloses + 1 }

theorem Sector.closing_car (s : Sector) (c : CarrierNo) : (s.closing c).car c =
    { s.car c with dcpCtr := { (s.car c).dcpCtr with listCloses := (s.car c).dcpCtr.listCloses + 1 } } :=
  Sector.car_modCar_self s c _

/-- A sector whose list was full, where it was. -/
def Sector.fullIf (b : Bool) (c : CarrierNo) (s : Sector) : Sector := if b then s.noteFull c else s

theorem Sector.fullIf_term (b : Bool) (c : CarrierNo) (s : Sector) (t : TermNo) : (s.fullIf b c).term t = s.term t := by
  cases b <;> rfl

theorem Sector.fullIf_mlOut (b : Bool) (c : CarrierNo) (s : Sector) : (s.fullIf b c).mlOut = s.mlOut := by
  cases b <;> rfl

theorem Sector.fullIf_events (b : Bool) (c : CarrierNo) (s : Sector) :
    (s.fullIf b c).events = if b then { s.events with listFull := insertNo c s.events.listFull } else s.events := by
  cases b <;> rfl

theorem Sector.fullIf_onlyCar (b : Bool) (c : CarrierNo) (s : Sector) : OnlyCarrier s (s.fullIf b c) c := by
  cases b with
  | false => exact fun _ _ => rfl
  | true => exact Sector.onlyCarrier_modCar s c fun k => { k with dcpCtr := { k.dcpCtr with fullLists := k.dcpCtr.fullLists + 1 } }

theorem Sector.fullIf_car (b : Bool) (c : CarrierNo) (s : Sector) : (s.fullIf b c).car c =
    { s.car c with dcpCtr := { (s.car c).dcpCtr with
        fullLists := if b then (s.car c).dcpCtr.fullLists + 1 else (s.car c).dcpCtr.fullLists } } := by
  cases b with
  | false => rfl
  | true => exact Sector.car_modCar_self s c fun k => { k with dcpCtr := { k.dcpCtr with fullLists := k.dcpCtr.fullLists + 1 } }

/-- The list of an UP or RECOVERING carrier. -/
def Sector.listOf (s : Sector) (c : CarrierNo) (g : FrameNo) (body : List Directive) : DirectiveList :=
  { carrier := c, frame := g, exponent := (s.car c).res.exponent, offered := (s.car c).offeredSlots g, body := body }

theorem Sector.listClose_active {s : Sector} {c : CarrierNo} (h : (s.car c).state = .up ∨ (s.car c).state = .recovering)
    (g : FrameNo) : s.listClose c g =
      ((s.closing c).compose c g).1.handOut [.list (s.listOf c g ((s.closing c).compose c g).2)] := if_pos h

/-- The carrier with a list that is a header alone counted. -/
def Carrier.headed (k : Carrier) : Carrier := { k with dcpCtr := { k.dcpCtr with headerOnly := k.dcpCtr.headerOnly + 1 } }

/-- The list of a carrier in DOWN or DISABLED is a header (R158). -/
theorem Sector.listClose_idle {s : Sector} {c : CarrierNo} (h : (s.car c).state = .down ∨ (s.car c).state = .disabled)
    (g : FrameNo) : s.listClose c g = ((s.closing c).countDcp c fun n => { n with headerOnly := n.headerOnly + 1 }).handOut
      [.list { carrier := c, frame := g, exponent := (s.car c).res.exponent, offered := [], body := [] }] := by
  refine if_neg ?_
  rcases h with h | h
  · simp [h]
  · simp [h]

theorem exec_listClose (c : CarrierNo) (g : FrameNo) (s : State) :
    ∃ v, exec (.listClose c g) s = .next v ∧ OnlyLinkSide s v ∧ v.sector = s.sector.listClose c g :=
  ⟨_, rfl, State.event_only s _, State.event_sector s _⟩

/-- The offered slots of a header: those of the row at grant lead ahead, when it is filled (R159). -/
theorem Carrier.offeredSlots_eq (k : Carrier) (g : FrameNo) :
    (∀ row, k.row? (g + BitVec.ofNat 16 k.cfg.grantLead) = some row → row.filled = true →
      k.offeredSlots g = (List.finRange 32).filter fun z => decide (row.cell z = .offered)) ∧
    ((∀ row, k.row? (g + BitVec.ofNat 16 k.cfg.grantLead) = some row → row.filled = false) → k.offeredSlots g = []) := by
  unfold Carrier.offeredSlots FrameNo.plus
  cases k.row? (g + BitVec.ofNat 16 k.cfg.grantLead) with
  | none => exact ⟨nofun, fun _ => rfl⟩
  | some row =>
    refine ⟨fun r hr hf => ?_, fun h => ?_⟩
    · obtain rfl := Option.some.inj hr
      exact if_pos hf
    · have hf := h row rfl
      dsimp only
      rw [hf]
      rfl

/-! ### Counting the close leaves the marks -/

theorem Sector.closing_pace (s : Sector) (c : CarrierNo) : ((s.closing c).car c).pace = (s.car c).pace := by
  rw [Sector.closing_car]
  rfl

theorem Sector.closing_marksOn (s : Sector) (c : CarrierNo) : (s.closing c).marksOn c = s.marksOn c := by
  have hturn (k : Rank) : (s.closing c).turnOf c k = s.turnOf c k := by
    unfold Sector.turnOf
    rw [Sector.closing_car]
    rfl
  unfold Sector.marksOn Sector.marksIn
  simp only [hturn]
  rfl

theorem Sector.closing_carriedOn (s : Sector) (c : CarrierNo) (g : FrameNo) :
    (s.closing c).carriedOn c g = s.carriedOn c g := by
  unfold Sector.carriedOn
  rw [Sector.closing_pace, Sector.closing_marksOn]
  rfl

theorem Sector.closing_overdueOn (s : Sector) (c : CarrierNo) (g : FrameNo) :
    (s.closing c).overdueOn c g = s.overdueOn c g := by
  unfold Sector.overdueOn
  rw [Sector.closing_pace, Sector.closing_marksOn]
  rfl

theorem Sector.closing_directiveOf (s : Sector) (c : CarrierNo) (g : FrameNo) (k : Rank) (t : TermNo) :
    (s.closing c).directiveOf c g k t = s.directiveOf c g k t := by
  unfold Sector.directiveOf
  rw [Sector.closing_car]
  rfl

/-- What a list-close makes of the sector of an active carrier: `all` the terminals whose GRANT was withdrawn, `full` whether a
mark found no place. -/
structure Sector.Listed (s : Sector) (c : CarrierNo) (g : FrameNo) (all : List TermNo) (full : Bool) (v : Sector) : Prop where
  term : ∀ t, v.term t = (s.term t).marked (FrameNo.plus g (s.car c).cfg.applyLead) (s.carriedOn c g) all t
  onlyCar : OnlyCarrier s v c
  handed : v.mlOut = s.mlOut ++ [.list (s.listOf c g ((s.carriedOn c g).map fun m => s.directiveOf c g m.1 m.2))]
  counters : (v.car c).dcpCtr = { (s.car c).dcpCtr.tallied (s.carriedOn c g) (s.overdueOn c g).length with
    listCloses := (s.car c).dcpCtr.listCloses + 1
    fullLists := if full then (s.car c).dcpCtr.fullLists + 1 else (s.car c).dcpCtr.fullLists }
  car : { v.car c with dcpCtr := (s.car c).dcpCtr } =
    { (s.car c).withdrawnAll s all with dcp := (s.car c).dcp.after (s.carriedOn c g), dcpCtr := (s.car c).dcpCtr }
  events : v.events = if full then { s.events with listFull := insertNo c s.events.listFull } else s.events
  once : all.Nodup
  taken : ∀ t, t ∈ all ↔
    s.bound c t = true ∧ (s.term t).owed.grant.isSome = true ∧ sentIn (s.carriedOn c g) .grant t = false
  full : full = true ↔ wantsPlace (s.lateFor g) (s.car c).pace [] (s.marksOn c)
  lateOnce : (s.overdueOn c g).Nodup

theorem Carrier.withdrawnAll_dcpCtr (s : Sector) (all : List TermNo) (k : Carrier) (n : DcpCounters) :
    ({ k with dcpCtr := n } : Carrier).withdrawnAll s all = { k.withdrawnAll s all with dcpCtr := n } := by
  unfold Carrier.withdrawnAll
  induction all generalizing k with
  | nil => rfl
  | cons t l ih =>
    have hone := k.withdrawn_frame t (s.term t) k.dcp n
    have hdcp : (k.withdrawn t (s.term t)).dcp = k.dcp := by
      have h := congrArg Carrier.dcp (k.withdrawn_standing t (s.term t))
      exact h
    rw [List.foldl_cons, List.foldl_cons, ← ih]
    congr 1
    rw [show ({ k with dcpCtr := n } : Carrier) = { k with dcp := k.dcp, dcpCtr := n } from rfl, hone, ← hdcp]

theorem Sector.listClose_listed {s : Sector} {c : CarrierNo} (h : (s.car c).state = .up ∨ (s.car c).state = .recovering)
    (g : FrameNo) : ∃ all full, s.Listed c g all full (s.listClose c g) := by
  obtain ⟨all, d, hmade, hlate, hall, hwant, hcompose⟩ := (s.closing c).compose_made c g
  rw [Sector.closing_carriedOn, Sector.closing_overdueOn] at hmade
  rw [Sector.closing_overdueOn] at hlate
  rw [Sector.closing_carriedOn] at hall
  rw [Sector.closing_pace, Sector.closing_marksOn] at hwant
  have hclose := Sector.listClose_active h g
  rw [hcompose] at hclose
  have hcar := hmade.car
  rw [Sector.closing_car] at hcar
  rw [hclose]
  refine ⟨all, d.want, ?_⟩
  refine { term := fun t => ?_, onlyCar := fun e he => ?_, handed := ?_, counters := ?_, car := ?_, events := ?_,
           once := hmade.once, taken := hall, full := hwant, lateOnce := hlate }
  · refine (Sector.fullIf_term d.want c d.sector t).trans ((hmade.term t).trans ?_)
    rw [Sector.closing_car]
    rfl
  · exact (Sector.fullIf_onlyCar d.want c d.sector e he).trans ((hmade.onlyCar e he).trans
      (Sector.onlyCarrier_modCar s c _ e he))
  · refine (congrArg (· ++ _) (Sector.fullIf_mlOut d.want c d.sector)).trans ?_
    rw [hmade.handed, hmade.body]
    simp only [Sector.closing_directiveOf]
    rfl
  · show ((d.sector.fullIf d.want c).car c).dcpCtr = _
    rw [Sector.fullIf_car, hcar, DcpCounters.tallied_eq, DcpCounters.tallied_eq]
  · show { (d.sector.fullIf d.want c).car c with dcpCtr := (s.car c).dcpCtr } = _
    rw [Sector.fullIf_car, hcar, Carrier.withdrawnAll_dcpCtr]
    rfl
  · refine (Sector.fullIf_events d.want c d.sector).trans ?_
    rw [hmade.events]
    rfl

/-! ### O51 -/

theorem Sector.Listed.grant {s v : Sector} {c : CarrierNo} {g : FrameNo} {all : List TermNo} {full : Bool}
    (h : s.Listed c g all full v) {t : TermNo} (hb : s.bound c t = true) : (v.term t).owed.grant = none := by
  rw [h.term]
  cases hw : (s.term t).owed.grant with
  | none => simp [Terminal.marked, hw]
  | some w =>
    by_cases hs : sentIn (s.carriedOn c g) .grant t = true
    · simp [Terminal.marked, hs]
    · have hin : t ∈ all := (h.taken t).2 ⟨hb, by rw [hw]; rfl, Bool.eq_false_iff.2 hs⟩
      simp [Terminal.marked, hin]

/-- The body of a list: twelve places, one directive to a terminal, bound terminals only, TRIMs within the pace (R160, R162). -/
theorem Sector.body_limits (s : Sector) (c : CarrierNo) (g : FrameNo) :
    let body := (s.carriedOn c g).map fun m => s.directiveOf c g m.1 m.2
    body.length ≤ 12 ∧ (body.map Directive.terminal).Nodup ∧ (∀ d ∈ body, s.bound c d.terminal = true) ∧
      body.countP Directive.isTrim ≤ (s.car c).pace := by
  intro body
  have hterminals : body.map Directive.terminal = (s.carriedOn c g).map Prod.snd := by
    rw [List.map_map]
    exact List.map_congr_left fun m _ => s.directiveOf_terminal c g m.1 m.2
  have htrims : body.countP Directive.isTrim = (s.carriedOn c g).countP fun m => decide (m.1 = .grant) := by
    rw [List.countP_map]
    exact List.countP_congr fun m hm => by rw [Function.comp, Sector.directiveOf_isTrim (Sector.mem_carriedOn hm).2]
  refine ⟨?_, ?_, fun d hd => ?_, ?_⟩
  · rw [List.length_map]
    exact carried_length_le (Nat.zero_le 12)
  · rw [hterminals]
    exact carried_terminals_nodup List.nodup_nil
  · obtain ⟨m, hm, rfl⟩ := List.mem_map.1 hd
    rw [Sector.directiveOf_terminal]
    exact (Sector.mem_carriedOn hm).1
  · rw [htrims]
    exact carried_grants_le (Nat.zero_le _)

/-- Settles O51: the composition of an active carrier, and the header of one that is not. -/
theorem listCloseHandsOneList : Obligations.ListCloseHandsOneList := by
  unfold Obligations.ListCloseHandsOneList
  intro c g s k
  obtain ⟨v, hexec, honly, hsec⟩ := exec_listClose c g s
  by_cases hup : k.state = .up ∨ k.state = .recovering
  · obtain ⟨all, full, h⟩ := Sector.listClose_listed hup g
    rw [← hsec] at h
    obtain ⟨hoffered, hnone⟩ := k.offeredSlots_eq g
    obtain ⟨hlength, hnodup, hbound, htrims⟩ := s.sector.body_limits c g
    refine ⟨v, _, hexec, honly, h.onlyCar, h.handed, rfl, rfl, rfl, by rw [h.counters], fun t => ?_,
      fun _ => ⟨hoffered, hnone, hlength, hnodup, hbound, htrims, fun t ht => h.grant ht⟩, fun hdown => ?_⟩
    · rw [h.term]
      exact ⟨rfl, rfl, rfl⟩
    · rcases hup with hup | hup <;> rw [hup] at hdown <;> exact absurd hdown (by decide)
  · have hdown : k.state = .down ∨ k.state = .disabled := by
      cases hk : k.state with
      | disabled => exact .inr rfl
      | down => exact .inl rfl
      | up => exact absurd (.inl hk) hup
      | recovering => exact absurd (.inr hk) hup
    rw [Sector.listClose_idle hdown] at hsec
    have hcar : v.sector.car c = { k with dcpCtr :=
        { k.dcpCtr with listCloses := k.dcpCtr.listCloses + 1, headerOnly := k.dcpCtr.headerOnly + 1 } } := by
      rw [hsec]
      refine (Sector.car_modCar_self (s.sector.closing c) c Carrier.headed).trans ?_
      rw [Sector.closing_car]
      rfl
    refine ⟨v, _, hexec, honly, fun e he => ?_, by rw [hsec]; rfl, rfl, rfl, rfl, by rw [hcar], fun t => ?_,
      fun hactive => absurd hactive hup, fun _ => ⟨rfl, rfl, by rw [hsec]; rfl, by rw [hsec]; rfl, hcar⟩⟩
    · rw [hsec]
      exact (Sector.onlyCarrier_modCar (s.sector.closing c) c Carrier.headed e he).trans
        (Sector.onlyCarrier_modCar s.sector c _ e he)
    · rw [hsec]
      exact ⟨rfl, rfl, rfl⟩

end Sys2Proof.Machine
end

section
/-! SUPPORT. The marks a list carries and what it makes of them (R160 to R165): O52. -/

namespace Sys2Proof.Machine

/-! ### The marks, as the statement lists them -/

theorem FrameNo.not_later_iff (a b : FrameNo) : (!FrameNo.later a b) = (decide (a = b) || decide (32767 < (a - b).toNat)) := by
  have hzero : a = b ↔ (a - b).toNat = 0 := by
    constructor
    · rintro rfl
      simp
    · intro h
      have hsub : a - b = 0 := BitVec.eq_of_toNat_eq h
      exact sub_eq_zero.1 hsub
  unfold FrameNo.later
  rw [Bool.eq_iff_iff]
  simp only [Bool.not_eq_true', Bool.and_eq_false_iff, decide_eq_false_iff_not, Bool.or_eq_true, decide_eq_true_eq, hzero]
  omega

theorem Sector.lateFor_eq (s : Sector) (g : FrameNo) (t : TermNo) : s.lateFor g t =
    (s.term t).owed.grant.any fun w => decide (w.frame = g) || decide (32767 < (w.frame - g).toNat) := by
  unfold Sector.lateFor
  simp only [FrameNo.not_later_iff]

theorem LadderFields.pendingIs_eq (d : Direction) (l : LadderFields) :
    l.pendingIs d = l.pending.any fun p => decide (p.direction = d) := by
  unfold LadderFields.pendingIs
  cases l.pending <;> rfl

theorem Sector.marksIn_eq (s : Sector) (c : CarrierNo) (k : Rank) : s.marksIn c k =
    ((rotated ((s.car c).dcp.get k) allTerminals).filter fun t => s.bound c t && k.owedBy (s.term t)).map fun t => (k, t) := by
  have hrotated (p : TermNo) (l : List TermNo) : rotated p (l.filter (s.bound c)) = (rotated p l).filter (s.bound c) := by
    unfold rotated
    rw [List.filter_append, List.filter_filter, List.filter_filter, List.filter_filter, List.filter_filter]
    simp only [Bool.and_comm]
  have hmarks (l : List TermNo) : (l.map fun t => (k, t)).flatMap s.marksOf =
      (l.filter fun t => k.owedBy (s.term t)).map fun t => (k, t) := by
    induction l with
    | nil => rfl
    | cons t l ih =>
      rw [List.map_cons, List.flatMap_cons, ih, List.filter_cons]
      unfold Sector.marksOf
      split <;> rfl
  unfold Sector.marksIn Sector.turnOf Sector.boundTo
  rw [hmarks, hrotated, List.filter_filter]
  simp only [Bool.and_comm]

/-! ### What a composition leaves -/

section
variable {s v : Sector} {c : CarrierNo} {g : FrameNo} {all : List TermNo} {full : Bool} (h : s.Listed c g all full v)
include h

theorem Sector.Listed.leavesGrant (t : TermNo) : (if sentIn (s.carriedOn c g) .grant t || decide (t ∈ all) then none
    else (s.term t).owed.grant) = if s.bound c t then none else (s.term t).owed.grant := by
  by_cases hb : s.bound c t = true
  · have hgrant := h.grant hb
    rw [h.term] at hgrant
    rw [if_pos hb]
    exact hgrant
  · have hsent : sentIn (s.carriedOn c g) .grant t = false :=
      decide_eq_false fun hm => hb (Sector.mem_carriedOn hm).1
    have hall : t ∉ all := fun ht => hb ((h.taken t).1 ht).1
    rw [hsent, decide_eq_false hall, if_neg hb]
    rfl

theorem Sector.Listed.cell (w : FrameNo) (z : SlotNo) : (v.car c).cell w z = ((s.car c).withdrawnAll s all).cell w z := by
  have hcalendar := congrArg Carrier.calendar h.car
  unfold Carrier.cell Carrier.row?
  rw [show (v.car c).calendar = ((s.car c).withdrawnAll s all).calendar from hcalendar]

theorem Sector.Listed.pointers (r : Rank) : (v.car c).dcp.get r =
    ((((s.carriedOn c g).filter fun m => decide (m.1 = r)).getLast?).map Prod.snd).getD ((s.car c).dcp.get r) := by
  have hdcp := congrArg Carrier.dcp h.car
  rw [show (v.car c).dcp = (s.car c).dcp.after (s.carriedOn c g) from hdcp, RankPointers.get_after]

theorem Sector.Listed.resCtr : (v.car c).resCtr = { (s.car c).resCtr with
    grantsWithdrawn := (s.car c).resCtr.grantsWithdrawn + BitVec.ofNat 32 all.length } := by
  have hres := congrArg Carrier.resCtr h.car
  exact Eq.trans hres (Carrier.withdrawnAll_resCtr (fun t ht => ((h.taken t).1 ht).2.1) _)

theorem Sector.Listed.rest : { v.car c with
    calendar := (s.car c).calendar, dcp := (s.car c).dcp, resCtr := (s.car c).resCtr, dcpCtr := (s.car c).dcpCtr } = s.car c := by
  have hcar := h.car
  have hstanding := Carrier.withdrawnAll_standing s all (s.car c)
  generalize (s.car c).withdrawnAll s all = j at hcar hstanding
  generalize v.car c = y at hcar ⊢
  have hy := congrArg (fun y : Carrier => { y with calendar := (s.car c).calendar, dcp := (s.car c).dcp, resCtr := (s.car c).resCtr })
    hcar
  have hj := congrArg (fun j : Carrier => { j with dcp := (s.car c).dcp, dcpCtr := (s.car c).dcpCtr }) hstanding
  exact hy.trans hj

end

/-- Settles O52: the marks placed, what each becomes, and the grants withdrawn. -/
theorem listCarriesOwedMarksByRank : Obligations.ListCarriesOwedMarksByRank := by
  unfold Obligations.ListCarriesOwedMarksByRank
  intro c g s k x hup lead pending owes turned marks late pace placed sent steps back number
  obtain ⟨v, hexec, -, hsec⟩ := exec_listClose c g s
  obtain ⟨all, full, h⟩ := Sector.listClose_listed hup g
  rw [← hsec] at h
  have hlate : late = s.sector.lateFor g := funext fun t => (s.sector.lateFor_eq g t).symm
  have howes (r : Rank) (t : TermNo) : owes r t = r.owedBy (x t) := by
    cases r with
    | halt => rfl
    | admission => rfl
    | stepDown => exact congrArg ((x t).owed.profile && ·) (LadderFields.pendingIs_eq _ _).symm
    | grant => rfl
    | stepUp => exact congrArg ((x t).owed.profile && ·) (LadderFields.pendingIs_eq _ _).symm
  have hmarks : marks = s.sector.marksOn c := by
    show (List.map _ _).flatten = allRanks.flatMap (s.sector.marksIn c)
    rw [List.flatMap_def]
    congr 1
    refine List.map_congr_left fun r _ => ?_
    rw [Sector.marksIn_eq]
    simp only [howes]
    rfl
  have hplaced : placed = s.sector.carriedOn c g := by
    show carried late pace [] marks = _
    rw [hlate, hmarks]
    rfl
  have hsent (r : Rank) (t : TermNo) : sent r t = sentIn (s.sector.carriedOn c g) r t := by
    show decide ((r, t) ∈ placed) = _
    rw [hplaced]
    rfl
  have hback (t : TermNo) : t ∈ all ↔ back t = true := by
    rw [h.taken]
    show _ ↔ (s.sector.bound c t && (x t).owed.grant.isSome && !sent .grant t) = true
    rw [Bool.and_eq_true, Bool.and_eq_true, and_assoc, Bool.not_eq_true', hsent]
  have hcountBack : (List.finRange 256).countP back = all.length := countP_eq_length h.once hback
  have hcountLate : ((List.finRange 256).countP fun t =>
      s.sector.bound c t && late t && !sent .halt t && !sent .admission t && !sent .stepDown t) =
      (s.sector.overdueOn c g).length := by
    refine countP_eq_length h.lateOnce fun t => ?_
    rw [Sector.mem_overdueOn]
    simp only [hlate, hsent, Bool.and_eq_true, Bool.not_eq_true', and_assoc]
  have hentry (i : Nat) : ((s.sector.carriedOn c g).map fun m => s.sector.directiveOf c g m.1 m.2)[i]? =
      placed[i]?.map fun m => s.sector.directiveOf c g m.1 m.2 := by
    rw [hplaced, List.getElem?_map]
  have hwant : wantsPlace late pace [] marks ↔ full = true := by
    rw [hlate, hmarks]
    exact h.full.symm
  refine ⟨v, _, hexec, h.handed, by rw [hplaced]; exact List.length_map _, fun i t => ?body, fun t => ?record,
    fun t w n hb hw hcell => ?cleared, fun w z hkeep => ?kept, fun r => ?pointers, ?withdrawn, ?counters, h.rest,
    fun hw => ?full, fun hw => ?room⟩
  case body =>
    refine ⟨fun hi => ?_, fun hi => ?_, fun w hi hw => ?_, fun p hi hp => ?_⟩
    · exact (hentry i).trans (by rw [hi]; rfl)
    · exact (hentry i).trans (by rw [hi]; rfl)
    · refine (hentry i).trans ?_
      rw [hi]
      simp only [Option.map_some, Sector.directiveOf, x, hw] at hw ⊢
    · refine (hentry i).trans ?_
      rcases hi with hi | hi
      · rw [hi]
        simp only [Option.map_some, Sector.directiveOf]
        rw [hp]
        rfl
      · rw [hi]
        simp only [Option.map_some, Sector.directiveOf]
        rw [hp]
        rfl
  case record =>
    rw [h.term]
    unfold Terminal.marked
    dsimp only
    rw [h.leavesGrant]
    simp only [steps, hsent, hback]
    rfl
  case cleared =>
    rw [h.cell]
    exact Carrier.withdrawnAll_cleared ((hback t).2 hb) hcell hw
  case kept =>
    rw [h.cell]
    exact Carrier.withdrawnAll_kept fun t ht n hcell => hkeep t n hcell ((hback t).1 ht)
  case pointers =>
    rw [h.pointers, hplaced]
  case withdrawn =>
    rw [h.resCtr, hcountBack]
  case counters =>
    rw [h.counters, DcpCounters.tallied_eq, hcountLate]
    show _ = { listCloses := _, headerOnly := _, haltsSent := _ + numberOf placed .halt, admitsSent := _ + numberOf placed .admission
               downsSent := _ + numberOf placed .stepDown, upsSent := _ + numberOf placed .stepUp
               trimsSent := _ + numberOf placed .grant, lateGrants := _, fullLists := _ : DcpCounters }
    rw [hplaced]
  case full =>
    have hfull := hwant.1 hw
    exact ⟨by rw [h.counters, hfull]; rfl, by rw [h.events, hfull]; rfl⟩
  case room =>
    have hroom : full = false := Bool.eq_false_iff.2 fun hf => hw (hwant.2 hf)
    exact ⟨by rw [h.counters, hroom]; rfl, by rw [h.events, hroom]; rfl⟩

end Sys2Proof.Machine
end

section
/-! SUPPORT. The supervisor's frame counts at one terminal (R44, R45, R57, R60 to R62): what they make of its record, and what they
leave of everything else. -/

namespace Sys2Proof.Machine

/-! ### What the counts leave -/

/-- From `s` to `u` the supervisor made `r` of the record of `t`: of the carriers only slots that are not OPEN may differ, of the
event sets STATE-CHANGE may have grown, and everything else is as it was. -/
structure Sector.Ruled (s : Sector) (t : TermNo) (r : Terminal) (u : Sector) : Prop where
  only : OnlyRecord s u t
  term : u.term t = r
  frame : ∀ d, { u.car d with slots := [] } = { s.car d with slots := [] }
  opened : ∀ d z, (u.car d).slotUse z = .opened ↔ (s.car d).slotUse z = .opened
  events : u.events = { s.events with stateChange := u.events.stateChange }
  grown : ∀ v ∈ s.events.stateChange, v ∈ u.events.stateChange
  rest : OnlyRecords s u

theorem Sector.Ruled.rfl' (s : Sector) (t : TermNo) : s.Ruled t (s.term t) s :=
  ⟨fun _ _ => rfl, rfl, fun _ => rfl, fun _ _ => .rfl, rfl, fun _ => id, ⟨rfl, rfl, rfl, rfl, rfl, rfl, rfl⟩⟩

theorem OnlyRecords.trans {a b c : Sector} (h : OnlyRecords a b) (g : OnlyRecords b c) : OnlyRecords a c := by
  obtain ⟨h₁, h₂, h₃, h₄, h₅, h₆, h₇⟩ := h
  obtain ⟨g₁, g₂, g₃, g₄, g₅, g₆, g₇⟩ := g
  exact ⟨g₁.trans h₁, g₂.trans h₂, g₃.trans h₃, g₄.trans h₄, g₅.trans h₅, g₆.trans h₆, g₇.trans h₇⟩

theorem Sector.Ruled.trans {s a u : Sector} {t : TermNo} {r r' : Terminal} (h : s.Ruled t r a) (g : a.Ruled t r' u) : s.Ruled t r' u where
  only v hv := (g.only v hv).trans (h.only v hv)
  term := g.term
  frame d := (g.frame d).trans (h.frame d)
  opened d z := (g.opened d z).trans (h.opened d z)
  events := by rw [g.events, h.events]
  grown v hv := g.grown v (h.grown v hv)
  rest := h.rest.trans g.rest

theorem Sector.Ruled.modTerm (s : Sector) (t : TermNo) (f : Terminal → Terminal) : s.Ruled t (f (s.term t)) (s.modTerm t f) :=
  ⟨fun v hv => (Sector.term_modTerm s t v f).trans (if_neg hv), (Sector.term_modTerm s t t f).trans (if_pos rfl), fun _ => rfl,
    fun _ _ => .rfl, rfl, fun _ => id, ⟨rfl, rfl, rfl, rfl, rfl, rfl, rfl⟩⟩

/-- A move of one terminal that changes slots not OPEN, and STATE-CHANGE at most. -/
theorem Sector.Turned.ruled {s u : Sector} {t : TermNo} {c : CarrierNo} {r : Terminal} {k : Carrier} {l : List TermNo}
    (h : s.Turned t c r k s.pld { s.events with stateChange := l } u) (hk : { k with slots := [] } = { s.car c with slots := [] })
    (ho : ∀ z, k.slotUse z = .opened ↔ (s.car c).slotUse z = .opened) (hl : ∀ v ∈ s.events.stateChange, v ∈ l) : s.Ruled t r u where
  only := h.only
  term := h.term
  frame d := by
    by_cases hd : d = c
    · rw [hd, h.car, hk]
    · rw [h.onlyCar d hd]
  opened d z := by
    by_cases hd : d = c
    · rw [hd, h.car]; exact ho z
    · rw [h.onlyCar d hd]
  events := by rw [h.events]
  grown v hv := by rw [h.events]; exact hl v hv
  rest := h.onlyRecords rfl

theorem mem_insertNo_of_mem {n : Nat} {a b : Fin n} {l : List (Fin n)} (h : a ∈ l) : a ∈ insertNo b l := mem_insertNo.2 (.inr h)

theorem Carrier.lentIf_opened (b : Bool) (t : TermNo) (l : List SlotNo) (k : Carrier) (z : SlotNo) :
    (k.lentIf b t l).slotUse z = .opened ↔ k.slotUse z = .opened := by
  rw [Carrier.slotUse_lentIf]
  split
  · next h => rw [h.2.2]; exact ⟨nofun, nofun⟩
  · exact .rfl

theorem SlotUse.unmark_opened {t : TermNo} {u : SlotUse} : u.unmark t = .opened ↔ u = .opened := by
  cases u with
  | lent o m =>
    by_cases ho : o = t
    · rw [show (SlotUse.lent o m).unmark t = .lent t false from if_pos ho]; exact ⟨nofun, nofun⟩
    · rw [show (SlotUse.lent o m).unmark t = .lent o m from if_neg ho]
  | opened | reentry | traffic o => exact .rfl

theorem Carrier.unmarked_opened (t : TermNo) (l : List SlotNo) (k : Carrier) (z : SlotNo) :
    (k.mapSlots (SlotUse.unmark t) l).slotUse z = .opened ↔ k.slotUse z = .opened := by
  rw [Carrier.slotUse_mapSlots (SlotUse.unmark_idem t)]
  split
  · exact SlotUse.unmark_opened
  · exact .rfl

/-! ### The record after each count -/

/-- The record after the lend compare (R45). -/
def Terminal.lendCompared (r : Terminal) : Terminal :=
  if r.link.outageOn = true ∧ r.link.outage = r.link.lendActive ∧ r.link.lendTaken = false then r.lendMatched else r

/-- The record after the warm compare (R45). -/
def Terminal.warmCompared (r : Terminal) : Terminal :=
  if r.link.outageOn = true ∧ r.link.outage = r.link.warmActive ∧ r.link.warmClosed = false then
    { r with link := { r.link with warmClosed := true } } else r

/-- The record after the fade timer is compared (R57). -/
def Terminal.fadeExpired (r : Terminal) : Terminal :=
  if r.link.state = .fading ∧ r.link.fadeOn = true ∧ r.link.fadeActive ≤ r.link.fadeCount then
    if r.link.forced = true then
      { r with link := { r.link with fadeOn := false }, ctr := { r.ctr with suppressed := r.ctr.suppressed + 1 } }
    else Terminal.toDark .fading { r with link := { r.link with cause := .fade, fadeOn := false } }
  else r

/-- The record after the guard timer is compared (R62). -/
def Terminal.guardExpired (r : Terminal) : Terminal :=
  if r.link.state = .guard ∧ r.link.guardOn = true ∧ r.link.guardActive ≤ r.link.guardCount then
    if r.link.forced = true then
      { r with link := { r.link with guardOn := false }, ctr := { r.ctr with suppressed := r.ctr.suppressed + 1 } }
    else Terminal.toDark .guard { r with link := { r.link with guardOn := false } }
  else r

/-- The record after the admission wait is compared with the carrier's `limit` (R60). -/
def Terminal.admitExpired (limit : Nat) (r : Terminal) : Terminal :=
  if r.link.state = .admitting ∧ r.adm.sent = none ∧ limit ≤ r.adm.wait then
    if r.link.forced = true then r.suppressedOnce
    else
      { r with
        link := { r.link with state := .guard, cause := .noPermit, permit := false, guardOn := true, guardCount := 0
                              guardActive := r.cfg.guardPeriod }
        adm := { r.adm with reclaimPending := false, sent := none }
        ladder := { r.ladder with pending := none, assembly := [], stepUp := 0 }
        hold := { r.hold with release := .idle, yieldCount := 0 }
        owed := { r.owed with halt := true, profile := false, admission := false } }
  else r

/-- The record after frame `f` is compared with the effective frame of its ADMIT (R61). -/
def Terminal.effectiveTaken (f : FrameNo) (r : Terminal) : Terminal :=
  if r.link.state = .admitting ∧ r.adm.sent.any (fun e => decide ((f - e).toNat ≤ 32767)) = true then
    if r.link.forced = true then r.suppressedOnce
    else Terminal.toServing { r with adm := { r.adm with reclaimPending := false, sent := none }
                                     owed := { r.owed with admission := false } }
  else r

/-- The record with its link fields changed by `f`. -/
def Terminal.linked (f : LinkFields → LinkFields) (r : Terminal) : Terminal := { r with link := f r.link }

/-- The record after the outage counter took a frame and was compared (R44, R45). -/
def Terminal.outageTaken (r : Terminal) : Terminal := (r.linked LinkFields.outageTick).lendCompared.warmCompared

/-- The record after the fade timer took a frame and was compared (R57). -/
def Terminal.fadeTaken (r : Terminal) : Terminal := (r.linked LinkFields.fadeTick).fadeExpired

/-- The record after the guard timer took a frame and was compared (R62). -/
def Terminal.guardTaken (r : Terminal) : Terminal := (r.linked LinkFields.guardTick).guardExpired

/-- The record after the supervisor's counts of frame `f`, its carrier's admission wait limit being `limit`. -/
def Terminal.supervised (limit : Nat) (f : FrameNo) (r : Terminal) : Terminal :=
  (r.outageTaken.fadeTaken.guardTaken.admitTick.admitExpired limit).effectiveTaken f

/-! ### Each count at the sector -/

section
variable (s : Sector) (t : TermNo)

theorem Sector.lendCompare_ruled : s.Ruled t (s.term t).lendCompared (s.lendCompare t) := by
  unfold Terminal.lendCompared
  by_cases hd : (s.term t).link.lendDue
  · rw [if_pos (show _ ∧ _ ∧ _ from hd)]
    exact (Sector.lendCompare_due hd).ruled (l := s.events.stateChange) (Carrier.lentIf_frame _ _ _ _)
      (Carrier.lentIf_opened _ _ _ _) fun _ => id
  · rw [if_neg (show ¬ (_ ∧ _ ∧ _) from hd), Sector.lendCompare_idle hd]
    exact .rfl' s t

theorem Sector.warmCompare_ruled : s.Ruled t (s.term t).warmCompared (s.warmCompare t) := by
  unfold Terminal.warmCompared
  by_cases hd : (s.term t).link.warmDue
  · rw [if_pos (show _ ∧ _ ∧ _ from hd)]
    exact (Sector.warmCompare_due hd 0).ruled (l := s.events.stateChange) rfl (fun _ => .rfl) fun _ => id
  · rw [if_neg (show ¬ (_ ∧ _ ∧ _) from hd), Sector.warmCompare_idle hd]
    exact .rfl' s t

theorem Sector.fadeExpiry_ruled : s.Ruled t (s.term t).fadeExpired (s.fadeExpiry t) := by
  unfold Terminal.fadeExpired
  by_cases hd : (s.term t).link.fadeDue
  · rw [if_pos (show _ ∧ _ ∧ _ from hd)]
    cases hf : (s.term t).link.forced with
    | true =>
      rw [if_pos rfl]
      exact (Sector.fadeExpiry_forced hd hf 0).ruled (l := s.events.stateChange) rfl (fun _ => .rfl) fun _ => id
    | false =>
      rw [if_neg Bool.false_ne_true]
      exact (Sector.fadeExpiry_due hd hf).ruled (Carrier.lentIf_frame _ _ _ _) (Carrier.lentIf_opened _ _ _ _)
        fun _ => mem_insertNo_of_mem
  · rw [if_neg (show ¬ (_ ∧ _ ∧ _) from hd), Sector.fadeExpiry_idle hd]
    exact .rfl' s t

theorem Sector.guardEnd_ruled : s.Ruled t (s.term t).guardExpired (s.guardEnd t) := by
  unfold Terminal.guardExpired
  by_cases hd : (s.term t).link.guardDue
  · rw [if_pos (show _ ∧ _ ∧ _ from hd)]
    cases hf : (s.term t).link.forced with
    | true =>
      rw [if_pos rfl]
      exact (Sector.guardEnd_forced hd hf 0).ruled (l := s.events.stateChange) rfl (fun _ => .rfl) fun _ => id
    | false =>
      rw [if_neg Bool.false_ne_true]
      exact (Sector.guardEnd_due hd hf).ruled (Carrier.lentIf_frame _ _ _ _) (Carrier.lentIf_opened _ _ _ _)
        fun _ => mem_insertNo_of_mem
  · rw [if_neg (show ¬ (_ ∧ _ ∧ _) from hd), Sector.guardEnd_idle hd]
    exact .rfl' s t

theorem Sector.admitExpiry_ruled {limit : Nat} (hl : (s.car (s.term t).cfg.carrier).cfg.admitWaitLimit = limit) :
    s.Ruled t ((s.term t).admitExpired limit) (s.admitExpiry t) := by
  subst hl
  unfold Terminal.admitExpired
  by_cases hd : s.admitDue t
  · rw [if_pos (show _ ∧ _ ∧ _ from hd)]
    cases hf : (s.term t).link.forced with
    | true =>
      rw [if_pos rfl]
      exact (Sector.admitExpiry_forced hd hf 0).ruled (l := s.events.stateChange) rfl (fun _ => .rfl) fun _ => id
    | false =>
      rw [if_neg Bool.false_ne_true]
      refine (Sector.admitExpiry_due hd hf).ruled ((Carrier.lentIf_frame _ _ _ _).trans (Carrier.mapSlots_frame _ _ _)) (fun z => ?_)
        fun _ => mem_insertNo_of_mem
      exact (Carrier.lentIf_opened _ _ _ _ z).trans (Carrier.unmarked_opened _ _ _ z)
  · rw [if_neg (show ¬ (_ ∧ _ ∧ _) from hd), Sector.admitExpiry_idle hd]
    exact .rfl' s t

theorem Sector.effectiveReached_ruled (f : FrameNo) : s.Ruled t ((s.term t).effectiveTaken f) (s.effectiveReached f t) := by
  have hiff : (s.term t).effectiveBy f ↔
      (s.term t).link.state = .admitting ∧ (s.term t).adm.sent.any (fun e => decide ((f - e).toNat ≤ 32767)) = true := by
    refine and_congr_right fun _ => ?_
    rw [Option.any_eq_true]
    simp only [decide_eq_true_eq]
  unfold Terminal.effectiveTaken
  by_cases hd : (s.term t).effectiveBy f
  · rw [if_pos (hiff.1 hd)]
    cases hf : (s.term t).link.forced with
    | true =>
      rw [if_pos rfl]
      exact (Sector.effectiveReached_forced hd hf 0).ruled (l := s.events.stateChange) rfl (fun _ => .rfl) fun _ => id
    | false =>
      rw [if_neg Bool.false_ne_true]
      exact (Sector.effectiveReached_due hd hf).ruled (Carrier.mapSlots_frame _ _ _) (Carrier.unmarked_opened _ _ _)
        fun _ => mem_insertNo_of_mem
  · rw [if_neg fun h => hd (hiff.2 h), Sector.effectiveReached_idle hd]
    exact .rfl' s t

end

/-! ### All of the counts -/

section
variable {s a u : Sector} {t : TermNo} {r : Terminal}

theorem Sector.Ruled.next {f : Terminal → Terminal} (h : s.Ruled t r a) (g : a.Ruled t (f (a.term t)) u) : s.Ruled t (f r) u :=
  h.trans (h.term ▸ g)

theorem Sector.Ruled.settings (h : s.Ruled t r a) (d : CarrierNo) : (a.car d).cfg = (s.car d).cfg := by
  have hd := congrArg Carrier.cfg (h.frame d)
  exact hd

theorem Terminal.outageTaken_cfg : r.outageTaken.cfg = r.cfg := by
  unfold Terminal.outageTaken Terminal.warmCompared Terminal.lendCompared Terminal.linked
  split <;> split <;> rfl

theorem Terminal.fadeTaken_cfg : r.fadeTaken.cfg = r.cfg := by
  unfold Terminal.fadeTaken Terminal.fadeExpired
  split
  · split <;> rfl
  · rfl

theorem Terminal.guardTaken_cfg : r.guardTaken.cfg = r.cfg := by
  unfold Terminal.guardTaken Terminal.guardExpired
  split
  · split <;> rfl
  · rfl

theorem Terminal.admitTick_config : r.admitTick.cfg = r.cfg := by
  unfold Terminal.admitTick; split <;> rfl

/-- The supervisor at a frame start of terminal `t`. -/
theorem Sector.lsvFrame_ruled (s : Sector) (f : FrameNo) (t : TermNo) {limit : Nat}
    (hl : (s.car (s.term t).cfg.carrier).cfg.admitWaitLimit = limit) : s.Ruled t ((s.term t).supervised limit f) (s.lsvFrame f t) := by
  have houtage : s.Ruled t (s.term t).outageTaken _ := ((Sector.Ruled.modTerm s t (Terminal.linked LinkFields.outageTick)).next
    (Sector.lendCompare_ruled _ t)).next (Sector.warmCompare_ruled _ t)
  have hfade : s.Ruled t (s.term t).outageTaken.fadeTaken _ :=
    (houtage.next (.modTerm _ t (Terminal.linked LinkFields.fadeTick))).next (Sector.fadeExpiry_ruled _ t)
  have hguard : s.Ruled t (s.term t).outageTaken.fadeTaken.guardTaken _ :=
    (hfade.next (.modTerm _ t (Terminal.linked LinkFields.guardTick))).next (Sector.guardEnd_ruled _ t)
  have hwait := hguard.next (.modTerm _ t Terminal.admitTick)
  have hcfg : (s.term t).outageTaken.fadeTaken.guardTaken.admitTick.cfg = (s.term t).cfg := by
    rw [Terminal.admitTick_config, Terminal.guardTaken_cfg, Terminal.fadeTaken_cfg, Terminal.outageTaken_cfg]
  have hlimit : ∀ {a : Sector}, s.Ruled t (s.term t).outageTaken.fadeTaken.guardTaken.admitTick a →
      (a.car (a.term t).cfg.carrier).cfg.admitWaitLimit = limit := fun h => by rw [h.settings, h.term, hcfg, hl]
  have hadmit := hwait.next (f := Terminal.admitExpired limit) (Sector.admitExpiry_ruled _ t (hlimit hwait))
  exact hadmit.next (f := Terminal.effectiveTaken f) (Sector.effectiveReached_ruled _ t f)

end

end Sys2Proof.Machine
end

section
/-! SUPPORT. The supervisor's frame counts by link state (R44, R57, R60, R62), and over all the terminals of a carrier. -/

namespace Sys2Proof.Machine

/-! ### A count acts in its own state -/

section
variable {r : Terminal}

/-- The outage counter takes its frame; but for it, only the marks of its two compares may differ (R44, R45). -/
theorem Terminal.outageTaken_eq (r : Terminal) : ∃ taken closed,
    r.outageTaken = { r with link := { r.link.outageTick with lendTaken := taken, warmClosed := closed } } := by
  unfold Terminal.outageTaken Terminal.lendCompared
  split
  · unfold Terminal.warmCompared
    split <;> exact ⟨_, _, rfl⟩
  · unfold Terminal.warmCompared
    split <;> exact ⟨_, _, rfl⟩

theorem Terminal.outageTaken_stopped (h : r.link.outageOn = false) : r.outageTaken = r := by
  have htick : r.linked LinkFields.outageTick = r := by
    unfold Terminal.linked LinkFields.outageTick
    rw [h]
    rfl
  have hlend : r.lendCompared = r := if_neg fun hd => Bool.false_ne_true (h.symm.trans hd.1)
  have hwarm : r.warmCompared = r := if_neg fun hd => Bool.false_ne_true (h.symm.trans hd.1)
  unfold Terminal.outageTaken
  rw [htick, hlend, hwarm]

theorem LinkFields.outageTick_eq (l : LinkFields) :
    l.outageTick = { l with outage := if l.outageOn = true then min 16777215 (l.outage + 1) else l.outage } := by
  unfold LinkFields.outageTick
  split <;> rfl

theorem Terminal.fadeTaken_idle (h : r.link.state ≠ .fading) : r.fadeTaken = r := by
  have htick : r.linked LinkFields.fadeTick = r :=
    congrArg (fun l => { r with link := l }) (show r.link.fadeTick = r.link from if_neg fun hd => h hd.1)
  unfold Terminal.fadeTaken
  rw [htick]
  exact if_neg fun hd => h hd.1

theorem Terminal.guardTaken_idle (h : r.link.state ≠ .guard) : r.guardTaken = r := by
  have htick : r.linked LinkFields.guardTick = r :=
    congrArg (fun l => { r with link := l }) (show r.link.guardTick = r.link from if_neg fun hd => h hd.1)
  unfold Terminal.guardTaken
  rw [htick]
  exact if_neg fun hd => h hd.1

/-- The record after the admission wait took a frame and was compared, and frame `f` with the effective frame (R60, R61). -/
def Terminal.admitTaken (limit : Nat) (f : FrameNo) (r : Terminal) : Terminal := (r.admitTick.admitExpired limit).effectiveTaken f

theorem Terminal.supervised_eq (limit : Nat) (f : FrameNo) (r : Terminal) :
    r.supervised limit f = r.outageTaken.fadeTaken.guardTaken.admitTaken limit f := rfl

theorem Terminal.admitTaken_idle (h : r.link.state ≠ .admitting) (limit : Nat) (f : FrameNo) : r.admitTaken limit f = r := by
  have htick : r.admitTick = r := if_neg fun hd => h hd.1
  have hwait : r.admitExpired limit = r := if_neg fun hd => h hd.1
  unfold Terminal.admitTaken
  rw [htick, hwait]
  exact if_neg fun hd => h hd.1

theorem Terminal.outageTaken_state (r : Terminal) : r.outageTaken.link.state = r.link.state := by
  obtain ⟨a, b, h⟩ := r.outageTaken_eq
  rw [h]
  exact LinkFields.outageTick_state _

variable (limit : Nat) (f : FrameNo)

/-- In DARK, CALLED, TRIMMING, HELD and SERVING the outage counter alone is counted. -/
theorem Terminal.supervised_absent (hf : r.link.state ≠ .fading) (hg : r.link.state ≠ .guard) (ha : r.link.state ≠ .admitting) :
    r.supervised limit f = r.outageTaken := by
  rw [← r.outageTaken_state] at hf hg ha
  rw [Terminal.supervised_eq, Terminal.fadeTaken_idle hf, Terminal.guardTaken_idle hg, Terminal.admitTaken_idle ha]

/-- What the guard timer's frame leaves of a record in GUARD (R62). -/
theorem Terminal.guardTaken_state (h : r.link.state = .guard) :
    r.guardTaken.link.state = .guard ∨ r.guardTaken.link.state = .dark := by
  have hst : (r.linked LinkFields.guardTick).link.state = .guard := (LinkFields.guardTick_state _).trans h
  unfold Terminal.guardTaken Terminal.guardExpired
  split
  · split
    · exact .inl hst
    · exact .inr rfl
  · exact .inl hst

theorem Terminal.supervised_guard (h : r.link.state = .guard) : r.supervised limit f = r.outageTaken.guardTaken := by
  have hst := r.outageTaken_state.trans h
  rw [Terminal.supervised_eq, Terminal.fadeTaken_idle (by rw [hst]; decide), Terminal.admitTaken_idle]
  obtain hg | hg := Terminal.guardTaken_state hst <;> rw [hg] <;> decide

/-- What the fade timer's frame leaves of a record in FADING (R57). -/
theorem Terminal.fadeTaken_state (h : r.link.state = .fading) :
    r.fadeTaken.link.state = .fading ∨ r.fadeTaken.link.state = .dark := by
  have hst : (r.linked LinkFields.fadeTick).link.state = .fading := (LinkFields.fadeTick_state _).trans h
  unfold Terminal.fadeTaken Terminal.fadeExpired
  split
  · split
    · exact .inl hst
    · exact .inr rfl
  · exact .inl hst

theorem Terminal.supervised_fading (h : r.link.state = .fading) : r.supervised limit f = r.outageTaken.fadeTaken := by
  have hst := Terminal.fadeTaken_state (r.outageTaken_state.trans h)
  rw [Terminal.supervised_eq, Terminal.guardTaken_idle, Terminal.admitTaken_idle]
  all_goals obtain hg | hg := hst <;> rw [hg] <;> decide

theorem Terminal.supervised_admitting (h : r.link.state = .admitting) : r.supervised limit f = r.outageTaken.admitTaken limit f := by
  have hst := r.outageTaken_state.trans h
  rw [Terminal.supervised_eq, Terminal.fadeTaken_idle (by rw [hst]; decide), Terminal.guardTaken_idle (by rw [hst]; decide)]

/-! ### The timers (R57, R62) -/

theorem Terminal.guardTick_running (h : r.link.state = .guard) (hon : r.link.guardOn = true) :
    (r.linked LinkFields.guardTick) = { r with link := { r.link with guardCount := r.link.guardCount + 1 } } :=
  congrArg (fun l => { r with link := l }) (if_pos ⟨h, hon⟩ : r.link.guardTick = _)

theorem Terminal.guardTaken_runs (h : r.link.state = .guard) (hon : r.link.guardOn = true)
    (hlt : r.link.guardCount + 1 < r.link.guardActive) :
    r.guardTaken = { r with link := { r.link with guardCount := r.link.guardCount + 1 } } := by
  unfold Terminal.guardTaken
  rw [Terminal.guardTick_running h hon]
  exact if_neg fun hd => absurd hd.2.2 (not_le.2 hlt)

theorem Terminal.guardTaken_ends (h : r.link.state = .guard) (hon : r.link.guardOn = true) (hf : r.link.forced = false)
    (hle : r.link.guardActive ≤ r.link.guardCount + 1) : r.guardTaken =
      Terminal.toDark .guard { r with link := { r.link with guardCount := r.link.guardCount + 1, guardOn := false } } := by
  unfold Terminal.guardTaken
  rw [Terminal.guardTick_running h hon]
  refine (if_pos ⟨h, hon, hle⟩).trans (if_neg ?_)
  exact fun ht => Bool.false_ne_true (hf.symm.trans ht)

theorem Terminal.fadeTick_running (h : r.link.state = .fading) (hon : r.link.fadeOn = true) :
    (r.linked LinkFields.fadeTick) = { r with link := { r.link with fadeCount := r.link.fadeCount + 1 } } :=
  congrArg (fun l => { r with link := l }) (if_pos ⟨h, hon⟩ : r.link.fadeTick = _)

theorem Terminal.fadeTaken_runs (h : r.link.state = .fading) (hon : r.link.fadeOn = true)
    (hlt : r.link.fadeCount + 1 < r.link.fadeActive) :
    r.fadeTaken = { r with link := { r.link with fadeCount := r.link.fadeCount + 1 } } := by
  unfold Terminal.fadeTaken
  rw [Terminal.fadeTick_running h hon]
  exact if_neg fun hd => absurd hd.2.2 (not_le.2 hlt)

theorem Terminal.fadeTaken_ends (h : r.link.state = .fading) (hon : r.link.fadeOn = true) (hf : r.link.forced = false)
    (hle : r.link.fadeActive ≤ r.link.fadeCount + 1) : r.fadeTaken = Terminal.toDark .fading
      { r with link := { r.link with fadeCount := r.link.fadeCount + 1, cause := .fade, fadeOn := false } } := by
  unfold Terminal.fadeTaken
  rw [Terminal.fadeTick_running h hon]
  refine (if_pos ⟨h, hon, hle⟩).trans (if_neg ?_)
  exact fun ht => Bool.false_ne_true (hf.symm.trans ht)

/-- The guard timer leaves the outage counter (R44). -/
theorem Terminal.guardTaken_outage (r : Terminal) :
    r.guardTaken.link.outage = r.link.outage ∧ r.guardTaken.link.outageOn = r.link.outageOn := by
  have htick : (r.linked LinkFields.guardTick).link.outage = r.link.outage ∧
      (r.linked LinkFields.guardTick).link.outageOn = r.link.outageOn := by
    unfold Terminal.linked LinkFields.guardTick
    split <;> exact ⟨rfl, rfl⟩
  unfold Terminal.guardTaken Terminal.guardExpired
  split
  · split <;> exact htick
  · exact htick

/-- An ADMITTING terminal below its wait limit, its ADMIT not sent, waits one frame more (R60). -/
theorem Terminal.admitTaken_waits (h : r.link.state = .admitting) (hs : r.adm.sent = none) (hlt : r.adm.wait + 1 < limit) :
    r.admitTaken limit f = { r with adm := { r.adm with wait := r.adm.wait + 1 } } := by
  have htick : r.admitTick = { r with adm := { r.adm with wait := r.adm.wait + 1 } } := if_pos ⟨h, hs⟩
  have hwait : ({ r with adm := { r.adm with wait := r.adm.wait + 1 } } : Terminal).admitExpired limit =
      { r with adm := { r.adm with wait := r.adm.wait + 1 } } := if_neg fun hd => absurd hd.2.2 (not_le.2 hlt)
  unfold Terminal.admitTaken
  rw [htick, hwait]
  refine if_neg fun hd => ?_
  have hany : r.adm.sent.any (fun e => decide ((f - e).toNat ≤ 32767)) = true := hd.2
  rw [hs] at hany
  exact Bool.false_ne_true hany

end

theorem Terminal.supervised_cfg (limit : Nat) (f : FrameNo) (r : Terminal) : (r.supervised limit f).cfg = r.cfg := by
  have hadmit (x : Terminal) : (x.admitTaken limit f).cfg = x.cfg := by
    by_cases hx : x.link.state = .admitting
    · have hwait : (x.admitTick.admitExpired limit).cfg = x.cfg := by
        rw [← Terminal.admitTick_config (r := x)]
        unfold Terminal.admitExpired
        split
        · split <;> rfl
        · rfl
      rw [← hwait]
      unfold Terminal.admitTaken Terminal.effectiveTaken
      split
      · split <;> rfl
      · rfl
    · rw [Terminal.admitTaken_idle hx]
  rw [Terminal.supervised_eq, hadmit, Terminal.guardTaken_cfg, Terminal.fadeTaken_cfg, Terminal.outageTaken_cfg]

/-! ### The terminals of a carrier -/

/-- From `s` to `u` the supervisor took frame `f` at the terminals `l`, all of carrier `c`. -/
structure Sector.RuledAll (s : Sector) (c : CarrierNo) (f : FrameNo) (l : List TermNo) (u : Sector) : Prop where
  term : ∀ v, u.term v = if v ∈ l then (s.term v).supervised (s.car c).cfg.admitWaitLimit f else s.term v
  frame : ∀ d, { u.car d with slots := [] } = { s.car d with slots := [] }
  opened : ∀ d z, (u.car d).slotUse z = .opened ↔ (s.car d).slotUse z = .opened
  events : u.events = { s.events with stateChange := u.events.stateChange }
  grown : ∀ v ∈ s.events.stateChange, v ∈ u.events.stateChange
  rest : OnlyRecords s u

theorem Sector.RuledAll.cons {s a u : Sector} {c : CarrierNo} {f : FrameNo} {t : TermNo} {l : List TermNo} (htl : t ∉ l)
    (ht : s.Ruled t ((s.term t).supervised (s.car c).cfg.admitWaitLimit f) a) (hl : a.RuledAll c f l u) :
    s.RuledAll c f (t :: l) u where
  term v := by
    rw [hl.term, ht.settings]
    by_cases hv : v = t
    · subst hv
      rw [if_neg htl, if_pos List.mem_cons_self, ht.term]
    · simp only [ht.only v hv, List.mem_cons, hv, false_or]
  frame d := (hl.frame d).trans (ht.frame d)
  opened d z := (hl.opened d z).trans (ht.opened d z)
  events := by rw [hl.events, ht.events]
  grown v hv := hl.grown v (ht.grown v hv)
  rest := ht.rest.trans hl.rest

theorem Sector.lsvFrames_ruled (c : CarrierNo) (f : FrameNo) {l : List TermNo} (hl : l.Nodup) (s : Sector)
    (hc : ∀ t ∈ l, (s.term t).cfg.carrier = c) : s.RuledAll c f l (l.foldl (fun x t => x.lsvFrame f t) s) := by
  induction l generalizing s with
  | nil => exact ⟨fun _ => (if_neg List.not_mem_nil).symm, fun _ => rfl, fun _ _ => .rfl, rfl, fun _ => id,
      rfl, rfl, rfl, rfl, rfl, rfl, rfl⟩
  | cons t l ih =>
    obtain ⟨htl, hl⟩ := List.nodup_cons.1 hl
    have ht := Sector.lsvFrame_ruled s f t (limit := (s.car c).cfg.admitWaitLimit) (by rw [hc t List.mem_cons_self])
    rw [List.foldl_cons]
    generalize s.lsvFrame f t = a at ht
    refine .cons htl ht (ih hl a fun v hv => ?_)
    rw [ht.only v fun e => htl (e ▸ hv)]
    exact hc v (List.mem_cons_of_mem _ hv)

theorem State.foldl_event_sector {α : Type} (f : α → Sector → Sector) (l : List α) (s : State) :
    (l.foldl (fun st t => st.event (f t)) s).sector = l.foldl (fun x t => f t x) s.sector := by
  induction l generalizing s with
  | nil => rfl
  | cons t l ih => rw [List.foldl_cons, List.foldl_cons, ih, State.event_sector]

/-- The supervisor's events at a frame start of carrier `c`. -/
theorem State.lsvBlock_ruled (c : CarrierNo) (f : FrameNo) (s : State) :
    s.sector.RuledAll c f (s.sector.boundTo c) (s.frameBlock c f .lsv).sector := by
  have h := State.foldl_event_sector (fun t x => x.lsvFrame f t) (s.sector.boundTo c) s
  unfold State.frameBlock
  dsimp only
  rw [h]
  exact Sector.lsvFrames_ruled c f (Sector.boundTo_nodup _ c) _ fun t => Sector.carrier_of_mem_boundTo

end Sys2Proof.Machine
end

section
/-! SUPPORT. What the CSP's event of a frame start does to the terminals' records, step by step (R77, R81, R95 to R97, R108 to R117). -/

namespace Sys2Proof.Machine

/-! ### The steps -/

/-- The record whose unsent grant is taken back (R117). -/
def Terminal.unsentBack (r : Terminal) : Terminal :=
  { r with range := { r.range with attempts := r.range.attempts - 1, grant := none }, owed := { r.owed with grant := none } }

/-- The record whose attempt ends in a miss, its settle count set to `n` (R111, R112). -/
def Terminal.missSettled (n : Nat) (r : Terminal) : Terminal :=
  { r.judged.reportBroken with range := { r.judged.reportBroken.range with settle := n } }

/-- The record whose attempt ends in a miss at the attempt limit (R111, R115). -/
def Terminal.missFailed (r : Terminal) : Terminal := r.judged.reportBroken.rangeFailed

/-- The record with its reclaim-pending field set (R81). -/
def Terminal.pendingSet (b : Bool) (r : Terminal) : Terminal := { r with adm := { r.adm with reclaimPending := b } }

/-- The record of a grantee (R97). -/
def Terminal.grantedTo (g : GrantRef) (r : Terminal) : Terminal :=
  { r with range := { r.range with attempts := r.range.attempts + 1, grant := some g }, owed := { r.owed with grant := some g } }

/-- The record of a queue head taken (R96, R106). -/
def Terminal.headTaken (warm : Bool) (r : Terminal) : Terminal :=
  { r with link := { r.link with state := .trimming }, ladder := { r.ladder with stepUp := 0 }, range := r.range.begin warm }

/-- A step of reclaim or fill at one record; where `q` stands, only a CALLED terminal is taken from the queue. -/
inductive Terminal.FillStep (q : Prop) : Terminal → Terminal → Prop
  | reclaims (r : Terminal) (b : Bool) : FillStep q r (r.pendingSet b)
  | admits (r : Terminal) (h : r.link.state = .admitting) : FillStep q r r.owingAdmit
  | grants (r : Terminal) (g : GrantRef) : FillStep q r (r.grantedTo g)
  | takes (r : Terminal) (warm : Bool) (h : q → r.link.state = .called) : FillStep q r (r.headTaken warm)

/-- A step the CSP's event makes at one record. -/
inductive Terminal.CspStep (q : Prop) : Terminal → Terminal → Prop
  | unsent (r : Terminal) (h : r.link.state = .trimming) : CspStep q r r.unsentBack
  | settles (r : Terminal) (n : Nat) (h : r.link.state = .trimming) : CspStep q r (r.missSettled n)
  | fails (r : Terminal) (h : r.link.state = .trimming) : CspStep q r r.missFailed
  | fills (r y : Terminal) (h : FillStep q r y) : CspStep q r y

/-- From `s` to `u` every record went through steps `R`; STATE-CHANGE and RANGE-FAIL were at most added to, and the release pointers,
the HFS counters and what was handed out stayed. -/
structure Sector.Stepped (R : Terminal → Terminal → Prop) (s u : Sector) : Prop where
  term : ∀ t, Relation.ReflTransGen R (s.term t) (u.term t)
  pointer : ∀ d, (u.car d).releasePtr = (s.car d).releasePtr
  hfs : u.hfs = s.hfs
  handed : u.mlOut = s.mlOut
  changed : ∀ t ∈ s.events.stateChange, t ∈ u.events.stateChange
  failed : ∀ t ∈ s.events.rangeFail, t ∈ u.events.rangeFail

section
variable {R : Terminal → Terminal → Prop} {s a u : Sector}

theorem Sector.Stepped.rfl' (s : Sector) : s.Stepped R s := ⟨fun _ => .refl, fun _ => rfl, rfl, rfl, fun _ => id, fun _ => id⟩

theorem Sector.Stepped.mono {R' : Terminal → Terminal → Prop} (h : s.Stepped R u) (hR : ∀ x y, R x y → R' x y) : s.Stepped R' u :=
  ⟨fun t => Relation.ReflTransGen.mono hR _ _ (h.term t), h.pointer, h.hfs, h.handed, h.changed, h.failed⟩

theorem Sector.Stepped.trans (h : s.Stepped R a) (g : a.Stepped R u) : s.Stepped R u where
  term t := (h.term t).trans (g.term t)
  pointer d := (g.pointer d).trans (h.pointer d)
  hfs := g.hfs.trans h.hfs
  handed := g.handed.trans h.handed
  changed t ht := g.changed t (h.changed t ht)
  failed t ht := g.failed t (h.failed t ht)

theorem Sector.Stepped.foldl {α : Type} {f : Sector → α → Sector} (h : ∀ (x : Sector) (i : α), x.Stepped R (f x i)) (l : List α)
    (s : Sector) : s.Stepped R (l.foldl f s) := by
  induction l generalizing s with
  | nil => exact .rfl' s
  | cons i l ih => exact (h s i).trans (ih _)

theorem Sector.Stepped.ite {p : Prop} [Decidable p] (ha : s.Stepped R a) (hb : s.Stepped R u) : s.Stepped R (if p then a else u) := by
  split
  · exact ha
  · exact hb

theorem Sector.Stepped.modCar (s : Sector) (c : CarrierNo) (f : Carrier → Carrier) (h : (f (s.car c)).releasePtr = (s.car c).releasePtr) :
    s.Stepped R (s.modCar c f) where
  term _ := .refl
  pointer d := by
    rw [Sector.car_modCar]
    split
    · next hd => rw [h, hd]
    · rfl
  hfs := rfl
  handed := rfl
  changed _ := id
  failed _ := id

theorem Sector.Stepped.andCar {c : CarrierNo} {f : Carrier → Carrier} (h : s.Stepped R a)
    (hf : (f (a.car c)).releasePtr = (a.car c).releasePtr) : s.Stepped R (a.modCar c f) := h.trans (.modCar a c f hf)

theorem Sector.Stepped.note (s : Sector) (f : EventSets → EventSets) (hc : ∀ t ∈ s.events.stateChange, t ∈ (f s.events).stateChange)
    (hf : ∀ t ∈ s.events.rangeFail, t ∈ (f s.events).rangeFail) : s.Stepped R (s.note f) :=
  ⟨fun _ => .refl, fun _ => rfl, rfl, rfl, hc, hf⟩

theorem Sector.Stepped.noteStateChange (before s : Sector) (t : TermNo) : s.Stepped R (Sector.noteStateChange before s t) := by
  unfold Sector.noteStateChange
  exact .ite (.rfl' s) (.note s _ (fun _ => mem_insertNo_of_mem) fun _ => id)

theorem Sector.Stepped.modTerm (s : Sector) (t : TermNo) (f : Terminal → Terminal) (h : R (s.term t) (f (s.term t))) :
    s.Stepped R (s.modTerm t f) where
  term v := by
    rw [Sector.term_modTerm]
    split
    · next hv => rw [hv]; exact .single h
    · exact .refl
  pointer _ := rfl
  hfs := rfl
  handed := rfl
  changed _ := id
  failed _ := id

theorem Sector.Turned.stepped {t : TermNo} {c : CarrierNo} {r : Terminal} {k : Carrier} {p : PldCounters} {e : EventSets}
    (h : s.Turned t c r k p e u) (hr : Relation.ReflTransGen R (s.term t) r) (hk : k.releasePtr = (s.car c).releasePtr)
    (hc : ∀ v ∈ s.events.stateChange, v ∈ e.stateChange) (hf : ∀ v ∈ s.events.rangeFail, v ∈ e.rangeFail) : s.Stepped R u where
  term v := by
    by_cases hv : v = t
    · rw [hv, h.term]; exact hr
    · rw [h.only v hv]
  pointer d := by
    by_cases hd : d = c
    · rw [hd, h.car, hk]
    · rw [h.onlyCar d hd]
  hfs := h.hfs
  handed := h.handed
  changed v hv := by rw [h.events]; exact hc v hv
  failed v hv := by rw [h.events]; exact hf v hv

end

/-! ### Misses (R107 to R117) -/

section
variable {s : Sector} {t : TermNo}

/-- The carrier of a grantee whose current outcome is a miss, before the attempt's end is judged. -/
def Carrier.missJudged (k : Carrier) : Carrier := k.judged.rangingMissed

/-- A current miss, up to the end of the attempt (R108, R111). -/
theorem Sector.currentMiss_taken (s : Sector) (t : TermNo) : s.Turned t (s.term t).cfg.carrier (s.term t).judged.reportBroken
    (s.car (s.term t).cfg.carrier).missJudged (s.pld.reportBroken (s.term t)) s.events
    (((s.judged (s.term t).cfg.carrier t).breakAssembly t).modCar (s.term t).cfg.carrier Carrier.rangingMissed) :=
  ((((Sector.Turned.rfl' s t (s.term t).cfg.carrier).modTerm fun r => { r with range := { r.range with grant := none } }).modTerm
    fun r => { r with ctr := { r.ctr with rangingAttempts := r.ctr.rangingAttempts + 1 } }).modCar Carrier.judged).breakAssembly.modCar
      Carrier.rangingMissed

theorem Terminal.judged_kept (r : Terminal) : r.judged.reportBroken.cfg = r.cfg ∧ r.judged.reportBroken.link = r.link ∧
    r.judged.reportBroken.range = { r.range with grant := none } := by
  obtain ⟨hlink, hcfg, hrange, -⟩ := r.judged.reportBroken_kept
  exact ⟨hcfg, hlink, hrange⟩

theorem Sector.Turned.endUnconverged_settles {a : Sector} {c : CarrierNo} {r : Terminal} {k : Carrier} {p : PldCounters} {e : EventSets}
    (h : s.Turned t c r k p e a) (hl : r.range.attempts < k.cfg.trimLimit) :
    s.Turned t c { r with range := { r.range with settle := k.cfg.settle } } k p e (a.endUnconverged c t) := by
  unfold Sector.endUnconverged
  dsimp only
  rw [h.term, h.car, if_neg (not_le.2 hl)]
  exact h.modTerm fun r => { r with range := { r.range with settle := k.cfg.settle } }

theorem Sector.Turned.endUnconverged_fails {a : Sector} {c : CarrierNo} {r : Terminal} {k : Carrier} {p : PldCounters} {e : EventSets}
    (h : s.Turned t c r k p e a) (hl : k.cfg.trimLimit ≤ r.range.attempts) (hs : r.link.state = .trimming) (hc : r.cfg.carrier = c) :
    s.Turned t c r.rangeFailed (k.rangeFailed t r) p
      { e with rangeFail := insertNo t e.rangeFail, stateChange := insertNo t e.stateChange } (a.endUnconverged c t) := by
  unfold Sector.endUnconverged
  dsimp only
  rw [h.term, h.car, if_pos hl]
  exact h.failExchange hs hc

/-- A current miss below the attempt limit (R112). -/
theorem Sector.currentMiss_settles (hl : (s.term t).range.attempts < (s.car (s.term t).cfg.carrier).cfg.trimLimit) :
    s.Turned t (s.term t).cfg.carrier ((s.term t).missSettled (s.car (s.term t).cfg.carrier).cfg.settle)
      (s.car (s.term t).cfg.carrier).missJudged (s.pld.reportBroken (s.term t)) s.events
      (s.currentOutcome (s.term t).cfg.carrier t .miss) :=
  (s.currentMiss_taken t).endUnconverged_settles (by rw [(s.term t).judged_kept.2.2]; exact hl)

/-- A current miss at the attempt limit (R115). -/
theorem Sector.currentMiss_fails (hs : (s.term t).link.state = .trimming)
    (hl : (s.car (s.term t).cfg.carrier).cfg.trimLimit ≤ (s.term t).range.attempts) :
    s.Turned t (s.term t).cfg.carrier (s.term t).missFailed
      ((s.car (s.term t).cfg.carrier).missJudged.rangeFailed t (s.term t).judged.reportBroken) (s.pld.reportBroken (s.term t))
      { s.events with rangeFail := insertNo t s.events.rangeFail, stateChange := insertNo t s.events.stateChange }
      (s.currentOutcome (s.term t).cfg.carrier t .miss) := by
  obtain ⟨hcfg, hlink, hrange⟩ := (s.term t).judged_kept
  exact (s.currentMiss_taken t).endUnconverged_fails (by rw [hrange]; exact hl) (by rw [hlink, hs]) (by rw [hcfg])

theorem Carrier.rangeFailed_pointer (r : Terminal) (k : Carrier) : (k.rangeFailed t r).releasePtr = k.releasePtr := by
  have h := congrArg Carrier.releasePtr (Carrier.lentIf_frame r.link.lendTaken t r.cfg.homeSlots
    ({ k with rng := { k.rng with failures := k.rng.failures + 1 } }.unranged t))
  exact h

variable {q : Prop}

/-- A grant's cell retired unconsumed: stale, unsent, or a current miss (R77, R107). -/
theorem Sector.rngMiss_stepped (s : Sector) (c : CarrierNo) (u : FrameNo) (slot : SlotNo) (t : TermNo) :
    s.Stepped (Terminal.CspStep q) (s.rngOutcome c u slot t .miss) := by
  by_cases hcur : (s.term t).link.state = .trimming ∧ (s.term t).range.grant = some { frame := u, slot := slot }
  · obtain ⟨hst, hg⟩ := hcur
    cases howed : (s.term t).owed.grant with
    | some g =>
      rw [Sector.rngOutcome_unsent hst hg (by rw [howed]; rfl)]
      exact (Sector.Turned.rfl' s t _).unsentOutcome.stepped (.single (.unsent _ hst)) rfl (fun _ => id) fun _ => id
    | none =>
      rw [Sector.rngOutcome_current hst hg howed]
      by_cases hl : (s.car (s.term t).cfg.carrier).cfg.trimLimit ≤ (s.term t).range.attempts
      · exact (Sector.currentMiss_fails hst hl).stepped (.single (.fails _ hst)) (Carrier.rangeFailed_pointer _ _)
          (fun _ => mem_insertNo_of_mem) fun _ => mem_insertNo_of_mem
      · exact (Sector.currentMiss_settles (not_le.1 hl)).stepped (.single (.settles _ _ hst)) rfl (fun _ => id) fun _ => id
  · rw [Sector.rngOutcome_stale hcur]
    exact (Sector.Turned.rfl' s t c).staleMiss.stepped .refl rfl (fun _ => id) fun _ => id

theorem Sector.expireCell_stepped (c : CarrierNo) (s : Sector) (x : FrameNo × SlotNo × Cell) :
    s.Stepped (Terminal.CspStep q) (s.expireCell c x) := by
  unfold Sector.expireCell
  split
  · exact .rfl' s
  · unfold Sector.quietOffer Sector.offerOutcome
    exact .andCar (.andCar (.modCar s c _ rfl) rfl) rfl
  · exact (Sector.Stepped.modCar s c _ rfl).trans (Sector.rngMiss_stepped _ c _ _ _)

end

/-! ### Window, backoff, recovery and reclaim (R72, R77, R81, R89) -/

section
variable {q : Prop}

theorem Sector.moveWindow_stepped (s : Sector) (c : CarrierNo) (f : FrameNo) : s.Stepped (Terminal.CspStep q) (s.moveWindow c f) :=
  (Sector.Stepped.modCar s c (Carrier.moveTo f) rfl).trans (.foldl (Sector.expireCell_stepped c) _ _)

theorem Sector.backoff_stepped (s : Sector) (c : CarrierNo) : s.Stepped (Terminal.FillStep q) (s.backoff c) := by
  unfold Sector.backoff
  exact .ite (.ite (.trans (.andCar (.modCar s c _ rfl) rfl) (.note _ _ (fun _ => id) fun _ => id)) (.modCar s c _ rfl)) (.rfl' s)

theorem Sector.recoveryFrame_stepped (s : Sector) (c : CarrierNo) : s.Stepped (Terminal.FillStep q) (s.recoveryFrame c) := by
  have hup (a : Sector) : a.Stepped (Terminal.FillStep q) (a.setCarrierState c .up) :=
    .ite (.modCar a c _ rfl) (.trans (.modCar a c _ rfl) (.note _ _ (fun _ => id) fun _ => id))
  unfold Sector.recoveryFrame
  exact .ite (.trans (.modCar s c _ rfl) (.ite (hup _) (.rfl' _))) (.rfl' s)

theorem Sector.reclaimSlot_stepped (c : CarrierNo) (s : Sector) (slot : SlotNo) :
    s.Stepped (Terminal.FillStep q) (Sector.reclaimSlot c s slot) := by
  by_cases hd : (∃ t, (s.car c).slotUse slot = .lent t true) ∧ ∀ row ∈ (s.car c).calendar, row.cell slot = .empty
  · obtain ⟨⟨t, ht⟩, hc⟩ := hd
    rw [Sector.reclaimSlot_due ht hc]
    have hturned := s.turnBack_turned c slot t
    have hstep := hturned.stepped (R := Terminal.FillStep q) (.single (.reclaims _ _)) rfl (fun _ => id) fun _ => id
    by_cases ha : (s.turnBack c slot t).admits t
    · rw [Sector.examineAdmission_admits ha]
      exact hstep.trans (.modTerm _ t _ (.admits _ ha.1))
    · rw [Sector.examineAdmission_idle ha]
      exact hstep
  · rw [not_and_or, not_exists] at hd
    rw [Sector.reclaimSlot_idle hd]
    exact .rfl' s

/-! ### The fill (R78, R94 to R97) -/

theorem Sector.grantTo_stepped (s : Sector) (c : CarrierNo) (r : FrameNo) (t : TermNo) (slot : SlotNo) :
    s.Stepped (Terminal.FillStep q) (s.grantTo c r t slot) := by
  unfold Sector.grantTo
  refine .andCar (.trans (.modCar s c _ rfl) (.modTerm _ t _ ?_)) rfl
  exact .grants (s.term t) { frame := r, slot := slot }

theorem grantMember_stepped (c : CarrierNo) (r : FrameNo) (a : Sector × Nat) (t : TermNo) :
    a.1.Stepped (Terminal.FillStep q) (grantMember c r a t).1 := by
  unfold grantMember
  split
  · exact .rfl' _
  · split
    · split
      · exact .rfl' _
      · dsimp only
        exact .andCar (Sector.grantTo_stepped _ c r t _) rfl
    · exact .rfl' _

theorem Sector.takeHead_stepped {s : Sector} (c : CarrierNo) (r : FrameNo) {t : TermNo} (slot : SlotNo)
    (ht : q → (s.term t).link.state = .called) : s.Stepped (Terminal.FillStep q) (s.takeHead c r t slot) := by
  unfold Sector.takeHead
  dsimp only
  refine .trans (.trans (.andCar (.trans (.andCar (.modCar s c _ rfl) rfl) (.modTerm _ t _ ?_)) rfl)
    (.noteStateChange _ _ t)) (Sector.grantTo_stepped _ c r t slot)
  exact .takes _ _ ht

theorem Sector.takeHeads_stepped (c : CarrierNo) (r : FrameNo) (pace : Nat) {s : Sector} (hq : q → s.allScheduled) :
    s.Stepped (Terminal.FillStep q) (Sector.takeHeads c r pace s) := by
  induction pace generalizing s with
  | zero => exact .rfl' s
  | succ pace ih =>
    unfold Sector.takeHeads
    split
    · next e l slot hqueue _ =>
      split
      · next hroom =>
        refine .trans (Sector.takeHead_stepped c r slot fun h => ?_)
          (ih fun h => (Sector.takeHead_lawful r slot hqueue hroom).scheduled (hq h))
        have hp := (Sector.scheduled_iff s c).1 ((hq h).1 c)
        exact ((hp.entered e.terminal).1 ⟨e, hqueue ▸ List.mem_cons_self, rfl⟩).2
      · exact .rfl' s
    · exact .rfl' s
    · exact .rfl' s

theorem Sector.fillRow_stepped (c : CarrierNo) (r : FrameNo) {s : Sector} (hq : q → s.allScheduled) :
    s.Stepped (Terminal.FillStep q) (s.fillRow c r) := by
  have hmembers (l : List TermNo) (a : Sector × Nat) : a.1.Stepped (Terminal.FillStep q) (l.foldl (grantMember c r) a).1 := by
    induction l generalizing a with
    | nil => exact .rfl' _
    | cons t l ih => exact (grantMember_stepped c r a t).trans (ih _)
  have hlaw (l : List TermNo) (a : Sector × Nat) : a.1.Lawful (l.foldl (grantMember c r) a).1 :=
    (Sector.Calm.foldlPair _ (grantMember_calm c r) l a).lawful
  have hoffers (l : List SlotNo) (k : Carrier) : (l.foldl (fun x slot => x.setCell r slot .offered) k).releasePtr = k.releasePtr := by
    induction l generalizing k with
    | nil => rfl
    | cons z l ih => exact ih _
  unfold Sector.fillRow Sector.grantArbiter
  refine .trans (.trans (hmembers _ (s, _)) (Sector.takeHeads_stepped c r _ fun h => (hlaw _ (s, _)).scheduled (hq h))) (.modCar _ c _ ?_)
  exact hoffers _ _

theorem Sector.fillAt_stepped (c : CarrierNo) (f : FrameNo) {s : Sector} (hq : q → s.allScheduled) :
    s.Stepped (Terminal.FillStep q) (s.fillAt c f) := by
  unfold Sector.fillAt
  dsimp only
  refine .ite ?_ (.rfl' s)
  split
  · exact .ite (.rfl' s) (Sector.fillRow_stepped c _ hq)
  · exact .rfl' s

/-- The CSP's event after the window moved. -/
theorem Sector.afterWindow_stepped (c : CarrierNo) (f : FrameNo) {s : Sector} (hq : q → s.allScheduled) :
    s.Stepped (Terminal.FillStep q) ((allSlots.foldl (Sector.reclaimSlot c) ((s.backoff c).recoveryFrame c)).fillAt c f) := by
  have hlaw : s.Lawful (allSlots.foldl (Sector.reclaimSlot c) ((s.backoff c).recoveryFrame c)) :=
    (((Sector.backoff_calm s c).trans (Sector.recoveryFrame_calm _ c)).lawful).calm (.foldl _ (Sector.reclaimSlot_calm c) _ _)
  have hbefore := ((Sector.backoff_stepped (q := q) s c).trans (Sector.recoveryFrame_stepped _ c)).trans
    (.foldl (Sector.reclaimSlot_stepped c) allSlots _)
  exact hbefore.trans (Sector.fillAt_stepped c f fun h => hlaw.scheduled (hq h))

/-- The CSP's event of a frame start, where the schedules are right if `q` stands. -/
theorem Sector.cspFrame_stepped (c : CarrierNo) (f : FrameNo) {s : Sector} (hq : q → s.allScheduled) :
    s.Stepped (Terminal.CspStep q) (s.cspFrame c f) :=
  (Sector.moveWindow_stepped s c f).trans ((Sector.afterWindow_stepped c f fun h => (Sector.moveWindow_lawful s c f).scheduled (hq h)).mono
    .fills)

end

end Sys2Proof.Machine
end

section
/-! SUPPORT. The blocks other than the supervisor at a frame start leave what it counts: O35. -/

namespace Sys2Proof.Machine

/-! ### Records whose supervision coasts -/

/-- Record `y` is `x` as far as the supervisor's counts go: a terminal that waits for the scheduler may have been taken or have
failed, an ADMITTING one may have used its permit up; the rest of the link fields and the admission wait are as they were. -/
structure Terminal.Coasts (x y : Terminal) : Prop where
  cfg : y.cfg = x.cfg
  link : ¬ x.link.state.waits → y.link = { x.link with permit := y.link.permit }
  permit : ¬ x.link.state.waits → x.link.state ≠ .admitting → y.link.permit = x.link.permit
  adm : ¬ x.link.state.waits → y.adm.wait = x.adm.wait ∧ y.adm.sent = x.adm.sent
  waits : x.link.state.waits → (y.link.state.waits ∨ y.link.state = .guard) ∧ y.link.outage = x.link.outage ∧
    y.link.outageOn = x.link.outageOn

section
variable {x y z : Terminal}

theorem Terminal.Coasts.of_same (hc : y.cfg = x.cfg) (hl : y.link = x.link) (ha : y.adm.wait = x.adm.wait ∧ y.adm.sent = x.adm.sent) :
    x.Coasts y where
  cfg := hc
  link _ := by rw [hl]
  permit _ _ := by rw [hl]
  adm _ := ha
  waits h := by rw [hl]; exact ⟨.inl h, rfl, rfl⟩

theorem Terminal.Coasts.refl (x : Terminal) : x.Coasts x := .of_same rfl rfl ⟨rfl, rfl⟩

theorem Terminal.Coasts.state (h : x.Coasts y) (hw : ¬ x.link.state.waits) : y.link.state = x.link.state := by rw [h.link hw]

theorem Terminal.Coasts.trans (h : x.Coasts y) (g : y.Coasts z) : x.Coasts z where
  cfg := g.cfg.trans h.cfg
  link hw := by rw [g.link (h.state hw ▸ hw), h.link hw]
  permit hw ha := (g.permit (h.state hw ▸ hw) (h.state hw ▸ ha)).trans (h.permit hw ha)
  adm hw := by
    obtain ⟨h₁, h₂⟩ := h.adm hw
    obtain ⟨g₁, g₂⟩ := g.adm (h.state hw ▸ hw)
    exact ⟨g₁.trans h₁, g₂.trans h₂⟩
  waits hw := by
    obtain ⟨hy, ho, hon⟩ := h.waits hw
    by_cases hyw : y.link.state.waits
    · obtain ⟨gz, go, gon⟩ := g.waits hyw
      exact ⟨gz, go.trans ho, gon.trans hon⟩
    · have hz := g.link hyw
      refine ⟨.inr ?_, ?_, ?_⟩
      · rw [hz]; exact hy.resolve_left hyw
      · rw [hz]; exact ho
      · rw [hz]; exact hon

theorem LinkState.waits_trimming {l : LinkState} (h : l = .trimming) : l.waits := .inr h

/-- A failed exchange's terminal is in GUARD, its outage as it was (R115). -/
theorem Terminal.missFailed_link (r : Terminal) : r.missFailed.cfg = r.cfg ∧ r.missFailed.link.state = .guard ∧
    r.missFailed.link.outage = r.link.outage ∧ r.missFailed.link.outageOn = r.link.outageOn := by
  obtain ⟨hcfg, hlink, -⟩ := r.judged_kept
  have ho := congrArg LinkFields.outage hlink
  have hon := congrArg LinkFields.outageOn hlink
  exact ⟨hcfg, rfl, ho, hon⟩

theorem Terminal.FillStep.coasts (h : Terminal.FillStep True x y) : x.Coasts y := by
  cases h with
  | reclaims b => exact .of_same rfl rfl ⟨rfl, rfl⟩
  | admits hst =>
    exact ⟨rfl, fun _ => rfl, fun _ h => absurd hst h, fun _ => ⟨rfl, rfl⟩, fun hw => ⟨.inl hw, rfl, rfl⟩⟩
  | grants g => exact .of_same rfl rfl ⟨rfl, rfl⟩
  | takes warm hst =>
    have hw : x.link.state.waits := .inl (hst trivial)
    exact ⟨rfl, fun h => absurd hw h, fun h => absurd hw h, fun h => absurd hw h, fun _ => ⟨.inl (.inr rfl), rfl, rfl⟩⟩

theorem Terminal.CspStep.coasts (h : Terminal.CspStep True x y) : x.Coasts y := by
  cases h with
  | unsent _ => exact .of_same rfl rfl ⟨rfl, rfl⟩
  | settles n _ =>
    have hadm : x.judged.reportBroken.adm = x.adm := by
      unfold Terminal.reportBroken
      split <;> rfl
    exact .of_same x.judged_kept.1 x.judged_kept.2.1 ⟨congrArg _ hadm, congrArg _ hadm⟩
  | fails hst =>
    obtain ⟨hcfg, hguard, ho, hon⟩ := x.missFailed_link
    have hw := LinkState.waits_trimming hst
    exact ⟨hcfg, fun h => absurd hw h, fun h => absurd hw h, fun h => absurd hw h, fun _ => ⟨.inr hguard, ho, hon⟩⟩
  | fills _ hstep => exact hstep.coasts

theorem Terminal.Coasts.of_steps (h : Relation.ReflTransGen (Terminal.CspStep True) x y) : x.Coasts y := by
  induction h with
  | refl => exact .refl x
  | tail _ hstep ih => exact ih.trans hstep.coasts

end

/-! ### The blocks of the RNG, the PLD and the HFS -/

/-- Record `y` is `x` but for its settle count, its ladder, its held queue and counters: a settle count or step-up count of 0 and
the ranging attempts stay. -/
structure Terminal.Quiet (x y : Terminal) : Prop where
  cfg : y.cfg = x.cfg
  link : y.link = x.link
  adm : y.adm = x.adm
  owed : y.owed = x.owed
  range : y.range = { x.range with settle := y.range.settle }
  settle : x.range.settle = 0 → y.range.settle = 0
  stepUp : x.ladder.stepUp = 0 → y.ladder.stepUp = 0
  attempts : y.ctr.rangingAttempts = x.ctr.rangingAttempts

theorem Terminal.Quiet.refl (x : Terminal) : x.Quiet x := ⟨rfl, rfl, rfl, rfl, rfl, id, id, rfl⟩

theorem Terminal.Quiet.trans {x y z : Terminal} (h : x.Quiet y) (g : y.Quiet z) : x.Quiet z where
  cfg := g.cfg.trans h.cfg
  link := g.link.trans h.link
  adm := g.adm.trans h.adm
  owed := g.owed.trans h.owed
  range := by rw [g.range, h.range]
  settle hx := g.settle (h.settle hx)
  stepUp hx := g.stepUp (h.stepUp hx)
  attempts := g.attempts.trans h.attempts

/-- Every record is quiet, of the carriers only release pointers may differ, and the event sets are the same. -/
structure Sector.Quiet (s u : Sector) : Prop where
  term : ∀ t, (s.term t).Quiet (u.term t)
  frame : ∀ d, { u.car d with releasePtr := 0 } = { s.car d with releasePtr := 0 }
  events : u.events = s.events

section
variable {s a u : Sector} {t : TermNo}

theorem Sector.Quiet.rfl' (s : Sector) : s.Quiet s := ⟨fun _ => .refl _, fun _ => rfl, rfl⟩

theorem Sector.Quiet.trans (h : s.Quiet a) (g : a.Quiet u) : s.Quiet u :=
  ⟨fun t => (h.term t).trans (g.term t), fun d => (g.frame d).trans (h.frame d), g.events.trans h.events⟩

theorem Sector.Quiet.foldl {α : Type} {f : Sector → α → Sector} (h : ∀ (x : Sector) (i : α), x.Quiet (f x i)) (l : List α)
    (s : Sector) : s.Quiet (l.foldl f s) := by
  induction l generalizing s with
  | nil => exact .rfl' s
  | cons i l ih => exact (h s i).trans (ih _)

theorem Sector.Quiet.of_only (ho : OnlyRecord s u t) (h : (s.term t).Quiet (u.term t)) (hc : u.cars = s.cars)
    (he : u.events = s.events) : s.Quiet u := by
  refine ⟨fun v => ?_, fun d => ?_, he⟩
  · by_cases hv : v = t
    · rw [hv]; exact h
    · rw [ho v hv]; exact .refl _
  · rw [show u.car d = s.car d from congrArg (fun x => x[d]) hc]

theorem Sector.Quiet.modTerm (s : Sector) (t : TermNo) {f : Terminal → Terminal} (h : (s.term t).Quiet (f (s.term t))) :
    s.Quiet (s.modTerm t f) := by
  refine .of_only (t := t) (fun v hv => (Sector.term_modTerm s t v f).trans (if_neg hv)) ?_ rfl rfl
  rw [Sector.term_modTerm, if_pos rfl]
  exact h

end

theorem Terminal.settleTick_quiet (r : Terminal) : r.Quiet r.settleTick := by
  unfold Terminal.settleTick Terminal.settleEnd
  split
  · next h => exact ⟨rfl, rfl, rfl, rfl, rfl, fun h0 => absurd h.2 (by omega), id, rfl⟩
  · split
    · exact ⟨rfl, rfl, rfl, rfl, rfl, fun _ => rfl, id, rfl⟩
    · exact .refl r

theorem Sector.rngFrame_quiet (s : Sector) (c : CarrierNo) : s.Quiet (s.rngFrame c) :=
  .foldl (fun x t => .modTerm x t (Terminal.settleTick_quiet _)) _ s

theorem Sector.applyReached_quiet (f : FrameNo) (s : Sector) (t : TermNo) : s.Quiet (s.applyReached f t) := by
  unfold Sector.applyReached
  split
  · split
    · split
      · have h := s.applyPending_turned t ‹_› 0
        refine .of_only h.only ?_ (h.cars rfl) h.events
        rw [h.term]
        refine ⟨rfl, rfl, rfl, rfl, rfl, id, fun _ => rfl, ?_⟩
        dsimp only
        split <;> rfl
      · exact .rfl' s
    · exact .rfl' s
  · exact .rfl' s

theorem Sector.pldFrame_quiet (s : Sector) (c : CarrierNo) (f : FrameNo) : s.Quiet (s.pldFrame c f) :=
  .foldl (Sector.applyReached_quiet f) _ s

theorem Sector.ageDiscard_quiet (s : Sector) (t : TermNo) : s.Quiet (s.ageDiscard t) := by
  by_cases h : (s.term t).oldHeads = []
  · rw [Sector.ageDiscard_none h]
    exact .rfl' s
  · have hs := Sector.ageDiscard_stored h
    refine .of_only hs.only ?_ hs.cars hs.events
    rw [hs.term]
    exact ⟨rfl, rfl, rfl, rfl, rfl, id, id, rfl⟩

theorem Sector.modHold_quiet (s : Sector) (t : TermNo) (f : HoldFields → HoldFields) : s.Quiet (s.modHold t f) :=
  .modTerm s t (f := fun r => { r with hold := f r.hold }) ⟨rfl, rfl, rfl, rfl, rfl, id, id, rfl⟩

/-- The record with `n` frames more counted as released (R150). -/
def Terminal.releasedMore (n : Counter) (r : Terminal) : Terminal :=
  { r with ctr := { r.ctr with framesReleased := r.ctr.framesReleased + n } }

theorem Sector.releaseFrames_quiet (s : Sector) (c : CarrierNo) (t : TermNo) (n : Nat) : s.Quiet (s.releaseFrames c t n) := by
  unfold Sector.releaseFrames
  dsimp only
  have hgiven : s.Quiet (s.giveBack ((s.term t).hold.queue.take n)) := ⟨fun _ => .refl _, fun _ => rfl, rfl⟩
  have hhanded := hgiven.trans (Sector.modHold_quiet _ t fun h => { h with queue := h.queue.drop n }.idleIfEmpty)
  have hcounted := hhanded.trans (.modTerm _ t (f := Terminal.releasedMore (BitVec.ofNat 32 ((s.term t).hold.queue.take n).length))
    ⟨rfl, rfl, rfl, rfl, rfl, id, id, rfl⟩)
  exact ⟨hcounted.term, hcounted.frame, hcounted.events⟩

theorem Sector.pointer_quiet (s : Sector) (c : CarrierNo) (t : TermNo) : s.Quiet (s.modCar c fun k => { k with releasePtr := t }) := by
  refine ⟨fun _ => .refl _, fun d => ?_, rfl⟩
  rw [Sector.car_modCar]
  split
  · next h => rw [h]
  · rfl

theorem releaseVisit_quiet (c : CarrierNo) (a : Sector × Nat) (t : TermNo) : a.1.Quiet (releaseVisit c a t).1 := by
  unfold releaseVisit
  dsimp only
  split
  · split
    · exact .rfl' _
    · dsimp only
      exact (Sector.releaseFrames_quiet _ c t _).trans (Sector.pointer_quiet _ c t)
  · exact .rfl' _

theorem Sector.releaseArbiter_quiet (s : Sector) (c : CarrierNo) : s.Quiet (s.releaseArbiter c) := by
  have h (l : List TermNo) (a : Sector × Nat) : a.1.Quiet (l.foldl (releaseVisit c) a).1 := by
    induction l generalizing a with
    | nil => exact .rfl' _
    | cons t l ih => exact (releaseVisit_quiet c a t).trans (ih _)
  exact h _ (s, _)

theorem Sector.hfsFrame_quiet (s : Sector) (c : CarrierNo) : s.Quiet (s.hfsFrame c) := by
  have haged : s.Quiet ((s.boundTo c).foldl Sector.ageQueue s) :=
    .foldl (fun x t => (Sector.modHold_quiet x t _).trans (Sector.ageDiscard_quiet _ t)) _ s
  exact (haged.trans (.foldl (fun x t => Sector.modHold_quiet x t HoldFields.yieldTick) _ _)).trans (Sector.releaseArbiter_quiet _ c)

/-- The RNG, the PLD and the HFS at a frame start. -/
theorem State.frameBlock_quiet (c : CarrierNo) (f : FrameNo) (s : State) {b : Block} (h₁ : b ≠ .csp) (h₂ : b ≠ .lsv) :
    s.sector.Quiet (s.frameBlock c f b).sector := by
  cases b with
  | csp => exact absurd rfl h₁
  | lsv => exact absurd rfl h₂
  | rng => unfold State.frameBlock; rw [State.event_sector]; exact Sector.rngFrame_quiet _ c
  | pld => unfold State.frameBlock; rw [State.event_sector]; exact Sector.pldFrame_quiet _ c f
  | hfs => unfold State.frameBlock; rw [State.event_sector]; exact Sector.hfsFrame_quiet _ c

end Sys2Proof.Machine
end

section
/-! SUPPORT. The supervisor's counts over a whole frame start, whatever the order of the blocks (R44, R57, R60, R62): O35. -/

namespace Sys2Proof.Machine

/-! ### Absent terminals -/

/-- DARK, CALLED, TRIMMING or GUARD: the states in which an outage counter runs on (R44). -/
def LinkState.absent (l : LinkState) : Prop := l = .dark ∨ l = .called ∨ l = .trimming ∨ l = .guard

section
variable {x y z : Terminal} {limit : Nat} {f : FrameNo}

theorem Terminal.Quiet.coasts (h : x.Quiet y) : x.Coasts y := .of_same h.cfg h.link (by rw [h.adm]; exact ⟨rfl, rfl⟩)

theorem Terminal.Coasts.absent (h : x.Coasts y) (ha : x.link.state.absent) :
    y.link.state.absent ∧ y.link.outage = x.link.outage ∧ y.link.outageOn = x.link.outageOn := by
  by_cases hw : x.link.state.waits
  · obtain ⟨hst, ho, hon⟩ := h.waits hw
    refine ⟨?_, ho, hon⟩
    obtain (hc | ht) | hg := hst
    · exact .inr (.inl hc)
    · exact .inr (.inr (.inl ht))
    · exact .inr (.inr (.inr hg))
  · rw [h.link hw]
    exact ⟨ha, rfl, rfl⟩

/-- The outage counter of an absent terminal takes the frame and runs on (R44). -/
theorem Terminal.supervised_outage (ha : x.link.state.absent) (hon : x.link.outageOn = true) :
    (x.supervised limit f).link.state.absent ∧ (x.supervised limit f).link.outage = min 16777215 (x.link.outage + 1) ∧
      (x.supervised limit f).link.outageOn = true := by
  have houtage : x.outageTaken.link.outage = min 16777215 (x.link.outage + 1) ∧ x.outageTaken.link.outageOn = true := by
    obtain ⟨taken, closed, h⟩ := x.outageTaken_eq
    rw [h, LinkFields.outageTick_eq]
    exact ⟨if_pos hon, hon⟩
  by_cases hg : x.link.state = .guard
  · rw [Terminal.supervised_guard limit f hg, x.outageTaken.guardTaken_outage.1, x.outageTaken.guardTaken_outage.2]
    refine ⟨?_, houtage⟩
    exact (Terminal.guardTaken_state (x.outageTaken_state.trans hg)).elim (fun h => .inr (.inr (.inr h))) .inl
  · have hne {l : LinkState} (hl : l ≠ .dark ∧ l ≠ .called ∧ l ≠ .trimming ∧ l ≠ .guard) : x.link.state ≠ l := by
      rintro rfl
      obtain ⟨h₁, h₂, h₃, h₄⟩ := hl
      exact ha.elim h₁ fun h => h.elim h₂ fun h => h.elim h₃ h₄
    rw [Terminal.supervised_absent limit f (hne (by decide)) hg (hne (by decide)), x.outageTaken_state]
    exact ⟨ha, houtage⟩

/-- The outage counter's frame leaves the timers (R57, R62). -/
theorem Terminal.outageTaken_timers (x : Terminal) :
    x.outageTaken.cfg = x.cfg ∧ x.outageTaken.adm = x.adm ∧ x.outageTaken.link.forced = x.link.forced ∧
    x.outageTaken.link.cause = x.link.cause ∧ x.outageTaken.link.guardOn = x.link.guardOn ∧
    x.outageTaken.link.guardCount = x.link.guardCount ∧ x.outageTaken.link.guardActive = x.link.guardActive ∧
    x.outageTaken.link.fadeOn = x.link.fadeOn ∧ x.outageTaken.link.fadeCount = x.link.fadeCount ∧
    x.outageTaken.link.fadeActive = x.link.fadeActive := by
  obtain ⟨taken, closed, h⟩ := x.outageTaken_eq
  rw [h, LinkFields.outageTick_eq]
  exact ⟨rfl, rfl, rfl, rfl, rfl, rfl, rfl, rfl, rfl, rfl⟩

/-! ### One frame start at a record -/

/-- Record `y` is what a frame start makes of record `x`: the supervisor's counts, with other blocks' work before and after. -/
structure Terminal.FrameTaken (limit : Nat) (f : FrameNo) (x y : Terminal) : Prop where
  taken : ∃ a : Terminal, x.Coasts a ∧ (a.supervised limit f).Coasts y

section
variable (h : Terminal.FrameTaken limit f x y)
include h

theorem Terminal.FrameTaken.outage (ha : x.link.state.absent) (hon : x.link.outageOn = true) :
    y.link.outage = min 16777215 (x.link.outage + 1) ∧ y.link.outageOn = true := by
  obtain ⟨a, hxa, hby⟩ := h.taken
  obtain ⟨haa, hoa, hona⟩ := hxa.absent ha
  obtain ⟨hab, hob, honb⟩ := Terminal.supervised_outage (limit := limit) (f := f) haa (hona.trans hon)
  obtain ⟨-, hoy, hony⟩ := hby.absent hab
  exact ⟨by rw [hoy, hob, hoa], hony.trans honb⟩

/-- A terminal that waits for no grant comes to the supervisor, and leaves it, as the counts alone make it. -/
theorem Terminal.FrameTaken.through (hw : ¬ x.link.state.waits) : ∃ a : Terminal, x.Coasts a ∧ a.link.state = x.link.state ∧
    (a.supervised limit f).Coasts y := by
  obtain ⟨a, hxa, hby⟩ := h.taken
  exact ⟨a, hxa, hxa.state hw, hby⟩

theorem Terminal.FrameTaken.dark (hst : x.link.state = .dark) : y.link.state = .dark := by
  obtain ⟨a, -, ha, hay⟩ := h.through (by rw [hst]; unfold LinkState.waits; decide)
  rw [hst] at ha
  have hsup : (a.supervised limit f).link.state = .dark := by
    rw [Terminal.supervised_absent limit f (by rw [ha]; decide) (by rw [ha]; decide) (by rw [ha]; decide), a.outageTaken_state, ha]
  rw [hay.state (by rw [hsup]; unfold LinkState.waits; decide), hsup]

theorem Terminal.FrameTaken.idle (hon : x.link.outageOn = false) (hst : x.link.state = .held ∨ x.link.state = .serving) :
    y.link = x.link ∧ y.adm.wait = x.adm.wait ∧ y.adm.sent = x.adm.sent := by
  have hw : ¬ x.link.state.waits ∧ x.link.state ≠ .admitting ∧ x.link.state ≠ .fading ∧ x.link.state ≠ .guard := by
    obtain hst | hst := hst <;> rw [hst] <;> exact ⟨by unfold LinkState.waits; decide, by decide, by decide, by decide⟩
  obtain ⟨hw, hadm, hfad, hgrd⟩ := hw
  have hsame {u v : Terminal} (g : u.Coasts v) (hu : u.link.state = x.link.state) :
      v.link = u.link ∧ v.adm.wait = u.adm.wait ∧ v.adm.sent = u.adm.sent := by
    rw [← hu] at hw hadm
    have hl := g.link hw
    rw [g.permit hw hadm] at hl
    exact ⟨hl, g.adm hw⟩
  obtain ⟨a, hxa, ha, hay⟩ := h.through hw
  obtain ⟨hal, haw, has⟩ := hsame hxa rfl
  have hsup : a.supervised limit f = a := by
    rw [Terminal.supervised_absent limit f (ha ▸ hfad) (ha ▸ hgrd) (ha ▸ hadm), Terminal.outageTaken_stopped (by rw [hal, hon])]
  rw [hsup] at hay
  obtain ⟨hyl, hyw, hys⟩ := hsame hay ha
  exact ⟨hyl.trans hal, hyw.trans haw, hys.trans has⟩

section
variable (hst : x.link.state = .guard) (hon : x.link.guardOn = true)
include hst hon

theorem Terminal.FrameTaken.guardRuns (hlt : x.link.guardCount + 1 < x.link.guardActive) :
    y.link.state = .guard ∧ y.link.guardCount = x.link.guardCount + 1 := by
  have hw : ¬ x.link.state.waits := by rw [hst]; unfold LinkState.waits; decide
  obtain ⟨a, hxa, ha, hay⟩ := h.through hw
  have hal := hxa.link hw
  obtain ⟨-, -, -, -, hgon, hcount, hactive, -⟩ := a.outageTaken_timers
  rw [hal] at hgon hcount hactive
  have hstate := a.outageTaken_state.trans (ha.trans hst)
  rw [Terminal.supervised_guard limit f (ha.trans hst),
    Terminal.guardTaken_runs hstate (hgon.trans hon) (by rw [hcount, hactive]; exact hlt)] at hay
  have hyl := hay.link (by rw [hstate]; unfold LinkState.waits; decide)
  rw [hyl]
  exact ⟨hstate, congrArg (· + 1) hcount⟩

theorem Terminal.FrameTaken.guardEnds (hf : x.link.forced = false) (hle : x.link.guardActive ≤ x.link.guardCount + 1) :
    y.link.state = .dark ∧ y.link.cause = x.link.cause ∧ y.link.guardOn = false := by
  have hw : ¬ x.link.state.waits := by rw [hst]; unfold LinkState.waits; decide
  obtain ⟨a, hxa, ha, hay⟩ := h.through hw
  have hal := hxa.link hw
  obtain ⟨-, -, hforced, hcause, hgon, hcount, hactive, -⟩ := a.outageTaken_timers
  rw [hal] at hforced hcause hgon hcount hactive
  have hstate := a.outageTaken_state.trans (ha.trans hst)
  rw [Terminal.supervised_guard limit f (ha.trans hst),
    Terminal.guardTaken_ends hstate (hgon.trans hon) (hforced.trans hf) (by rw [hcount, hactive]; exact hle)] at hay
  have hyl := hay.link (by rw [Terminal.toDark_state]; unfold LinkState.waits; decide)
  rw [hyl]
  exact ⟨rfl, (Terminal.toDark_cause _ _).trans hcause, rfl⟩

end

section
variable (hst : x.link.state = .fading) (hon : x.link.fadeOn = true)
include hst hon

theorem Terminal.FrameTaken.fadeRuns (hlt : x.link.fadeCount + 1 < x.link.fadeActive) :
    y.link.state = .fading ∧ y.link.fadeCount = x.link.fadeCount + 1 := by
  have hw : ¬ x.link.state.waits := by rw [hst]; unfold LinkState.waits; decide
  obtain ⟨a, hxa, ha, hay⟩ := h.through hw
  have hal := hxa.link hw
  obtain ⟨-, -, -, -, -, -, -, hfon, hcount, hactive⟩ := a.outageTaken_timers
  rw [hal] at hfon hcount hactive
  have hstate := a.outageTaken_state.trans (ha.trans hst)
  rw [Terminal.supervised_fading limit f (ha.trans hst),
    Terminal.fadeTaken_runs hstate (hfon.trans hon) (by rw [hcount, hactive]; exact hlt)] at hay
  have hyl := hay.link (by rw [hstate]; unfold LinkState.waits; decide)
  rw [hyl]
  exact ⟨hstate, congrArg (· + 1) hcount⟩

theorem Terminal.FrameTaken.fadeEnds (hf : x.link.forced = false) (hle : x.link.fadeActive ≤ x.link.fadeCount + 1) :
    y.link.state = .dark ∧ y.link.cause = .fade := by
  have hw : ¬ x.link.state.waits := by rw [hst]; unfold LinkState.waits; decide
  obtain ⟨a, hxa, ha, hay⟩ := h.through hw
  have hal := hxa.link hw
  obtain ⟨-, -, hforced, -, -, -, -, hfon, hcount, hactive⟩ := a.outageTaken_timers
  rw [hal] at hforced hfon hcount hactive
  have hstate := a.outageTaken_state.trans (ha.trans hst)
  rw [Terminal.supervised_fading limit f (ha.trans hst),
    Terminal.fadeTaken_ends hstate (hfon.trans hon) (hforced.trans hf) (by rw [hcount, hactive]; exact hle)] at hay
  have hyl := hay.link (by rw [Terminal.toDark_state]; unfold LinkState.waits; decide)
  rw [hyl]
  exact ⟨rfl, Terminal.toDark_cause _ _⟩

end

theorem Terminal.FrameTaken.admitWaits (hst : x.link.state = .admitting) (hs : x.adm.sent = none) (hlt : x.adm.wait + 1 < limit) :
    y.link.state = .admitting ∧ y.adm.wait = x.adm.wait + 1 := by
  have hw : ¬ x.link.state.waits := by rw [hst]; unfold LinkState.waits; decide
  obtain ⟨a, hxa, ha, hay⟩ := h.through hw
  obtain ⟨hwait, hsent⟩ := hxa.adm hw
  obtain ⟨-, hadm, -⟩ := a.outageTaken_timers
  have hstate := a.outageTaken_state.trans (ha.trans hst)
  rw [Terminal.supervised_admitting limit f (ha.trans hst),
    Terminal.admitTaken_waits limit f hstate (by rw [hadm, hsent, hs]) (by rw [hadm, hwait]; exact hlt)] at hay
  have hnw : ¬ ({ a.outageTaken with adm := { a.outageTaken.adm with wait := a.outageTaken.adm.wait + 1 } } :
      Terminal).link.state.waits := by
    rw [show ({ a.outageTaken with adm := _ } : Terminal).link.state = .admitting from hstate]
    unfold LinkState.waits
    decide
  refine ⟨(hay.state hnw).trans hstate, (hay.adm hnw).1.trans ?_⟩
  rw [hadm, hwait]

end

end

/-! ### The blocks in turn -/

/-- Every record coasts. -/
def Sector.Coasts (s u : Sector) : Prop := ∀ t, (s.term t).Coasts (u.term t)

theorem Sector.cspFrame_coasts {s : Sector} (c : CarrierNo) (f : FrameNo) (hs : s.allScheduled) : s.Coasts (s.cspFrame c f) :=
  fun t => .of_steps ((Sector.cspFrame_stepped (q := True) c f fun _ => hs).term t)

theorem State.frameBlock_csp (c : CarrierNo) (f : FrameNo) (s : State) : (s.frameBlock c f .csp).sector = s.sector.cspFrame c f := by
  unfold State.frameBlock
  exact State.event_sector _ _

/-- A block but the supervisor's keeps the schedules right and every record coasts through it. -/
theorem State.frameBlock_coasts (c : CarrierNo) (f : FrameNo) {s : State} (hs : s.sector.allScheduled) {b : Block} (hb : b ≠ .lsv) :
    s.sector.Coasts (s.frameBlock c f b).sector ∧ (s.frameBlock c f b).sector.allScheduled := by
  cases b with
  | csp =>
    rw [State.frameBlock_csp]
    exact ⟨Sector.cspFrame_coasts c f hs, (Sector.cspFrame_lawful _ c f).scheduled hs⟩
  | lsv => exact absurd rfl hb
  | rng =>
    refine ⟨fun t => ((State.frameBlock_quiet c f s (by decide) (by decide)).term t).coasts, ?_⟩
    unfold State.frameBlock
    rw [State.event_sector]
    exact (Sector.rngFrame_calm _ c).lawful.scheduled hs
  | pld =>
    refine ⟨fun t => ((State.frameBlock_quiet c f s (by decide) (by decide)).term t).coasts, ?_⟩
    unfold State.frameBlock
    rw [State.event_sector]
    exact (Sector.pldFrame_calm _ c f).lawful.scheduled hs
  | hfs =>
    refine ⟨fun t => ((State.frameBlock_quiet c f s (by decide) (by decide)).term t).coasts, ?_⟩
    unfold State.frameBlock
    rw [State.event_sector]
    exact (Sector.hfsFrame_calm _ c).lawful.scheduled hs

theorem State.frameBlock_settings (c : CarrierNo) (f : FrameNo) (s : State) (b : Block) (d : CarrierNo) :
    ((s.frameBlock c f b).sector.car d).cfg = (s.sector.car d).cfg := by
  by_cases hb : b = .csp
  · rw [hb, State.frameBlock_csp]
    exact (Sector.cspFrame_moved _ c f).settings d
  · exact (State.frameBlock_keeps c f s hb).settings d

theorem frameBlocks_coast (c : CarrierNo) (f : FrameNo) (l : List Block) (h : Block.lsv ∉ l) {s : State} (hs : s.sector.allScheduled) :
    let u := l.foldl (State.frameBlock c f) s
    s.sector.Coasts u.sector ∧ u.sector.allScheduled ∧ ∀ d, (u.sector.car d).cfg = (s.sector.car d).cfg := by
  induction l generalizing s with
  | nil => exact ⟨fun _ => .refl _, hs, fun _ => rfl⟩
  | cons b l ih =>
    rw [List.mem_cons, not_or] at h
    obtain ⟨hcoasts, hsched⟩ := State.frameBlock_coasts c f hs fun e => h.1 e.symm
    obtain ⟨ihc, ihs, ihk⟩ := ih h.2 hsched
    exact ⟨fun t => (hcoasts t).trans (ihc t), ihs, fun d => (ihk d).trans (State.frameBlock_settings c f s b d)⟩

/-- A block's place in the order, each standing once. -/
theorem blockOrder_split (named : List Block) (x : Block) : ∃ a b, blockOrder named = a ++ x :: b ∧ x ∉ a ∧ x ∉ b := by
  obtain ⟨a, b, hab⟩ := List.append_of_mem (mem_blockOrder named x)
  have hn := nodup_blockOrder named
  rw [hab] at hn
  obtain ⟨-, hb, hd⟩ := List.nodup_append.1 hn
  exact ⟨a, b, hab, fun h => hd _ h _ (List.mem_cons_self ..) rfl, (List.nodup_cons.1 hb).1⟩

/-- A frame start of its carrier at a terminal, where the schedules are right. -/
theorem State.frameStart_taken (c : CarrierNo) (f : FrameNo) (order : List Block) {s : State} {t : TermNo} (hs : s.sector.allScheduled)
    (hb : s.sector.bound c t = true) :
    Terminal.FrameTaken (s.sector.car c).cfg.admitWaitLimit f (s.sector.term t) ((s.frameStart c f order).sector.term t) := by
  obtain ⟨a, b, hab, ha, hb'⟩ := blockOrder_split order .lsv
  unfold State.frameStart
  rw [hab, List.foldl_append, List.foldl_cons]
  obtain ⟨hbefore, hsched, hcfg⟩ := frameBlocks_coast c f a ha hs
  generalize a.foldl (State.frameBlock c f) s = x at hbefore hsched hcfg ⊢
  have hruled := State.lsvBlock_ruled c f x
  have hmem : t ∈ x.sector.boundTo c := by
    rw [Sector.boundTo_congr fun v => (hbefore v).cfg]
    exact Sector.mem_boundTo_iff.2 hb
  have hlaw : (x.frameBlock c f .lsv).sector.allScheduled := by
    unfold State.frameBlock
    rw [State.foldl_event_sector (fun t x => x.lsvFrame f t)]
    exact (Sector.Lawful.foldl (fun y v => Sector.lsvFrame_lawful y f v) _ _).scheduled hsched
  have hafter := (frameBlocks_coast c f b hb' hlaw).1 t
  rw [hruled.term, if_pos hmem, hcfg] at hafter
  exact ⟨_, hbefore t, hafter⟩

/-- Settles O35: the supervisor's counts between the other blocks, which leave what it counts. -/
theorem supervisorCountsFrames : Obligations.SupervisorCountsFrames := by
  intro c f order t s hs hb x
  have h := State.frameStart_taken c f order hs hb
  have hc : x.cfg.carrier = c := Sector.carrier_of_mem_boundTo (Sector.mem_boundTo_iff.2 hb)
  refine ⟨_, rfl, h.outage, h.dark, h.idle, h.guardRuns, h.guardEnds, h.fadeRuns, h.fadeEnds, fun hst hsent hlt => ?_⟩
  rw [hc] at hlt
  exact h.admitWaits hst hsent hlt

end Sys2Proof.Machine
end

section
/-! SUPPORT. The calendar over a frame start (R76 to R78): the window, and what a fill may set: O36. -/

namespace Sys2Proof.Machine

/-! ### The window (R77) -/

theorem FrameNo.inWindow_iff {f u : FrameNo} : (∃ i < 16, u = f + BitVec.ofNat 16 i) ↔ (u - f).toNat ≤ 15 := by
  constructor
  · rintro ⟨i, hi, rfl⟩
    bv_omega
  · intro h
    exact ⟨(u - f).toNat, by omega, by bv_omega⟩

theorem find?_frame_map {l : List Row} {g : Row → Row} (hg : ∀ b ∈ l, (g b).frame = b.frame) (u : FrameNo) :
    (l.map g).find? (fun r => decide (r.frame = u)) = (l.find? fun b => decide (b.frame = u)).map g := by
  induction l with
  | nil => rfl
  | cons b l ih =>
    rw [List.map_cons, List.find?_cons, List.find?_cons, hg b List.mem_cons_self]
    split
    · rfl
    · exact ih fun x hx => hg x (List.mem_cons_of_mem _ hx)

/-- A row of the window is the row the calendar had of its frame, or an empty one (R77). -/
theorem Carrier.row?_moveTo (k : Carrier) (f u : FrameNo) : (k.moveTo f).row? u =
    if (u - f).toNat ≤ 15 then some ((k.row? u).getD { frame := u, filled := false, cells := [] }) else none := by
  have hframe (b : Row) : ((k.row? b.frame).getD b).frame = b.frame := by
    cases h : k.row? b.frame with
    | none => rfl
    | some r => exact Carrier.frame_of_row? h
  have hfind : (k.moveTo f).row? u =
      ((emptyCalendar f).find? fun b => decide (b.frame = u)).map fun b => (k.row? b.frame).getD b :=
    find?_frame_map (fun b _ => hframe b) u
  rw [hfind]
  split
  · next hin =>
    obtain ⟨i, hi, rfl⟩ := FrameNo.inWindow_iff.2 hin
    cases hf : (emptyCalendar f).find? fun b => decide (b.frame = f + BitVec.ofNat 16 i) with
    | none =>
      rw [List.find?_eq_none] at hf
      have hmem : ({ frame := f + BitVec.ofNat 16 i, filled := false, cells := [] } : Row) ∈ emptyCalendar f :=
        List.mem_map.2 ⟨i, List.mem_range.2 hi, rfl⟩
      exact absurd (decide_eq_true rfl) (hf _ hmem)
    | some b =>
      obtain ⟨m, -, rfl⟩ := List.mem_map.1 (List.mem_of_find?_eq_some hf)
      have hb : f + BitVec.ofNat 16 m = f + BitVec.ofNat 16 i := by simpa only [decide_eq_true_eq] using List.find?_some hf
      rw [Option.map_some, hb]
  · next hout =>
    rw [Option.map_eq_none_iff, List.find?_eq_none]
    intro b hb he
    obtain ⟨i, hi, rfl⟩ := List.mem_map.1 hb
    exact hout (FrameNo.inWindow_iff.1 ⟨i, List.mem_range.1 hi, (of_decide_eq_true he).symm⟩)

theorem Row.cell_blank (u : FrameNo) (b : Bool) (z : SlotNo) : ({ frame := u, filled := b, cells := [] } : Row).cell z = .empty := rfl

theorem Carrier.cell_moveTo (k : Carrier) (f w : FrameNo) (z : SlotNo) :
    (k.moveTo f).cell w z = if (w - f).toNat ≤ 15 then k.cell w z else .empty := by
  have hrow := k.row?_moveTo f w
  unfold Carrier.cell
  by_cases hin : (w - f).toNat ≤ 15
  · rw [if_pos hin] at hrow ⊢
    rw [hrow]
    cases k.row? w with
    | none => exact Row.cell_blank w false z
    | some r => rfl
  · rw [if_neg hin] at hrow ⊢
    rw [hrow]

/-! ### Cells and marks -/

theorem Carrier.row?_markFilled (k : Carrier) (u w : FrameNo) :
    (k.markFilled u).row? w = (k.row? w).map fun r => if r.frame = u then { r with filled := true } else r := by
  refine find?_frame_map (fun b _ => ?_) w
  split <;> rfl

theorem Carrier.cell_markFilled (k : Carrier) (u w : FrameNo) (z : SlotNo) : (k.markFilled u).cell w z = k.cell w z := by
  unfold Carrier.cell
  rw [Carrier.row?_markFilled]
  cases k.row? w with
  | none => rfl
  | some r =>
    rw [Option.map_some]
    dsimp only
    split <;> rfl

/-! ### What a fill may set (R78) -/

/-- How many slots of row `r` are empty in `k` and bear a cell of kind `p` in `j`. -/
def Carrier.newCells (p : Cell → Bool) (r : FrameNo) (k j : Carrier) : Nat :=
  (List.finRange 32).countP fun z => p (j.cell r z) && decide (k.cell r z = .empty)

/-- From `k` to `j` at most `g` grants and `o` offers came to stand, all in row `r`, in slots that were empty and are not OPEN. -/
structure Carrier.FilledBy (r : FrameNo) (k j : Carrier) (g o : Nat) : Prop where
  cfg : j.cfg = k.cfg
  state : j.state = k.state
  slots : j.slots = k.slots
  cells : ∀ w z, j.cell w z ≠ k.cell w z → w = r ∧ (k.row? r).isSome = true ∧ k.cell w z = .empty ∧ k.slotUse z ≠ .opened
  rows : (j.row? r).isSome = (k.row? r).isSome
  grants : k.newCells Cell.isGrant r j ≤ g
  offers : k.newCells (fun z => decide (z = .offered)) r j ≤ o

theorem countP_le_of_imp_ne {α : Type} {l : List α} (hl : l.Nodup) {p q : α → Bool} (y : α)
    (h : ∀ z, z ≠ y → q z = true → p z = true) : l.countP q ≤ l.countP p + 1 := by
  induction l with
  | nil => exact Nat.zero_le _
  | cons x l ih =>
    obtain ⟨hx, hl⟩ := List.nodup_cons.1 hl
    by_cases hxy : x = y
    · have hle : l.countP q ≤ l.countP p := List.countP_mono_left fun z hz => h z fun e => hx (hxy ▸ e ▸ hz)
      rw [List.countP_cons, List.countP_cons]
      split <;> omega
    · have := ih hl
      rw [List.countP_cons, List.countP_cons]
      by_cases hq : q x = true
      · rw [if_pos hq, if_pos (h x hxy hq)]; omega
      · rw [if_neg hq]; omega

section
variable {r : FrameNo} {k j i : Carrier} {g o : Nat}

theorem Carrier.newCells_self {p : Cell → Bool} (hp : p .empty = false) : k.newCells p r k = 0 := by
  unfold Carrier.newCells
  rw [List.countP_eq_zero]
  intro z _ h
  rw [Bool.and_eq_true, decide_eq_true_eq] at h
  obtain ⟨h₁, h₂⟩ := h
  rw [h₂, hp] at h₁
  cases h₁

theorem Carrier.FilledBy.rfl' (r : FrameNo) (k : Carrier) : k.FilledBy r k 0 0 where
  cfg := rfl
  state := rfl
  slots := rfl
  cells _ _ h := absurd rfl h
  rows := rfl
  grants := (Carrier.newCells_self rfl).le
  offers := (Carrier.newCells_self rfl).le

/-- A change that leaves calendar, slots, settings and state. -/
theorem Carrier.FilledBy.congr (h : k.FilledBy r j g o) (hc : i.cfg = j.cfg) (hst : i.state = j.state) (hsl : i.slots = j.slots)
    (hcal : i.calendar = j.calendar) : k.FilledBy r i g o := by
  have hcell := Carrier.cell_congr hcal
  exact
    { cfg := hc.trans h.cfg
      state := hst.trans h.state
      slots := hsl.trans h.slots
      cells := fun w z hne => h.cells w z (hcell w z ▸ hne)
      rows := by rw [← h.rows]; unfold Carrier.row?; rw [hcal]
      grants := by
        have hg := h.grants
        unfold Carrier.newCells at hg ⊢
        simpa only [hcell] using hg
      offers := by
        have ho := h.offers
        unfold Carrier.newCells at ho ⊢
        simpa only [hcell] using ho }

theorem Carrier.mem_available {z : SlotNo} (h : z ∈ j.available r) : j.slotUse z ≠ .opened ∧ j.cell r z = .empty := by
  unfold Carrier.available at h
  simp only [List.mem_append, List.mem_filter, Bool.and_eq_true, decide_eq_true_eq] at h
  obtain ⟨-, hu, hc⟩ | ⟨-, hu, hc⟩ := h
  · exact ⟨by rw [hu]; decide, hc⟩
  · refine ⟨fun ho => ?_, hc⟩
    rw [ho] at hu
    cases hu

theorem Carrier.available_nodup (j : Carrier) (r : FrameNo) : (j.available r).Nodup := by
  unfold Carrier.available
  refine List.nodup_append.2 ⟨(List.nodup_finRange 32).filter _, (List.nodup_finRange 32).filter _, ?_⟩
  rintro x hx y hy rfl
  simp only [List.mem_filter, Bool.and_eq_true, decide_eq_true_eq] at hx hy
  obtain ⟨-, hr, -⟩ := hx
  obtain ⟨-, hl, -⟩ := hy
  rw [hr] at hl
  cases hl

theorem Carrier.newCells_set_le (p : Cell → Bool) (y : SlotNo) (x : Cell) :
    k.newCells p r (j.setCell r y x) ≤ k.newCells p r j + 1 := by
  refine countP_le_of_imp_ne (List.nodup_finRange 32) y fun z hz => ?_
  rw [Carrier.cell_setCell, if_neg fun hs => hz hs.2.1]
  exact id

theorem Carrier.newCells_set_other {p : Cell → Bool} {x : Cell} (y : SlotNo) (hp : p x = false) :
    k.newCells p r (j.setCell r y x) ≤ k.newCells p r j := by
  refine List.countP_mono_left fun z _ => ?_
  rw [Carrier.cell_setCell]
  split
  · rw [hp]
    exact fun hf => absurd hf Bool.false_ne_true
  · exact id

section
variable (h : k.FilledBy r j g o) {y : SlotNo} (hy : j.slotUse y ≠ .opened) (he : j.cell r y = .empty) (x : Cell)
include h hy he

/-- A cell set in an empty slot of the row that is not OPEN, its kind apart. -/
theorem Carrier.FilledBy.set_cells (w : FrameNo) (z : SlotNo) (hne : (j.setCell r y x).cell w z ≠ k.cell w z) :
    w = r ∧ (k.row? r).isSome = true ∧ k.cell w z = .empty ∧ k.slotUse z ≠ .opened := by
  rw [Carrier.cell_setCell] at hne
  split at hne
  · next hset =>
    obtain ⟨rfl, rfl, hrow⟩ := hset
    refine ⟨rfl, h.rows ▸ hrow, ?_, ?_⟩
    · by_contra hk
      exact hk (h.cells w z (by rw [he]; exact Ne.symm hk)).2.2.1
    · unfold Carrier.slotUse at hy ⊢
      rw [← h.slots]
      exact hy
  · exact h.cells w z hne

theorem Carrier.FilledBy.grant (t : TermNo) (n : Nat) : k.FilledBy r (j.setCell r y (.granted t n)) (g + 1) o where
  cfg := h.cfg
  state := h.state
  slots := h.slots
  cells := h.set_cells hy he _
  rows := by rw [Carrier.row?_setCell, Option.isSome_map, h.rows]
  grants := (Carrier.newCells_set_le _ y _).trans (Nat.add_le_add_right h.grants 1)
  offers := (Carrier.newCells_set_other y rfl).trans h.offers

theorem Carrier.FilledBy.offer : k.FilledBy r (j.setCell r y .offered) g (o + 1) where
  cfg := h.cfg
  state := h.state
  slots := h.slots
  cells := h.set_cells hy he _
  rows := by rw [Carrier.row?_setCell, Option.isSome_map, h.rows]
  grants := (Carrier.newCells_set_other y rfl).trans h.grants
  offers := (Carrier.newCells_set_le _ y _).trans (Nat.add_le_add_right h.offers 1)

end

theorem Carrier.FilledBy.mono {g' o' : Nat} (h : k.FilledBy r j g o) (hg : g ≤ g') (ho : o ≤ o') : k.FilledBy r j g' o' :=
  ⟨h.cfg, h.state, h.slots, h.cells, h.rows, h.grants.trans hg, h.offers.trans ho⟩

/-- Offers in distinct slots that are empty and not OPEN. -/
theorem Carrier.FilledBy.offers_in (h : k.FilledBy r j g o) {l : List SlotNo} (hl : l.Nodup)
    (hav : ∀ z ∈ l, j.slotUse z ≠ .opened ∧ j.cell r z = .empty) :
    k.FilledBy r (l.foldl (fun x slot => x.setCell r slot .offered) j) g (o + l.length) := by
  induction l generalizing j o with
  | nil => exact h
  | cons y l ih =>
    obtain ⟨hyl, hl⟩ := List.nodup_cons.1 hl
    obtain ⟨hy, he⟩ := hav y List.mem_cons_self
    rw [List.foldl_cons, List.length_cons, Nat.add_comm l.length 1, ← Nat.add_assoc]
    refine ih (h.offer hy he) hl fun z hz => ?_
    obtain ⟨hz', hze⟩ := hav z (List.mem_cons_of_mem _ hz)
    refine ⟨hz', ?_⟩
    rw [Carrier.cell_setCell, if_neg fun ⟨_, hzy, _⟩ => hyl (hzy ▸ hz)]
    exact hze

end

/-! ### One grant (R96, R97) -/

/-- The carrier that grants attempt `n` of `t` a slot (R97). -/
def Carrier.grants (r : FrameNo) (z : SlotNo) (t : TermNo) (n : Nat) (k : Carrier) : Carrier :=
  { k.setCell r z (.granted t n) with resCtr := { k.resCtr with grantsPlaced := k.resCtr.grantsPlaced + 1 } }

/-- The carrier whose queue head is taken into the ranging set (R96, R99). -/
def Carrier.takesHead (t : TermNo) (warm : Bool) (k : Carrier) : Carrier :=
  { k with
    res := { k.res with queue := k.res.queue.tail, ranging := insertNo t k.res.ranging }
    resCtr := { k.resCtr with terminalsTaken := k.resCtr.terminalsTaken + 1 }
    rng := if warm then { k.rng with warmExchanges := k.rng.warmExchanges + 1 }
      else { k.rng with coldExchanges := k.rng.coldExchanges + 1 } }

section
variable {s a : Sector} {t : TermNo} {c : CarrierNo} {r : Terminal} {k : Carrier} {p : PldCounters} {e : EventSets}
  (h : s.Turned t c r k p e a)
include h

theorem Sector.Turned.grantTo (u : FrameNo) (z : SlotNo) :
    s.Turned t c (r.grantedTo { frame := u, slot := z }) (k.grants u z t (r.range.attempts + 1)) p e (a.grantTo c u t z) := by
  unfold Sector.grantTo
  dsimp only
  rw [h.term]
  exact ((h.modCar fun k => k.setCell u z (.granted t (r.range.attempts + 1))).modTerm fun x =>
    { x with range := { x.range with attempts := r.range.attempts + 1, grant := some { frame := u, slot := z } }
             owed := { x.owed with grant := some { frame := u, slot := z } } }).modCar
    fun k => { k with resCtr := { k.resCtr with grantsPlaced := k.resCtr.grantsPlaced + 1 } }

theorem Sector.Turned.noted (before : Sector) : s.Turned t c r k p
    (if (before.term t).link.state = r.link.state then e else { e with stateChange := insertNo t e.stateChange })
    (Sector.noteStateChange before a t) := by
  by_cases hne : (before.term t).link.state = r.link.state
  · unfold Sector.noteStateChange
    rw [h.term, if_pos hne, if_pos hne]
    exact h
  · rw [if_neg hne]
    exact h.moved hne

theorem Sector.Turned.takeHead (u : FrameNo) (z : SlotNo) :
    s.Turned t c ((r.headTaken r.warmChoice).grantedTo { frame := u, slot := z })
      ((k.takesHead t r.warmChoice).grants u z t 1) p
      (if r.link.state = .trimming then e else { e with stateChange := insertNo t e.stateChange }) (a.takeHead c u t z) := by
  have hmoved := (((h.modCar fun k =>
    { k with res := { k.res with queue := k.res.queue.tail, ranging := insertNo t k.res.ranging } }).modCar fun k =>
      { k with resCtr := { k.resCtr with terminalsTaken := k.resCtr.terminalsTaken + 1 } }).modTerm
      (Terminal.headTaken r.warmChoice)).modCar fun k =>
        { k with rng := if r.warmChoice then { k.rng with warmExchanges := k.rng.warmExchanges + 1 }
          else { k.rng with coldExchanges := k.rng.coldExchanges + 1 } }
  have hnoted := (hmoved.noted a).grantTo u z
  unfold Sector.takeHead
  dsimp only
  rw [h.term] at hnoted ⊢
  exact hnoted

end

/-! ### The arbiter and the offers (R78, R94 to R97) -/

section
variable {c : CarrierNo} {r : FrameNo} {k : Carrier} {g : Nat} {s : Sector}

theorem Sector.grantTo_filled (h : k.FilledBy r (s.car c) g 0) (t : TermNo) {z : SlotNo} (hz : z ∈ (s.car c).available r) :
    k.FilledBy r ((s.grantTo c r t z).car c) (g + 1) 0 := by
  obtain ⟨hu, he⟩ := Carrier.mem_available hz
  rw [((Sector.Turned.rfl' s t c).grantTo r z).car]
  exact (h.grant hu he t _).congr rfl rfl rfl rfl

theorem grantMember_filled (a : Sector × Nat) (t : TermNo) (h : k.FilledBy r (a.1.car c) g 0) :
    ∃ n, n + (grantMember c r a t).2 ≤ g + a.2 ∧ k.FilledBy r ((grantMember c r a t).1.car c) n 0 := by
  unfold grantMember
  split
  · exact ⟨g, le_rfl, h⟩
  · next hpace =>
    split
    · split
      · exact ⟨g, le_rfl, h⟩
      · next slot hslot =>
        refine ⟨g + 1, by dsimp only; omega, ?_⟩
        dsimp only
        rw [Sector.modRes_def, Sector.car_modCar_self]
        exact (Sector.grantTo_filled h t (List.mem_of_mem_head? hslot)).congr rfl rfl rfl rfl
    · exact ⟨g, le_rfl, h⟩

theorem grantMembers_filled (l : List TermNo) (a : Sector × Nat) (h : k.FilledBy r (a.1.car c) g 0) :
    ∃ n, n + (l.foldl (grantMember c r) a).2 ≤ g + a.2 ∧ k.FilledBy r ((l.foldl (grantMember c r) a).1.car c) n 0 := by
  induction l generalizing a g with
  | nil => exact ⟨g, le_rfl, h⟩
  | cons t l ih =>
    obtain ⟨n, hn, hfilled⟩ := grantMember_filled a t h
    obtain ⟨m, hm, hlast⟩ := ih _ hfilled
    exact ⟨m, hm.trans hn, hlast⟩

theorem Sector.takeHeads_filled (pace : Nat) (h : k.FilledBy r (s.car c) g 0) :
    k.FilledBy r ((Sector.takeHeads c r pace s).car c) (g + pace) 0 := by
  induction pace generalizing s g with
  | zero => exact h
  | succ pace ih =>
    unfold Sector.takeHeads
    split
    · next e l slot _ hslot =>
      split
      · obtain ⟨hu, he⟩ := Carrier.mem_available (List.mem_of_mem_head? hslot)
        have hcar := ((Sector.Turned.rfl' s e.terminal c).takeHead r slot).car
        refine (ih (g := g + 1) ?_).mono (by omega) le_rfl
        rw [hcar]
        exact (h.grant hu he e.terminal 1).congr rfl rfl rfl rfl
      · exact h.mono (by omega) le_rfl
    · exact h.mono (by omega) le_rfl
    · exact h.mono (by omega) le_rfl

theorem Carrier.FilledBy.marked {j : Carrier} {o : Nat} (h : k.FilledBy r j g o) : k.FilledBy r (j.markFilled r) g o where
  cfg := h.cfg
  state := h.state
  slots := h.slots
  cells w z hne := h.cells w z (j.cell_markFilled r w z ▸ hne)
  rows := by rw [Carrier.row?_markFilled, Option.isSome_map, h.rows]
  grants := by
    have hg := h.grants
    unfold Carrier.newCells at hg ⊢
    simpa only [Carrier.cell_markFilled] using hg
  offers := by
    have ho := h.offers
    unfold Carrier.newCells at ho ⊢
    simpa only [Carrier.cell_markFilled] using ho

/-- The fill of a row (R78). -/
theorem Sector.fillRow_filled (s : Sector) (c : CarrierNo) (r : FrameNo) :
    (s.car c).FilledBy r ((s.fillRow c r).car c) (s.car c).pace (s.car c).offers := by
  unfold Sector.fillRow Sector.grantArbiter
  dsimp only
  obtain ⟨n, hn, hmembers⟩ := grantMembers_filled (c := c) (r := r) (rotated (s.car c).res.rotation (s.car c).res.ranging)
    (s, (s.car c).pace) (.rfl' r (s.car c))
  rw [Nat.zero_add] at hn
  have hgranted := (Sector.takeHeads_filled _ hmembers).mono hn le_rfl
  rw [Sector.car_modCar_self]
  refine Carrier.FilledBy.marked ?_
  unfold Sector.grantMembers
  generalize (Sector.takeHeads c r _ _).car c = j at hgranted ⊢
  refine (hgranted.offers_in ((j.available_nodup r).sublist (List.take_sublist _ _)) fun z hz =>
    Carrier.mem_available (List.mem_of_mem_take hz)).mono le_rfl ?_
  rw [Nat.zero_add, List.length_take]
  exact Nat.min_le_left _ _

/-- The fill of a frame start (R69, R78). -/
theorem Sector.fillAt_filled (s : Sector) (c : CarrierNo) (f : FrameNo) :
    (s.car c).FilledBy (f + BitVec.ofNat 16 (s.car c).cfg.grantLead) ((s.fillAt c f).car c) (s.car c).pace (s.car c).offers := by
  have hsame := (Carrier.FilledBy.rfl' (f + BitVec.ofNat 16 (s.car c).cfg.grantLead) (s.car c)).mono
    (Nat.zero_le (s.car c).pace) (Nat.zero_le (s.car c).offers)
  unfold Sector.fillAt
  dsimp only
  split
  · split
    · split
      · exact hsame
      · exact s.fillRow_filled c _
    · exact hsame
  · exact hsame

end

end Sys2Proof.Machine
end

section
/-! SUPPORT. A frame start sets cells only in the row it fills (R76 to R78): O36. -/

namespace Sys2Proof.Machine

/-! ### Calendars and OPEN slots left as they are -/

/-- The calendars are the same, and the same slots are OPEN. -/
def Sector.Plotted (s u : Sector) : Prop :=
  ∀ d, (u.car d).calendar = (s.car d).calendar ∧ ∀ z, (u.car d).slotUse z = .opened ↔ (s.car d).slotUse z = .opened

section
variable {s a u : Sector}

theorem Sector.Plotted.rfl' (s : Sector) : s.Plotted s := fun _ => ⟨rfl, fun _ => .rfl⟩

theorem Sector.Plotted.trans (h : s.Plotted a) (g : a.Plotted u) : s.Plotted u := fun d =>
  ⟨(g d).1.trans (h d).1, fun z => ((g d).2 z).trans ((h d).2 z)⟩

theorem Sector.Plotted.foldl {α : Type} {f : Sector → α → Sector} (h : ∀ (x : Sector) (i : α), x.Plotted (f x i)) (l : List α)
    (s : Sector) : s.Plotted (l.foldl f s) := by
  induction l generalizing s with
  | nil => exact .rfl' s
  | cons i l ih => exact (h s i).trans (ih _)

theorem Sector.Plotted.ite {p : Prop} [Decidable p] (ha : s.Plotted a) (hb : s.Plotted u) : s.Plotted (if p then a else u) := by
  split
  · exact ha
  · exact hb

/-- A change of one carrier that leaves its calendar and its slots. -/
theorem Sector.Plotted.modCar (s : Sector) (c : CarrierNo) (f : Carrier → Carrier) (hcal : (f (s.car c)).calendar = (s.car c).calendar)
    (hsl : (f (s.car c)).slots = (s.car c).slots) : s.Plotted (s.modCar c f) := by
  intro d
  rw [Sector.car_modCar]
  split
  · next hd =>
    subst hd
    unfold Carrier.slotUse
    rw [hsl]
    exact ⟨hcal, fun _ => .rfl⟩
  · exact ⟨rfl, fun _ => .rfl⟩

theorem Sector.Plotted.andCar {c : CarrierNo} {f : Carrier → Carrier} (h : s.Plotted a) (hcal : (f (a.car c)).calendar = (a.car c).calendar)
    (hsl : (f (a.car c)).slots = (a.car c).slots) : s.Plotted (a.modCar c f) := h.trans (.modCar a c f hcal hsl)

theorem Sector.Plotted.note (h : s.Plotted a) (f : EventSets → EventSets) : s.Plotted (a.note f) := h

/-- Carriers left alone. -/
theorem Sector.Plotted.of_cars (h : u.cars = s.cars) : s.Plotted u := by
  intro d
  rw [show u.car d = s.car d from congrArg (fun x => x[d]) h]
  exact ⟨rfl, fun _ => .rfl⟩

theorem Sector.Turned.plotted {t : TermNo} {c : CarrierNo} {r : Terminal} {k : Carrier} {p : PldCounters} {e : EventSets}
    (h : s.Turned t c r k p e u) (hcal : k.calendar = (s.car c).calendar)
    (ho : ∀ z, k.slotUse z = .opened ↔ (s.car c).slotUse z = .opened) : s.Plotted u := by
  intro d
  by_cases hd : d = c
  · rw [hd, h.car]
    exact ⟨hcal, ho⟩
  · rw [h.onlyCar d hd]
    exact ⟨rfl, fun _ => .rfl⟩

theorem Sector.Quiet.plotted (h : s.Quiet u) : s.Plotted u := by
  intro d
  have hcal := congrArg Carrier.calendar (h.frame d)
  have hsl := congrArg Carrier.slots (h.frame d)
  unfold Carrier.slotUse
  exact ⟨hcal, fun z => by rw [show (u.car d).slots = (s.car d).slots from hsl]⟩

theorem Sector.RuledAll.plotted {c : CarrierNo} {f : FrameNo} {l : List TermNo} (h : s.RuledAll c f l u) : s.Plotted u := by
  intro d
  have hcal := congrArg Carrier.calendar (h.frame d)
  exact ⟨hcal, h.opened d⟩

end

/-- Every block but the CSP's leaves calendars and OPEN slots, and the state of the carriers. -/
theorem State.frameBlock_plotted (c : CarrierNo) (f : FrameNo) (s : State) {b : Block} (hb : b ≠ .csp) :
    s.sector.Plotted (s.frameBlock c f b).sector ∧
      ∀ d, ((s.frameBlock c f b).sector.car d).state = (s.sector.car d).state := by
  by_cases hl : b = .lsv
  · subst hl
    have h := State.lsvBlock_ruled c f s
    exact ⟨h.plotted, fun d => by have hd := congrArg Carrier.state (h.frame d); exact hd⟩
  · have h := State.frameBlock_quiet c f s hb hl
    exact ⟨h.plotted, fun d => by have hd := congrArg Carrier.state (h.frame d); exact hd⟩

theorem frameBlocks_plotted (c : CarrierNo) (f : FrameNo) (l : List Block) (h : Block.csp ∉ l) (s : State) :
    let u := l.foldl (State.frameBlock c f) s
    s.sector.Plotted u.sector ∧ ∀ d, (u.sector.car d).state = (s.sector.car d).state := by
  induction l generalizing s with
  | nil => exact ⟨.rfl' _, fun _ => rfl⟩
  | cons b l ih =>
    rw [List.mem_cons, not_or] at h
    obtain ⟨hp, hst⟩ := State.frameBlock_plotted c f s fun e => h.1 e.symm
    obtain ⟨ihp, ihst⟩ := ih h.2 (s.frameBlock c f b)
    exact ⟨hp.trans ihp, fun d => (ihst d).trans (hst d)⟩

/-! ### The CSP up to the fill (R72, R77, R81, R89) -/

section
variable {s : Sector} {t : TermNo} {c : CarrierNo}

theorem Carrier.rangeFailed_plotted (r : Terminal) (k : Carrier) : (k.rangeFailed t r).calendar = k.calendar ∧
    ∀ z, (k.rangeFailed t r).slotUse z = .opened ↔ k.slotUse z = .opened := by
  refine ⟨?_, fun z => ?_⟩
  · have h := Carrier.lentIf_calendar r.link.lendTaken t r.cfg.homeSlots
      ({ k with rng := { k.rng with failures := k.rng.failures + 1 } }.unranged t)
    exact h
  · have h := Carrier.lentIf_opened r.link.lendTaken t r.cfg.homeSlots
      ({ k with rng := { k.rng with failures := k.rng.failures + 1 } }.unranged t) z
    exact h

theorem Sector.rngMiss_plotted (s : Sector) (c : CarrierNo) (u : FrameNo) (slot : SlotNo) (t : TermNo) :
    s.Plotted (s.rngOutcome c u slot t .miss) := by
  by_cases hcur : (s.term t).link.state = .trimming ∧ (s.term t).range.grant = some { frame := u, slot := slot }
  · obtain ⟨hst, hg⟩ := hcur
    cases howed : (s.term t).owed.grant with
    | some g =>
      rw [Sector.rngOutcome_unsent hst hg (by rw [howed]; rfl)]
      exact (Sector.Turned.rfl' s t _).unsentOutcome.plotted rfl fun _ => .rfl
    | none =>
      rw [Sector.rngOutcome_current hst hg howed]
      by_cases hl : (s.car (s.term t).cfg.carrier).cfg.trimLimit ≤ (s.term t).range.attempts
      · obtain ⟨hcal, ho⟩ := Carrier.rangeFailed_plotted (t := t) (s.term t).judged.reportBroken
          (s.car (s.term t).cfg.carrier).missJudged
        exact (Sector.currentMiss_fails hst hl).plotted hcal ho
      · exact (Sector.currentMiss_settles (not_le.1 hl)).plotted rfl fun _ => .rfl
  · rw [Sector.rngOutcome_stale hcur]
    exact (Sector.Turned.rfl' s t c).staleMiss.plotted rfl fun _ => .rfl

theorem Sector.expireCell_plotted (c : CarrierNo) (s : Sector) (x : FrameNo × SlotNo × Cell) : s.Plotted (s.expireCell c x) := by
  unfold Sector.expireCell
  split
  · exact .rfl' s
  · unfold Sector.quietOffer Sector.offerOutcome
    exact .andCar (.andCar (.modCar s c _ rfl rfl) rfl rfl) rfl rfl
  · exact (Sector.Plotted.modCar s c _ rfl rfl).trans (Sector.rngMiss_plotted _ c _ _ _)

theorem Sector.backoff_plotted (s : Sector) (c : CarrierNo) : s.Plotted (s.backoff c) := by
  unfold Sector.backoff
  exact .ite (.ite (.note (.andCar (.modCar s c _ rfl rfl) rfl rfl) _) (.modCar s c _ rfl rfl)) (.rfl' s)

theorem Sector.recoveryFrame_plotted (s : Sector) (c : CarrierNo) : s.Plotted (s.recoveryFrame c) := by
  have hup (a : Sector) : a.Plotted (a.setCarrierState c .up) :=
    .ite (.modCar a c _ rfl rfl) (.note (.modCar a c _ rfl rfl) _)
  unfold Sector.recoveryFrame
  exact .ite (.trans (.modCar s c _ rfl rfl) (.ite (hup _) (.rfl' _))) (.rfl' s)

theorem Sector.reclaimSlot_plotted (c : CarrierNo) (s : Sector) (slot : SlotNo) : s.Plotted (Sector.reclaimSlot c s slot) := by
  by_cases hd : (∃ t, (s.car c).slotUse slot = .lent t true) ∧ ∀ row ∈ (s.car c).calendar, row.cell slot = .empty
  · obtain ⟨⟨t, ht⟩, hc⟩ := hd
    have hturned := (s.turnBack_turned c slot t).plotted rfl fun z => by
      rw [Carrier.slotUse_setSlot]
      split
      · next hz => rw [hz, ht]; exact ⟨nofun, nofun⟩
      · exact .rfl
    rw [Sector.reclaimSlot_due ht hc]
    refine hturned.trans ?_
    by_cases ha : (s.turnBack c slot t).admits t
    · rw [Sector.examineAdmission_admits ha]
      exact .of_cars rfl
    · rw [Sector.examineAdmission_idle ha]
      exact .rfl' _
  · rw [not_and_or, not_exists] at hd
    rw [Sector.reclaimSlot_idle hd]
    exact .rfl' s

/-- The sector as the CSP comes to the fill of frame start `f` (R77). -/
def Sector.beforeFill (s : Sector) (c : CarrierNo) (f : FrameNo) : Sector :=
  allSlots.foldl (Sector.reclaimSlot c) (((s.moveWindow c f).backoff c).recoveryFrame c)

theorem Sector.cspFrame_eq (s : Sector) (c : CarrierNo) (f : FrameNo) : s.cspFrame c f = (s.beforeFill c f).fillAt c f := rfl

theorem Sector.beforeFill_plotted (s : Sector) (c : CarrierNo) (f : FrameNo) :
    (s.modCar c (Carrier.moveTo f)).Plotted (s.beforeFill c f) := by
  have hmoved : (s.modCar c (Carrier.moveTo f)).Plotted (s.moveWindow c f) := .foldl (Sector.expireCell_plotted c) _ _
  exact ((hmoved.trans (Sector.backoff_plotted _ c)).trans (Sector.recoveryFrame_plotted _ c)).trans
    (.foldl (Sector.reclaimSlot_plotted c) _ _)

theorem Sector.beforeFill_settings (s : Sector) (c : CarrierNo) (f : FrameNo) (d : CarrierNo) :
    ((s.beforeFill c f).car d).cfg = (s.car d).cfg := by
  have hmoved : (s.modCar c (Carrier.moveTo f)).Keeps (s.beforeFill c f) :=
    (((Sector.Keeps.foldl _ (Sector.expireCell_keeps c) _ _).trans (Sector.backoff_keeps _ c)).trans
      (Sector.recoveryFrame_keeps _ c)).trans (.foldl _ (Sector.reclaimSlot_keeps c) _ _)
  rw [hmoved.settings, Sector.car_modCar]
  split
  · next h => rw [h]; rfl
  · rfl

end

/-! ### A whole frame start -/

/-- The calendar a frame start leaves is what a fill makes of the moved window. -/
theorem State.frameStart_filled (c : CarrierNo) (f : FrameNo) (order : List Block) (s : State) :
    let j := (s.frameStart c f order).sector.car c
    ∃ k i : Carrier, k.FilledBy (f + BitVec.ofNat 16 (s.sector.car c).cfg.grantLead) i k.pace k.offers ∧
      k.cfg = (s.sector.car c).cfg ∧ k.calendar = (s.sector.car c).windowAt f ∧
      (∀ z, k.slotUse z = .opened ↔ (s.sector.car c).slotUse z = .opened) ∧ j.calendar = i.calendar ∧ j.state = i.state := by
  obtain ⟨a, b, hab, ha, hb⟩ := blockOrder_split order .csp
  unfold State.frameStart
  rw [hab, List.foldl_append, List.foldl_cons]
  obtain ⟨hbefore, -⟩ := frameBlocks_plotted c f a ha s
  have hkeeps := frameBlocks_keeps c f a ha s
  generalize a.foldl (State.frameBlock c f) s = x at hbefore hkeeps ⊢
  obtain ⟨hafter, hstate⟩ := frameBlocks_plotted c f b hb (x.frameBlock c f .csp)
  rw [State.frameBlock_csp, Sector.cspFrame_eq] at hafter hstate
  have hplot := x.sector.beforeFill_plotted c f c
  have hcfg := (x.sector.beforeFill_settings c f c).trans (hkeeps.settings c)
  have hfill := (x.sector.beforeFill c f).fillAt_filled c f
  rw [hcfg] at hfill
  rw [Sector.car_modCar_self] at hplot
  obtain ⟨hcal, hopen⟩ := hplot
  obtain ⟨hcalx, hopenx⟩ := hbefore c
  refine ⟨_, _, hfill, hcfg, ?_, fun z => (hopen z).trans (hopenx z), (hafter c).1, hstate c⟩
  rw [hcal]
  show (x.sector.car c).windowAt f = (s.sector.car c).windowAt f
  unfold Carrier.windowAt Carrier.row?
  rw [hcalx]

section
variable {k i j : Carrier} {x : Carrier} {f : FrameNo} {r : FrameNo} {g o : Nat}

/-- The cells of a moved window. -/
theorem Carrier.cell_windowed (hcal : k.calendar = x.windowAt f) (w : FrameNo) (z : SlotNo) :
    k.cell w z = if (w - f).toNat ≤ 15 then x.cell w z else .empty := by
  rw [← x.cell_moveTo f w z]
  exact Carrier.cell_congr hcal w z

theorem Carrier.newCells_windowed (hcal : k.calendar = x.windowAt f) (hj : j.calendar = i.calendar) (p : Cell → Bool) :
    (List.finRange 32).countP (fun z => p (j.cell r z) && decide (x.cell r z = .empty)) ≤ k.newCells p r i := by
  refine List.countP_mono_left fun z _ hz => ?_
  rw [Bool.and_eq_true, decide_eq_true_eq] at hz ⊢
  obtain ⟨hp, he⟩ := hz
  refine ⟨Carrier.cell_congr hj r z ▸ hp, ?_⟩
  rw [Carrier.cell_windowed hcal, he, ite_self]

end

/-- Settles O36: the CSP's fill alone sets cells, after the window moved. -/
theorem fillKeepsWithinItsLimits : Obligations.FillKeepsWithinItsLimits := by
  intro c f order s k r
  obtain ⟨m, i, hfill, hcfg, hcal, hopen, hjcal, hjst⟩ := s.frameStart_filled c f order
  refine ⟨_, rfl, fun w z hne hk => ?placed, ?offers, ?grants, fun w z hout => ?outside⟩
  case placed =>
    rw [Carrier.cell_congr hjcal] at hne hk
    have hold : i.cell w z ≠ m.cell w z := by
      rw [Carrier.cell_windowed hcal]
      split
      · exact hk
      · exact hne
    obtain ⟨hw, hrow, hempty, hslot⟩ := hfill.cells w z hold
    refine ⟨hw, ?_, fun h => hslot ((hopen z).2 h)⟩
    rw [Carrier.cell_windowed hcal] at hempty
    split at hempty
    · exact hempty
    · next hout =>
      have hnone : m.row? r = none := by
        have hrowm : m.row? r = ((s.sector.car c).moveTo f).row? r := by
          unfold Carrier.row?
          rw [hcal]
          rfl
        rw [hrowm, Carrier.row?_moveTo, if_neg]
        rw [← show w = r from hw]
        exact hout
      have hsome : (m.row? r).isSome = true := hrow
      rw [hnone] at hsome
      cases hsome
  case offers =>
    refine (Carrier.newCells_windowed hcal hjcal fun z => decide (z = .offered)).trans (hfill.offers.trans (le_of_eq ?_))
    unfold Carrier.offers
    rw [hjst, hfill.state, hcfg]
  case grants =>
    refine (Carrier.newCells_windowed hcal hjcal Cell.isGrant).trans (hfill.grants.trans (le_of_eq ?_))
    unfold Carrier.pace
    rw [hjst, hfill.state, hcfg]
  case outside =>
    have hrows := (s.frameStart_moved c f order).window
    unfold Carrier.cell
    split
    · next row hrow =>
      have hmem : row.frame ∈ ((s.frameStart c f order).sector.car c).calendar.map Row.frame :=
        List.mem_map_of_mem (List.mem_of_find?_eq_some hrow)
      rw [hrows, Carrier.frame_of_row? hrow] at hmem
      obtain ⟨n, hn, rfl⟩ := List.mem_map.1 hmem
      exact absurd (FrameNo.inWindow_iff.1 ⟨n, List.mem_range.1 hn, rfl⟩) (not_le.2 hout)
    · rfl

end Sys2Proof.Machine
end

section
/-! SUPPORT. The blocks other than the HFS leave the held queues at a frame start (R148): O7. -/

namespace Sys2Proof.Machine

/-! ### Records whose queue is left -/

/-- Record `y` has the queue of `x` and its counts of releases and age discards; IDLE with an empty queue it stays. -/
structure Terminal.Holds (x y : Terminal) : Prop where
  cfg : y.cfg = x.cfg
  queue : y.hold.queue = x.hold.queue
  released : y.ctr.framesReleased = x.ctr.framesReleased
  aged : y.ctr.discardAge = x.ctr.discardAge
  idle : x.hold.queue = [] → x.hold.release = .idle → y.hold.release = .idle

section
variable {x y z : Terminal}

theorem Terminal.Holds.refl (x : Terminal) : x.Holds x := ⟨rfl, rfl, rfl, rfl, fun _ => id⟩

theorem Terminal.Holds.trans (h : x.Holds y) (g : y.Holds z) : x.Holds z where
  cfg := g.cfg.trans h.cfg
  queue := g.queue.trans h.queue
  released := g.released.trans h.released
  aged := g.aged.trans h.aged
  idle hq hr := g.idle (h.queue.trans hq) (h.idle hq hr)

/-- A change that leaves configuration, queue and counters alone. -/
theorem Terminal.Holds.of_same (hc : y.cfg = x.cfg) (hh : y.hold = x.hold) (hr : y.ctr.framesReleased = x.ctr.framesReleased)
    (ha : y.ctr.discardAge = x.ctr.discardAge) : x.Holds y := ⟨hc, by rw [hh], hr, ha, fun _ h => by rw [hh]; exact h⟩

/-- A move that ends in an IDLE release state. -/
theorem Terminal.Holds.toIdle (hc : y.cfg = x.cfg) (hh : y.hold = x.hold.toIdle) (hr : y.ctr.framesReleased = x.ctr.framesReleased)
    (ha : y.ctr.discardAge = x.ctr.discardAge) : x.Holds y := ⟨hc, by rw [hh]; rfl, hr, ha, fun _ _ => by rw [hh]; rfl⟩

theorem Terminal.reportBroken_holds (r : Terminal) : r.Holds r.reportBroken := by
  unfold Terminal.reportBroken
  split
  · exact .refl r
  · exact .of_same rfl rfl rfl rfl

theorem Terminal.judged_holds (r : Terminal) : r.Holds r.judged.reportBroken := by
  have hjudged : r.Holds r.judged := .of_same rfl rfl rfl rfl
  exact hjudged.trans r.judged.reportBroken_holds

theorem Terminal.FillStep.holds {q : Prop} (h : Terminal.FillStep q x y) : x.Holds y := by
  cases h with
  | reclaims b => exact .of_same rfl rfl rfl rfl
  | admits _ => exact .of_same rfl rfl rfl rfl
  | grants g => exact .of_same rfl rfl rfl rfl
  | takes warm _ => exact .of_same rfl rfl rfl rfl

theorem Terminal.CspStep.holds {q : Prop} (h : Terminal.CspStep q x y) : x.Holds y := by
  cases h with
  | unsent _ => exact .of_same rfl rfl rfl rfl
  | settles n _ => exact x.judged_holds.trans (.of_same rfl rfl rfl rfl)
  | fails _ => exact x.judged_holds.trans (.toIdle rfl rfl rfl rfl)
  | fills _ hstep => exact hstep.holds

theorem Terminal.Holds.of_steps {q : Prop} (h : Relation.ReflTransGen (Terminal.CspStep q) x y) : x.Holds y := by
  induction h with
  | refl => exact .refl x
  | tail _ hstep ih => exact ih.trans hstep.holds

theorem Terminal.outageTaken_holds (r : Terminal) : r.Holds r.outageTaken := by
  obtain ⟨taken, closed, h⟩ := r.outageTaken_eq
  rw [h]
  exact .of_same rfl rfl rfl rfl

theorem Terminal.linked_holds (f : LinkFields → LinkFields) (r : Terminal) : r.Holds (r.linked f) := .of_same rfl rfl rfl rfl

theorem Terminal.fadeTaken_holds (r : Terminal) : r.Holds r.fadeTaken := by
  refine (r.linked_holds LinkFields.fadeTick).trans ?_
  unfold Terminal.fadeTaken Terminal.fadeExpired
  split
  · split
    · exact .of_same rfl rfl rfl rfl
    · exact .toIdle rfl rfl rfl rfl
  · exact .refl _

theorem Terminal.guardTaken_holds (r : Terminal) : r.Holds r.guardTaken := by
  refine (r.linked_holds LinkFields.guardTick).trans ?_
  unfold Terminal.guardTaken Terminal.guardExpired
  split
  · split
    · exact .of_same rfl rfl rfl rfl
    · exact .toIdle rfl rfl rfl rfl
  · exact .refl _

theorem Terminal.toServing_holds (r : Terminal) : r.Holds r.toServing where
  cfg := rfl
  queue := r.hold.startRelease_queue
  released := rfl
  aged := rfl
  idle hq _ := by
    have hidle : r.hold.startRelease = r.hold.toIdle := if_pos (by rw [hq]; rfl)
    exact congrArg HoldFields.release hidle

theorem Terminal.admitTaken_holds (limit : Nat) (f : FrameNo) (r : Terminal) : r.Holds (r.admitTaken limit f) := by
  have htick : r.Holds r.admitTick := by
    unfold Terminal.admitTick
    split
    · exact .of_same rfl rfl rfl rfl
    · exact .refl r
  have hwait (x : Terminal) : x.Holds (x.admitExpired limit) := by
    unfold Terminal.admitExpired
    split
    · split
      · exact .of_same rfl rfl rfl rfl
      · exact .toIdle rfl rfl rfl rfl
    · exact .refl x
  have heffective (x : Terminal) : x.Holds (x.effectiveTaken f) := by
    unfold Terminal.effectiveTaken
    split
    · split
      · exact .of_same rfl rfl rfl rfl
      · refine .trans ?_ (Terminal.toServing_holds _)
        exact .of_same rfl rfl rfl rfl
    · exact .refl x
  exact (htick.trans (hwait _)).trans (heffective _)

theorem Terminal.supervised_holds (limit : Nat) (f : FrameNo) (r : Terminal) : r.Holds (r.supervised limit f) :=
  ((r.outageTaken_holds.trans (Terminal.fadeTaken_holds _)).trans (Terminal.guardTaken_holds _)).trans
    (Terminal.admitTaken_holds limit f _)

theorem Terminal.settleTick_holds (r : Terminal) : r.Holds r.settleTick := by
  unfold Terminal.settleTick Terminal.settleEnd
  split
  · exact .of_same rfl rfl rfl rfl
  · split
    · exact .of_same rfl rfl rfl rfl
    · exact .refl r

end

/-! ### The blocks -/

/-- Every record keeps its queue; release pointers, budgets, HFS counters and what was handed out stay. -/
structure Sector.Holding (s u : Sector) : Prop where
  term : ∀ t, (s.term t).Holds (u.term t)
  pointer : ∀ d, (u.car d).releasePtr = (s.car d).releasePtr
  settings : ∀ d, (u.car d).cfg = (s.car d).cfg
  hfs : u.hfs = s.hfs
  handed : u.mlOut = s.mlOut

section
variable {s a u : Sector}

theorem Sector.Holding.rfl' (s : Sector) : s.Holding s := ⟨fun _ => .refl _, fun _ => rfl, fun _ => rfl, rfl, rfl⟩

theorem Sector.Holding.trans (h : s.Holding a) (g : a.Holding u) : s.Holding u where
  term t := (h.term t).trans (g.term t)
  pointer d := (g.pointer d).trans (h.pointer d)
  settings d := (g.settings d).trans (h.settings d)
  hfs := g.hfs.trans h.hfs
  handed := g.handed.trans h.handed

theorem Sector.Holding.foldl {α : Type} {f : Sector → α → Sector} (h : ∀ (x : Sector) (i : α), x.Holding (f x i)) (l : List α)
    (s : Sector) : s.Holding (l.foldl f s) := by
  induction l generalizing s with
  | nil => exact .rfl' s
  | cons i l ih => exact (h s i).trans (ih _)

theorem Sector.cspFrame_holding (s : Sector) (c : CarrierNo) (f : FrameNo) : s.Holding (s.cspFrame c f) := by
  have h : s.Stepped (Terminal.CspStep False) (s.cspFrame c f) := Sector.cspFrame_stepped c f False.elim
  exact ⟨fun t => .of_steps (h.term t), h.pointer, (Sector.cspFrame_moved s c f).settings, h.hfs, h.handed⟩

theorem Sector.RuledAll.holding {c : CarrierNo} {f : FrameNo} {l : List TermNo} (h : s.RuledAll c f l u) : s.Holding u where
  term t := by
    rw [h.term]
    split
    · exact Terminal.supervised_holds _ _ _
    · exact .refl _
  pointer d := by have hd := congrArg Carrier.releasePtr (h.frame d); exact hd
  settings d := by have hd := congrArg Carrier.cfg (h.frame d); exact hd
  hfs := by obtain ⟨-, -, -, -, -, hhfs, -⟩ := h.rest; exact hhfs
  handed := by obtain ⟨-, -, -, -, -, -, hml⟩ := h.rest; exact hml

theorem Sector.rngFrame_holding (s : Sector) (c : CarrierNo) : s.Holding (s.rngFrame c) := by
  refine .foldl (f := fun x t => x.modTerm t Terminal.settleTick)
    (fun x t => ⟨fun v => ?_, fun _ => rfl, fun _ => rfl, rfl, rfl⟩) _ s
  rw [Sector.term_modTerm]
  split
  · next hv => rw [hv]; exact Terminal.settleTick_holds _
  · exact .refl _

theorem Sector.applyReached_holding (f : FrameNo) (s : Sector) (t : TermNo) : s.Holding (s.applyReached f t) := by
  unfold Sector.applyReached
  split
  · split
    · split
      · have h := s.applyPending_turned t ‹_› 0
        have hcar (d : CarrierNo) : (s.applyPending t ‹_›).car d = s.car d := congrArg (fun x => x[d]) (h.cars rfl)
        refine ⟨fun v => ?_, fun d => by rw [hcar], fun d => by rw [hcar], h.hfs, h.handed⟩
        by_cases hv : v = t
        · rw [hv, h.term]
          refine .of_same rfl rfl ?_ ?_
          · dsimp only
            split <;> rfl
          · dsimp only
            split <;> rfl
        · rw [h.only v hv]
          exact .refl _
      · exact .rfl' s
    · exact .rfl' s
  · exact .rfl' s

/-- Every block but the HFS's. -/
theorem State.frameBlock_holding (c : CarrierNo) (f : FrameNo) (s : State) {b : Block} (hb : b ≠ .hfs) :
    s.sector.Holding (s.frameBlock c f b).sector := by
  cases b with
  | csp => rw [State.frameBlock_csp]; exact Sector.cspFrame_holding _ c f
  | lsv => exact (State.lsvBlock_ruled c f s).holding
  | rng => unfold State.frameBlock; rw [State.event_sector]; exact Sector.rngFrame_holding _ c
  | pld => unfold State.frameBlock; rw [State.event_sector]; exact .foldl (Sector.applyReached_holding f) _ _
  | hfs => exact absurd rfl hb

theorem frameBlocks_holding (c : CarrierNo) (f : FrameNo) (l : List Block) (h : Block.hfs ∉ l) (s : State) :
    s.sector.Holding (l.foldl (State.frameBlock c f) s).sector := by
  induction l generalizing s with
  | nil => exact .rfl' _
  | cons b l ih =>
    rw [List.mem_cons, not_or] at h
    exact (State.frameBlock_holding c f s fun e => h.1 e.symm).trans (ih h.2 _)

end

end Sys2Proof.Machine
end

section
/-! SUPPORT. The HFS at a frame start (R146 to R152): aging, the yield count, and the release arbiter's visits: O7. -/

namespace Sys2Proof.Machine

/-! ### Aging and the yield count (R146, R152) -/

/-- The held queue one frame older, without the heads that are then too old (R146). -/
def Terminal.agedQueue (r : Terminal) : List HeldFrame :=
  (r.hold.queue.map fun h => { h with age := h.age + 1 }).dropWhile fun h => decide (r.cfg.holdAge < h.age)

/-- The release fields after aging: IDLE when aging emptied the queue (R146, R147). -/
def Terminal.agedHold (r : Terminal) : HoldFields :=
  if r.agedQueue = [] ∧ r.hold.queue ≠ [] then { release := .idle, yieldCount := 0, queue := [] }
  else { r.hold with queue := r.agedQueue }

/-- The record after aging (R146). -/
def Terminal.agedOnce (r : Terminal) : Terminal :=
  { r with hold := r.agedHold
           ctr := { r.ctr with discardAge := r.ctr.discardAge + BitVec.ofNat 32 (r.hold.queue.length - r.agedQueue.length) } }

/-- The record as the release arbiter finds it: aged, and its yield count taken (R148). -/
def Terminal.readied (r : Terminal) : Terminal := { r.agedOnce with hold := r.agedHold.yieldTick }

theorem Terminal.agedHold_queue (r : Terminal) : r.agedHold.queue = r.agedQueue := by
  unfold Terminal.agedHold
  split
  · next h => exact h.1.symm
  · rfl

/-- The release state after the yield count (R152). -/
theorem HoldFields.yieldTick_releasing (h : HoldFields) :
    h.yieldTick.release = .releasing ↔ h.release = .releasing ∨ h.release = .yielding ∧ h.yieldCount ≤ 1 := by
  unfold HoldFields.yieldTick HoldFields.yieldEnd
  by_cases hy : h.release = .yielding
  · rw [if_pos hy]
    by_cases hc : h.yieldCount ≤ 1
    · rw [if_pos hc, if_pos ⟨hy, hc⟩]
      exact ⟨fun _ => .inr ⟨hy, hc⟩, fun _ => rfl⟩
    · rw [if_neg hc]
      refine ⟨fun hr => .inl hr, fun hr => hr.elim id fun hr => absurd hr.2 hc⟩
  · rw [if_neg hy]
    exact ⟨.inl, fun hr => hr.elim id fun hr => absurd hr.1 hy⟩

/-- From `s` to `u` the HFS made `g` of the records of the terminals `l`; the carriers, its count of releases and what was handed out
stayed. -/
structure Sector.Readied (g : Terminal → Terminal) (l : List TermNo) (s u : Sector) : Prop where
  term : ∀ v, u.term v = if v ∈ l then g (s.term v) else s.term v
  cars : u.cars = s.cars
  releases : u.hfs.releases = s.hfs.releases
  handed : u.mlOut = s.mlOut

theorem Sector.Readied.foldl {g : Terminal → Terminal} {step : Sector → TermNo → Sector}
    (h : ∀ (x : Sector) (t : TermNo), Sector.Readied g [t] x (step x t)) {l : List TermNo} (hl : l.Nodup) (s : Sector) :
    Sector.Readied g l s (l.foldl step s) := by
  induction l generalizing s with
  | nil => exact ⟨fun _ => (if_neg List.not_mem_nil).symm, rfl, rfl, rfl⟩
  | cons t l ih =>
    obtain ⟨htl, hl⟩ := List.nodup_cons.1 hl
    obtain ⟨hterm, hcars, hrel, hml⟩ := h s t
    rw [List.foldl_cons]
    generalize step s t = a at hterm hcars hrel hml
    obtain ⟨gterm, gcars, grel, gml⟩ := ih hl a
    refine ⟨fun v => ?_, gcars.trans hcars, grel.trans hrel, gml.trans hml⟩
    rw [gterm, hterm]
    by_cases hv : v = t
    · subst hv
      simp only [htl, if_false, List.mem_cons, true_or, if_true]
    · simp only [hv, List.mem_cons, List.not_mem_nil, or_self, if_false, false_or]

/-- The record with its queue one frame older. -/
def Terminal.older (r : Terminal) : Terminal :=
  { r with hold := { r.hold with queue := r.hold.queue.map fun h => { h with age := h.age + 1 } } }

theorem Terminal.agedQueue_eq (r : Terminal) : r.agedQueue = r.older.hold.queue.drop r.older.oldHeads.length := dropWhile_eq_drop _ _

/-- An aged record whose heads are young enough. -/
theorem Terminal.agedOnce_young {r : Terminal} (h : r.older.oldHeads = []) : r.agedOnce = r.older := by
  have hq : r.agedQueue = r.hold.queue.map fun h => { h with age := h.age + 1 } := by
    rw [r.agedQueue_eq, h]
    rfl
  have hhold : r.agedHold = r.older.hold := by
    unfold Terminal.agedHold
    rw [hq, if_neg]
    · rfl
    · rw [List.map_eq_nil_iff]
      exact fun hn => hn.2 hn.1
  unfold Terminal.agedOnce
  rw [hhold, hq, List.length_map, Nat.sub_self, BitVec.add_zero]
  rfl

/-- An aged record some of whose heads are too old. -/
theorem Terminal.agedOnce_old {r : Terminal} (h : r.older.oldHeads ≠ []) : r.agedOnce =
    { r.older with
      hold := if r.older.hold.queue.drop r.older.oldHeads.length = [] then { release := .idle, yieldCount := 0, queue := [] }
        else { r.older.hold with queue := r.older.hold.queue.drop r.older.oldHeads.length }
      ctr := { r.older.ctr with discardAge := r.older.ctr.discardAge + BitVec.ofNat 32 r.older.oldHeads.length } } := by
  have hlen : r.older.oldHeads.length ≤ r.hold.queue.length := by
    have := (List.takeWhile_sublist (l := r.older.hold.queue) fun h => decide (r.older.cfg.holdAge < h.age)).length_le
    rwa [show r.older.hold.queue.length = r.hold.queue.length from List.length_map _] at this
  have hne : r.hold.queue ≠ [] := fun hn => h (by
    unfold Terminal.oldHeads Terminal.older
    rw [hn]
    rfl)
  have hgone : r.hold.queue.length - r.agedQueue.length = r.older.oldHeads.length := by
    rw [r.agedQueue_eq, List.length_drop, show r.older.hold.queue.length = r.hold.queue.length from List.length_map _]
    omega
  unfold Terminal.agedOnce Terminal.agedHold
  rw [hgone, ← r.agedQueue_eq]
  by_cases he : r.agedQueue = []
  · rw [if_pos ⟨he, hne⟩, if_pos he]
    rfl
  · rw [if_neg fun hn => he hn.1, if_neg he]
    rfl

theorem Sector.ageQueue_readied (s : Sector) (t : TermNo) : Sector.Readied Terminal.agedOnce [t] s (s.ageQueue t) := by
  have hterm : (s.modTerm t Terminal.older).term t = (s.term t).older := (Sector.term_modTerm s t t _).trans (if_pos rfl)
  have hother {v : TermNo} (hv : v ≠ t) : (s.modTerm t Terminal.older).term v = s.term v := (Sector.term_modTerm s t v _).trans (if_neg hv)
  rw [show s.ageQueue t = (s.modTerm t Terminal.older).ageDiscard t from rfl]
  by_cases hold : (s.term t).older.oldHeads = []
  · rw [Sector.ageDiscard_none (by rw [hterm]; exact hold)]
    refine ⟨fun v => ?_, rfl, rfl, rfl⟩
    simp only [List.mem_singleton]
    split
    · next hv => rw [hv, hterm, Terminal.agedOnce_young hold]
    · next hv => exact hother hv
  · have hs := Sector.ageDiscard_stored (s := s.modTerm t Terminal.older) (t := t) (by rw [hterm]; exact hold)
    refine ⟨fun v => ?_, hs.cars, ?_, hs.handed⟩
    · simp only [List.mem_singleton]
      split
      · next hv => rw [hv, hs.term, hterm, Terminal.agedOnce_old hold]
      · next hv => exact (hs.only v hv).trans (hother hv)
    · rw [hs.hfs]
      rfl

theorem Sector.yieldTick_readied (s : Sector) (t : TermNo) :
    Sector.Readied (fun r => { r with hold := r.hold.yieldTick }) [t] s (s.modHold t HoldFields.yieldTick) := by
  refine ⟨fun v => ?_, rfl, rfl, rfl⟩
  simp only [List.mem_singleton]
  unfold Sector.modHold
  rw [Sector.term_modTerm]
  split
  · next hv => rw [hv]
  · rfl

/-- The sector as the release arbiter of carrier `c` finds it (R148). -/
def Sector.readied (s : Sector) (c : CarrierNo) : Sector :=
  (s.boundTo c).foldl (fun x t => x.modHold t HoldFields.yieldTick) ((s.boundTo c).foldl Sector.ageQueue s)

theorem Sector.hfsFrame_eq (s : Sector) (c : CarrierNo) : s.hfsFrame c = (s.readied c).releaseArbiter c := rfl

theorem Sector.readied_readied (s : Sector) (c : CarrierNo) :
    Sector.Readied Terminal.readied (s.boundTo c) s (s.readied c) := by
  have haged := Sector.Readied.foldl Sector.ageQueue_readied (s.boundTo_nodup c) s
  have hyield := Sector.Readied.foldl Sector.yieldTick_readied (s.boundTo_nodup c) ((s.boundTo c).foldl Sector.ageQueue s)
  refine ⟨fun v => ?_, hyield.cars.trans haged.cars, hyield.releases.trans haged.releases, hyield.handed.trans haged.handed⟩
  unfold Sector.readied
  rw [hyield.term, haged.term]
  split <;> rfl

/-! ### The release arbiter (R149, R150) -/

/-- The record handed its `n` head frames (R147, R150). -/
def Terminal.handed (n : Nat) (r : Terminal) : Terminal :=
  if n = 0 then r
  else { r with hold := { r.hold with queue := r.hold.queue.drop n }.idleIfEmpty
                ctr := { r.ctr with framesReleased := r.ctr.framesReleased + BitVec.ofNat 32 n } }

/-- The frames a visit hands of record `r` (R150). -/
def handedOut (c : CarrierNo) (r : Terminal) (v : TermNo × Nat) : List MlOut :=
  (r.hold.queue.take v.2).map fun h => MlOut.downstream c v.1 h.bytes

/-- From `s` to `u` the arbiter of carrier `c` made the visits `l`. -/
structure Sector.Visited (c : CarrierNo) (l : List (TermNo × Nat)) (s u : Sector) : Prop where
  term : ∀ v, u.term v = (s.term v).handed (((l.find? fun x => decide (x.1 = v)).map Prod.snd).getD 0)
  pointer : (u.car c).releasePtr = (((l.filter fun x => decide (0 < x.2)).getLast?).map Prod.fst).getD (s.car c).releasePtr
  releases : u.hfs.releases = s.hfs.releases + BitVec.ofNat 32 (l.map Prod.snd).sum
  handed : u.mlOut = s.mlOut ++ (l.map fun x => handedOut c (s.term x.1) x).flatten

theorem Terminal.handed_zero (r : Terminal) : r.handed 0 = r := if_pos rfl

theorem Sector.Visited.nil (c : CarrierNo) (s : Sector) : Sector.Visited c [] s s :=
  ⟨fun v => (s.term v).handed_zero.symm, rfl, (BitVec.add_zero _).symm, (List.append_nil _).symm⟩

theorem Sector.Visited.idle (c : CarrierNo) (s : Sector) (t : TermNo) : Sector.Visited c [(t, 0)] s s := by
  refine ⟨fun v => ?_, rfl, (BitVec.add_zero _).symm, (List.append_nil _).symm⟩
  rw [List.find?_cons]
  split <;> exact (s.term v).handed_zero.symm

/-- A visit that hands `n` frames. -/
theorem Sector.Visited.one (c : CarrierNo) (s : Sector) (t : TermNo) {n : Nat} (hn : n ≠ 0) (hlen : n ≤ (s.term t).hold.queue.length) :
    Sector.Visited c [(t, n)] s ((s.releaseFrames c t n).modCar c fun k => { k with releasePtr := t }) := by
  have htake : ((s.term t).hold.queue.take n).length = n := by rw [List.length_take]; omega
  have hcounted := ((((Sector.Stored.rfl' s t).giveBack ((s.term t).hold.queue.take n)).modTerm fun r =>
    { r with hold := { r.hold with queue := r.hold.queue.drop n }.idleIfEmpty }).modTerm
      (Terminal.releasedMore (BitVec.ofNat 32 ((s.term t).hold.queue.take n).length))).countHfs
        fun k => { k with releases := k.releases + BitVec.ofNat 32 ((s.term t).hold.queue.take n).length }
  have hvisit : (s.releaseFrames c t n).modCar c (fun k => { k with releasePtr := t }) =
      (Sector.handOut _ (handedOut c (s.term t) (t, n))).modCar c fun k => { k with releasePtr := t } := rfl
  refine ⟨fun v => ?term, ?pointer, ?releases, ?handed⟩
  case term =>
    rw [List.find?_cons]
    by_cases hv : t = v
    · subst hv
      rw [decide_eq_true rfl]
      refine hcounted.term.trans ?_
      rw [htake]
      exact (if_neg hn).symm
    · rw [decide_eq_false hv]
      exact (hcounted.only v (Ne.symm hv)).trans (s.term v).handed_zero.symm
  case pointer =>
    rw [Sector.car_modCar_self, List.filter_cons, if_pos (decide_eq_true (Nat.pos_of_ne_zero hn))]
    rfl
  case releases =>
    have hreleases : ((s.releaseFrames c t n).modCar c fun k => { k with releasePtr := t }).hfs.releases =
        s.hfs.releases + BitVec.ofNat 32 ((s.term t).hold.queue.take n).length := congrArg HfsCounters.releases hcounted.hfs
    rw [hreleases, htake]
    rfl
  case handed => exact congrArg (s.mlOut ++ ·) (List.append_nil _).symm

theorem Sector.Visited.cons {c : CarrierNo} {s a u : Sector} {t : TermNo} {n : Nat} {l : List (TermNo × Nat)}
    (h : Sector.Visited c [(t, n)] s a) (g : Sector.Visited c l a u) (ht : t ∉ l.map Prod.fst) : Sector.Visited c ((t, n) :: l) s u := by
  have hself : a.term t = (s.term t).handed n := by
    rw [h.term, List.find?_cons, decide_eq_true rfl]
    rfl
  have hother {v : TermNo} (hv : t ≠ v) : a.term v = s.term v := by
    rw [h.term, List.find?_cons, decide_eq_false hv]
    exact (s.term v).handed_zero
  refine ⟨fun v => ?term, ?pointer, ?releases, ?handed⟩
  case term =>
    rw [g.term, List.find?_cons]
    by_cases hv : t = v
    · subst hv
      have hnone : l.find? (fun x => decide (x.1 = t)) = none := by
        rw [List.find?_eq_none]
        exact fun x hx he => ht (of_decide_eq_true he ▸ List.mem_map_of_mem hx)
      rw [hnone, decide_eq_true rfl, hself]
      exact Terminal.handed_zero _
    · rw [decide_eq_false hv, hother hv]
  case pointer =>
    rw [g.pointer, h.pointer]
    by_cases hn : 0 < n
    · have hkept (m : List (TermNo × Nat)) : ((t, n) :: m).filter (fun x => decide (0 < x.2)) =
          (t, n) :: m.filter fun x => decide (0 < x.2) :=
        List.filter_cons_of_pos (p := fun x : TermNo × Nat => decide (0 < x.2)) (decide_eq_true hn)
      simp only [hkept, List.getLast?_cons, List.filter_nil]
      cases (l.filter fun x => decide (0 < x.2)).getLast? <;> rfl
    · have hdropped (m : List (TermNo × Nat)) : ((t, n) :: m).filter (fun x => decide (0 < x.2)) = m.filter fun x => decide (0 < x.2) :=
        List.filter_cons_of_neg (p := fun x : TermNo × Nat => decide (0 < x.2)) fun he => hn (of_decide_eq_true he)
      rw [hdropped, hdropped]
      rfl
  case releases =>
    rw [g.releases, h.releases, List.map_cons, List.map_cons, List.map_nil, List.sum_cons, List.sum_cons, List.sum_nil, Nat.add_zero,
      BitVec.ofNat_add, BitVec.add_assoc]
  case handed =>
    have hsame : (l.map fun x => handedOut c (a.term x.1) x) = l.map fun x => handedOut c (s.term x.1) x :=
      List.map_congr_left fun x hx => by rw [hother fun he => ht (he ▸ List.mem_map_of_mem hx)]
    rw [g.handed, h.handed, hsame, List.map_cons, List.map_cons, List.map_nil, List.flatten_cons, List.flatten_cons, List.flatten_nil,
      List.append_nil, List.append_assoc]

theorem visitCounts_terminals (limit : TermNo → Nat) (left : Nat) (l : List TermNo) : (visitCounts limit left l).map Prod.fst = l := by
  induction l generalizing left with
  | nil => rfl
  | cons t l ih => exact congrArg (t :: ·) (ih _)

theorem visitCounts_sum_le (limit : TermNo → Nat) (left : Nat) (l : List TermNo) :
    ((visitCounts limit left l).map Prod.snd).sum ≤ left := by
  induction l generalizing left with
  | nil => exact Nat.zero_le _
  | cons t l ih =>
    have := ih (left - min (limit t) left)
    unfold visitCounts
    rw [List.map_cons, List.sum_cons]
    dsimp only
    omega

/-- How many frames a visit to record `r` hands with `left` of the budget (R149). -/
def Terminal.visitTakes (left : Nat) (r : Terminal) : Nat :=
  if r.hold.release = .releasing then min (r.cfg.releaseBurst.limit left) r.hold.queue.length else 0

theorem ReleaseBurst.limit_le (b : ReleaseBurst) (left : Nat) : b.limit left ≤ left := by
  cases b with
  | one | two | four | eight => exact Nat.min_le_right _ _
  | continuous => exact le_rfl

theorem releaseVisit_visited (c : CarrierNo) (s : Sector) (left : Nat) (t : TermNo) :
    Sector.Visited c [(t, (s.term t).visitTakes left)] s (releaseVisit c (s, left) t).1 ∧
      (releaseVisit c (s, left) t).2 = left - (s.term t).visitTakes left := by
  unfold releaseVisit Terminal.visitTakes
  dsimp only
  by_cases hr : (s.term t).hold.release = .releasing
  · rw [if_pos hr, if_pos hr]
    by_cases hn : min ((s.term t).cfg.releaseBurst.limit left) (s.term t).hold.queue.length = 0
    · rw [if_pos (show min ((s.term t).cfg.releaseBurst.limit left) (s.term t).hold.frames = 0 from hn), hn]
      exact ⟨.idle c s t, rfl⟩
    · rw [if_neg (show ¬ min ((s.term t).cfg.releaseBurst.limit left) (s.term t).hold.frames = 0 from hn)]
      exact ⟨.one c s t hn (Nat.min_le_right _ _), rfl⟩
  · rw [if_neg hr, if_neg hr]
    exact ⟨.idle c s t, rfl⟩

/-- The visits of the arbiter, `limit` being what each terminal's own record allows. -/
theorem releaseVisits_visited (c : CarrierNo) (limit : TermNo → Nat) {l : List TermNo} (hl : l.Nodup) (s : Sector) (left : Nat)
    (hlimit : ∀ t ∈ l, ∀ m, (s.term t).visitTakes m = min (limit t) m) :
    Sector.Visited c (visitCounts limit left l) s (l.foldl (releaseVisit c) (s, left)).1 := by
  induction l generalizing s left with
  | nil => exact .nil c s
  | cons t l ih =>
    obtain ⟨htl, hl⟩ := List.nodup_cons.1 hl
    obtain ⟨hvisit, hleft⟩ := releaseVisit_visited c s left t
    rw [hlimit t List.mem_cons_self] at hvisit hleft
    rw [List.foldl_cons, ← Prod.mk.eta (p := releaseVisit c (s, left) t), hleft]
    generalize (releaseVisit c (s, left) t).1 = a at hvisit ⊢
    refine hvisit.cons (ih hl a _ fun v hv m => ?_) (by rw [visitCounts_terminals]; exact htl)
    have hne : t ≠ v := fun he => htl (he ▸ hv)
    have hterm : a.term v = s.term v := by
      rw [hvisit.term, List.find?_cons, decide_eq_false hne]
      exact (s.term v).handed_zero
    rw [hterm]
    exact hlimit v (List.mem_cons_of_mem _ hv) m

end Sys2Proof.Machine
end

section
/-! SUPPORT. The queue heads a frame start releases (R146 to R152): O7. -/

namespace Sys2Proof.Machine

/-! ### What a record allows (R149) -/

/-- The record is RELEASING when its yield count is taken (R152). -/
@[reducible] def Terminal.releasesNow (r : Terminal) : Prop :=
  r.hold.release = .releasing ∨ r.hold.release = .yielding ∧ r.hold.yieldCount ≤ 1

/-- The frames a visit may hand of a queue of `n` under a release burst (R149). -/
def ReleaseBurst.most (b : ReleaseBurst) (n : Nat) : Nat :=
  match b with
  | .one => min 1 n
  | .two => min 2 n
  | .four => min 4 n
  | .eight => min 8 n
  | .continuous => n

theorem ReleaseBurst.min_limit (b : ReleaseBurst) (left n : Nat) : min (b.limit left) n = min (b.most n) left := by
  cases b with
  | one | two | four | eight => unfold ReleaseBurst.limit ReleaseBurst.most; dsimp only; omega
  | continuous => exact Nat.min_comm _ _

theorem ReleaseBurst.most_zero (b : ReleaseBurst) : b.most 0 = 0 := by cases b <;> rfl

theorem Terminal.readied_queue (r : Terminal) : r.readied.hold.queue = r.agedQueue :=
  (HoldFields.yieldTick_queue _).trans r.agedHold_queue

theorem Terminal.readied_releasing {r : Terminal} (hq : r.agedQueue ≠ []) : r.readied.hold.release = .releasing ↔ r.releasesNow := by
  have hhold : r.agedHold = { r.hold with queue := r.agedQueue } := if_neg fun h => hq h.1
  unfold Terminal.readied Terminal.releasesNow
  rw [hhold]
  exact HoldFields.yieldTick_releasing _

/-- What a visit hands of a readied record. -/
theorem Terminal.readied_visitTakes (r : Terminal) (left : Nat) [Decidable r.releasesNow] :
    r.readied.visitTakes left = min (if r.releasesNow then r.cfg.releaseBurst.most r.agedQueue.length else 0) left := by
  unfold Terminal.visitTakes
  rw [r.readied_queue, show r.readied.cfg = r.cfg from rfl]
  by_cases hq : r.agedQueue = []
  · rw [hq, List.length_nil, Nat.min_zero, ReleaseBurst.most_zero, ite_self, ite_self, Nat.zero_min]
  · by_cases hr : r.releasesNow
    · rw [if_pos hr, if_pos ((Terminal.readied_releasing hq).2 hr), ReleaseBurst.min_limit]
    · rw [if_neg hr, if_neg fun h => hr ((Terminal.readied_releasing hq).1 h), Nat.zero_min]

/-! ### The record handed its heads -/

/-- What the HFS makes of a record that is handed its `n` heads. -/
theorem Terminal.readied_handed (r : Terminal) (n : Nat) : (r.readied.handed n).hold.queue = r.agedQueue.drop n ∧
    (0 < n → r.agedQueue.drop n = [] → (r.readied.handed n).hold.release = .idle) ∧
    (r.readied.handed n).ctr.framesReleased = r.ctr.framesReleased + BitVec.ofNat 32 n ∧
    (r.readied.handed n).ctr.discardAge = r.ctr.discardAge + BitVec.ofNat 32 (r.hold.queue.length - r.agedQueue.length) := by
  unfold Terminal.handed
  by_cases hn : n = 0
  · subst hn
    rw [if_pos rfl, r.readied_queue]
    exact ⟨rfl, fun h => absurd h (lt_irrefl 0), (BitVec.add_zero _).symm, rfl⟩
  · rw [if_neg hn]
    have hqueue : ({ r.readied.hold with queue := r.readied.hold.queue.drop n } : HoldFields).queue = r.agedQueue.drop n := by
      rw [r.readied_queue]
    refine ⟨(HoldFields.idleIfEmpty_queue _).trans hqueue, fun _ he => ?_, rfl, rfl⟩
    have hidle : ({ r.readied.hold with queue := r.readied.hold.queue.drop n } : HoldFields).idleIfEmpty.release = .idle := by
      rw [HoldFields.idleIfEmpty_eq, if_pos (hqueue.trans he)]
    exact hidle

/-! ### The HFS's event -/

/-- How many frames the visits `l` hand of terminal `t`. -/
def givenBy (l : List (TermNo × Nat)) (t : TermNo) : Nat := ((l.find? fun v => decide (v.1 = t)).map Prod.snd).getD 0

theorem givenBy_absent {l : List (TermNo × Nat)} {t : TermNo} (h : t ∉ l.map Prod.fst) : givenBy l t = 0 := by
  have hnone : l.find? (fun v => decide (v.1 = t)) = none := by
    rw [List.find?_eq_none]
    exact fun v hv he => h (of_decide_eq_true he ▸ List.mem_map_of_mem hv)
  unfold givenBy
  rw [hnone]
  rfl

/-- What the HFS makes of the sector at a frame start of carrier `c`, its visits being `l`. -/
structure Sector.Released (c : CarrierNo) (l : List (TermNo × Nat)) (s u : Sector) : Prop where
  term : ∀ v, u.term v = if v ∈ s.boundTo c then (s.term v).readied.handed (givenBy l v) else s.term v
  pointer : (u.car c).releasePtr = (((l.filter fun x => decide (0 < x.2)).getLast?).map Prod.fst).getD (s.car c).releasePtr
  releases : u.hfs.releases = s.hfs.releases + BitVec.ofNat 32 (l.map Prod.snd).sum
  handed : u.mlOut = s.mlOut ++
    (l.map fun x => ((s.term x.1).agedQueue.take x.2).map fun h => MlOut.downstream c x.1 h.bytes).flatten

theorem Sector.hfsFrame_released (s : Sector) (c : CarrierNo) (limit : TermNo → Nat)
    (hlimit : ∀ t m, (s.term t).readied.visitTakes m = min (limit t) m) :
    Sector.Released c (visitCounts limit (s.car c).cfg.releaseBudget (rotated (s.car c).releasePtr (s.boundTo c))) s (s.hfsFrame c) := by
  have hready := s.readied_readied c
  have hterm {t : TermNo} (ht : t ∈ s.boundTo c) : ((s.readied c).term t) = (s.term t).readied := by rw [hready.term, if_pos ht]
  have hbound : (s.readied c).boundTo c = s.boundTo c := Sector.boundTo_congr fun v => by
    rw [hready.term]
    split <;> rfl
  have hcar : (s.readied c).car c = s.car c := congrArg (fun x => x[c]) hready.cars
  have hvisited := releaseVisits_visited c limit (rotated_nodup (p := (s.car c).releasePtr) (s.boundTo_nodup c)) (s.readied c)
    (s.car c).cfg.releaseBudget fun t ht m => by rw [hterm (mem_rotated.1 ht)]; exact hlimit t m
  have hframe : s.hfsFrame c = ((rotated (s.car c).releasePtr (s.boundTo c)).foldl (releaseVisit c)
      (s.readied c, (s.car c).cfg.releaseBudget)).1 := by
    rw [Sector.hfsFrame_eq]
    unfold Sector.releaseArbiter
    rw [hbound, hcar]
  rw [hframe]
  have hmem : ∀ x ∈ visitCounts limit (s.car c).cfg.releaseBudget (rotated (s.car c).releasePtr (s.boundTo c)), x.1 ∈ s.boundTo c :=
    fun x hx => mem_rotated.1 (visitCounts_terminals limit (s.car c).cfg.releaseBudget _ ▸ List.mem_map_of_mem hx)
  have habsent {v : TermNo} (hv : v ∉ s.boundTo c) :
      givenBy (visitCounts limit (s.car c).cfg.releaseBudget (rotated (s.car c).releasePtr (s.boundTo c))) v = 0 :=
    givenBy_absent fun h => hv (by
      rw [visitCounts_terminals] at h
      exact mem_rotated.1 h)
  generalize visitCounts limit (s.car c).cfg.releaseBudget (rotated (s.car c).releasePtr (s.boundTo c)) = l at hvisited hmem habsent ⊢
  generalize (List.foldl (releaseVisit c) _ _).1 = u at hvisited ⊢
  refine ⟨fun v => ?_, ?_, ?_, ?_⟩
  · rw [hvisited.term]
    split
    · next hv => rw [hterm hv]; rfl
    · next hv =>
      rw [hready.term, if_neg hv]
      exact (congrArg (fun n => (s.term v).handed n) (habsent hv)).trans (s.term v).handed_zero
  · rw [hvisited.pointer, hcar]
  · rw [hvisited.releases, hready.releases]
  · rw [hvisited.handed, hready.handed]
    refine congrArg (fun l => s.mlOut ++ List.flatten l) (List.map_congr_left fun x hx => ?_)
    unfold handedOut
    rw [hterm (hmem x hx), Terminal.readied_queue]

/-! ### A whole frame start -/

/-- The blocks before `x` in an order that has it once. -/
theorem takeWhile_before {x : Block} {a : List Block} (ha : x ∉ a) (b : List Block) :
    (a ++ x :: b).takeWhile (fun y => decide (y ≠ x)) = a := by
  have hall : ∀ y ∈ a, decide (y ≠ x) = true := fun y hy => decide_eq_true fun he => ha (he ▸ hy)
  rw [List.takeWhile_append_of_pos hall, List.takeWhile_cons_of_neg (by simp), List.append_nil]

/-- Settles O7: the HFS's event between the other blocks, which leave the queues. -/
theorem frameStartReleasesQueueHeads : Obligations.FrameStartReleasesQueueHeads := by
  intro c f order s found x aged releasing burst k bound visits given
  obtain ⟨a, b, hab, ha, hb⟩ := blockOrder_split order .hfs
  have hfound : found = a.foldl (State.frameBlock c f) s := by
    rw [← takeWhile_before ha b, ← hab]
  have hbefore : s.sector.Holding found.sector := hfound ▸ frameBlocks_holding c f a ha s
  have hafter := frameBlocks_holding c f b hb (found.frameBlock c f .hfs)
  have hstart : s.frameStart c f order = b.foldl (State.frameBlock c f) (found.frameBlock c f .hfs) := by
    unfold State.frameStart
    rw [hab, List.foldl_append, List.foldl_cons, ← hfound]
  have hframe : (found.frameBlock c f .hfs).sector = found.sector.hfsFrame c := State.event_sector _ _
  have hbound : found.sector.boundTo c = bound := Sector.boundTo_congr fun t => (hbefore.term t).cfg
  have hreleased := found.sector.hfsFrame_released c (fun t => if releasing t then burst t else 0) fun t m =>
    (found.sector.term t).readied_visitTakes m
  have hvisits : visitCounts (fun t => if releasing t then burst t else 0) (found.sector.car c).cfg.releaseBudget
      (rotated (found.sector.car c).releasePtr (found.sector.boundTo c)) = visits := by
    rw [hbefore.settings, hbefore.pointer, hbound]
    rfl
  rw [hvisits] at hreleased
  rw [hframe] at hafter
  refine ⟨_, rfl, fun t => ⟨(hbefore.term t).queue, (hbefore.term t).cfg⟩, ?handed, visitCounts_sum_le _ _ _, ?pointer, ?releases,
    fun t ht => ?visited, fun t ht => ?unbound⟩
  case handed => rw [hstart, hafter.handed, hreleased.handed, hbefore.handed]; rfl
  case pointer => rw [hstart, hafter.pointer, hreleased.pointer, hbefore.pointer]
  case releases => rw [hstart, hafter.hfs, hreleased.releases, hbefore.hfs]
  case visited =>
    have hterm : (found.sector.hfsFrame c).term t = (x t).readied.handed (given t) := by
      rw [hreleased.term, if_pos (hbound ▸ ht)]
      rfl
    obtain ⟨hqueue, hidle, hcount, hgone⟩ := (x t).readied_handed (given t)
    have hheld := hafter.term t
    rw [hterm] at hheld
    rw [hstart]
    refine ⟨hheld.queue.trans hqueue, fun hg he => hheld.idle (hqueue.trans he) (hidle hg he), ?_, ?_⟩
    · rw [hheld.released, hcount, show (x t).ctr.framesReleased = _ from (hbefore.term t).released]
    · rw [hheld.aged, hgone, show (x t).ctr.discardAge = _ from (hbefore.term t).aged]
      rfl
  case unbound =>
    rw [hstart, (hafter.term t).queue, hreleased.term, if_neg (hbound ▸ ht), (hbefore.term t).queue]

end Sys2Proof.Machine
end

section
/-! SUPPORT. The cells that leave the calendar at a frame start (R77, R88): what is counted of them: O37. -/

namespace Sys2Proof.Machine

/-! ### Cells stored and cells read (R76) -/

theorem Table.read_cons {n : Nat} {α : Type} (d : α) (e : Fin n × α) (l : Table n α) (k : Fin n) :
    Table.read d (e :: l) k = if e.1 = k then e.2 else Table.read d l k := rfl

theorem Table.mem_of_read {n : Nat} {α : Type} {d : α} {l : Table n α} {k : Fin n} (h : Table.read d l k ≠ d) :
    (k, Table.read d l k) ∈ l := by
  induction l with
  | nil => exact absurd rfl h
  | cons e l ih =>
    rw [Table.read_cons] at h ⊢
    by_cases he : e.1 = k
    · rw [if_pos he, ← he]
      exact List.mem_cons_self
    · rw [if_neg he] at h ⊢
      exact List.mem_cons_of_mem e (ih h)

theorem Table.read_absent {n : Nat} {α : Type} {d : α} {l : Table n α} {k : Fin n} (h : k ∉ l.map Prod.fst) : Table.read d l k = d := by
  by_contra hne
  exact h (List.mem_map_of_mem (Table.mem_of_read hne))

theorem countP_set {α : Type} {l : List α} (hl : l.Nodup) {y : α} (hy : y ∈ l) {p q : α → Bool} (hp : p y = false)
    (h : ∀ z, z ≠ y → q z = p z) : l.countP q = l.countP p + if q y then 1 else 0 := by
  induction l with
  | nil => exact absurd hy List.not_mem_nil
  | cons x l ih =>
    obtain ⟨hx, hl⟩ := List.nodup_cons.1 hl
    rw [List.countP_cons, List.countP_cons]
    by_cases hxy : x = y
    · subst hxy
      have hsame : l.countP q = l.countP p := List.countP_congr fun z hz => by rw [h z fun e => hx (e ▸ hz)]
      rw [hsame, hp, if_neg Bool.false_ne_true, Nat.add_zero]
    · have := ih hl ((List.mem_cons.1 hy).resolve_left (Ne.symm hxy))
      rw [h x hxy]
      omega

/-- Of a table in canonical form as many entries satisfy `p` as numbers read something that does. -/
theorem Table.countP_read {n : Nat} {α : Type} {d : α} {l : Table n α} (hl : (l.map Prod.fst).Nodup) {p : α → Bool} (hp : p d = false) :
    (List.finRange n).countP (fun k => p (Table.read d l k)) = l.countP fun e => p e.2 := by
  induction l with
  | nil =>
    rw [List.countP_nil, List.countP_eq_zero]
    intro k _ h
    rw [show Table.read d ([] : Table n α) k = d from rfl, hp] at h
    cases h
  | cons e l ih =>
    obtain ⟨he, hl⟩ := List.nodup_cons.1 hl
    have hstep := countP_set (List.nodup_finRange n) (List.mem_finRange e.1) (p := fun k => p (Table.read d l k))
      (q := fun k => p (Table.read d (e :: l) k)) (by rw [Table.read_absent he, hp])
      fun z hz => by rw [Table.read_cons, if_neg (Ne.symm hz)]
    rw [hstep, ih hl, List.countP_cons, Table.read_cons, if_pos rfl]

theorem Table.wf_nodup {n : Nat} {α : Type} [DecidableEq α] {d : α} {l : Table n α} (h : Table.wf d l = true) : (l.map Prod.fst).Nodup := by
  unfold Table.wf at h
  rw [Bool.and_eq_true, decide_eq_true_eq] at h
  exact h.1.imp ne_of_lt

/-- The rows of a calendar outside the window of frame `f`. -/
def Carrier.goneRows (k : Carrier) (f : FrameNo) : List Row := k.calendar.filter fun row => decide (15 < (row.frame - f).toNat)

theorem Carrier.expiring_eq (k : Carrier) (f : FrameNo) :
    k.expiring f = ((k.goneRows f).map fun r => r.cells.map fun e => (r.frame, e.1, e.2)).flatten := by
  have hp : (fun r : Row => !inWindow f r.frame) = fun r => decide (15 < (r.frame - f).toNat) := by
    funext r
    unfold inWindow
    rw [← decide_not]
    exact decide_eq_decide.2 Nat.not_le
  unfold Carrier.expiring Carrier.goneRows
  rw [hp]

/-- The cells retired are those of the rows outside the window. -/
theorem Carrier.countP_expiring {k : Carrier} (hk : k.canonical) (f : FrameNo) {p : Cell → Bool} (hp : p .empty = false) :
    (k.expiring f).countP (fun x => p x.2.2) = ((k.goneRows f).map fun row => (List.finRange 32).map row.cell).flatten.countP p := by
  have hrows : ∀ row ∈ k.goneRows f, Table.wf .empty row.cells = true := fun row hrow => hk.2 row (List.mem_of_mem_filter hrow)
  rw [Carrier.expiring_eq]
  generalize k.goneRows f = rows at hrows ⊢
  induction rows with
  | nil => rfl
  | cons row l ih =>
    have hrow := Table.countP_read (Table.wf_nodup (hrows row List.mem_cons_self)) hp
    rw [List.map_cons, List.map_cons, List.flatten_cons, List.flatten_cons, List.countP_append, List.countP_append,
      ih fun x hx => hrows x (List.mem_cons_of_mem _ hx), List.countP_map, List.countP_map]
    exact congrArg (· + _) hrow.symm

theorem Carrier.mem_expiring {k : Carrier} {f : FrameNo} {row : Row} {z : SlotNo} (hrow : row ∈ k.goneRows f) (hz : row.cell z ≠ .empty) :
    (row.frame, z, row.cell z) ∈ k.expiring f := by
  rw [Carrier.expiring_eq]
  exact List.mem_flatten.2 ⟨_, List.mem_map_of_mem hrow, List.mem_map.2 ⟨_, Table.mem_of_read hz, rfl⟩⟩

/-! ### What a frame start leaves of the counts of offers and outcomes -/

/-- The fields of a carrier that tell of expired cells, offers and outcomes. -/
structure Carrier.SameCounts (k j : Carrier) : Prop where
  cfg : j.cfg = k.cfg
  expired : j.csp.expiredCells = k.csp.expiredCells
  quiet : j.resCtr.quietOffers = k.resCtr.quietOffers
  storms : j.resCtr.storms = k.resCtr.storms
  window : j.res.window = k.res.window
  exponent : j.res.exponent = k.res.exponent
  outcomes : j.rng.outcomes = k.rng.outcomes
  stale : j.rng.staleOutcomes = k.rng.staleOutcomes
  unsent : j.rng.unsentOutcomes = k.rng.unsentOutcomes

/-- The counts of every carrier and STORM are the same. -/
structure Sector.SameCounts (s u : Sector) : Prop where
  car : ∀ d, (s.car d).SameCounts (u.car d)
  storm : u.events.storm = s.events.storm

section
variable {s a u : Sector}

theorem Carrier.SameCounts.refl (k : Carrier) : k.SameCounts k := ⟨rfl, rfl, rfl, rfl, rfl, rfl, rfl, rfl, rfl⟩

theorem Carrier.SameCounts.trans {k j i : Carrier} (h : k.SameCounts j) (g : j.SameCounts i) : k.SameCounts i where
  cfg := g.cfg.trans h.cfg
  expired := g.expired.trans h.expired
  quiet := g.quiet.trans h.quiet
  storms := g.storms.trans h.storms
  window := g.window.trans h.window
  exponent := g.exponent.trans h.exponent
  outcomes := g.outcomes.trans h.outcomes
  stale := g.stale.trans h.stale
  unsent := g.unsent.trans h.unsent

theorem Sector.SameCounts.rfl' (s : Sector) : s.SameCounts s := ⟨fun _ => .refl _, rfl⟩

theorem Sector.SameCounts.trans (h : s.SameCounts a) (g : a.SameCounts u) : s.SameCounts u :=
  ⟨fun d => (h.car d).trans (g.car d), g.storm.trans h.storm⟩

theorem Sector.SameCounts.foldl {α : Type} {f : Sector → α → Sector} (h : ∀ (x : Sector) (i : α), x.SameCounts (f x i)) (l : List α)
    (s : Sector) : s.SameCounts (l.foldl f s) := by
  induction l generalizing s with
  | nil => exact .rfl' s
  | cons i l ih => exact (h s i).trans (ih _)

theorem Sector.SameCounts.ite {p : Prop} [Decidable p] (ha : s.SameCounts a) (hb : s.SameCounts u) : s.SameCounts (if p then a else u) := by
  split
  · exact ha
  · exact hb

theorem Sector.SameCounts.modCar (s : Sector) (c : CarrierNo) (f : Carrier → Carrier) (h : (s.car c).SameCounts (f (s.car c))) :
    s.SameCounts (s.modCar c f) := by
  refine ⟨fun d => ?_, rfl⟩
  rw [Sector.car_modCar]
  split
  · next hd => rw [hd]; exact h
  · exact .refl _

theorem Sector.SameCounts.andCar {c : CarrierNo} {f : Carrier → Carrier} (h : s.SameCounts a) (hf : (a.car c).SameCounts (f (a.car c))) :
    s.SameCounts (a.modCar c f) := h.trans (.modCar a c f hf)

theorem Sector.SameCounts.andTerm {t : TermNo} {f : Terminal → Terminal} (h : s.SameCounts a) : s.SameCounts (a.modTerm t f) :=
  ⟨h.car, h.storm⟩

theorem Sector.SameCounts.note (h : s.SameCounts a) (f : EventSets → EventSets) (hf : (f a.events).storm = a.events.storm) :
    s.SameCounts (a.note f) := ⟨h.car, hf.trans h.storm⟩

theorem Sector.SameCounts.noted (h : s.SameCounts a) (before : Sector) (t : TermNo) :
    s.SameCounts (Sector.noteStateChange before a t) := by
  unfold Sector.noteStateChange
  exact .ite h (.note h _ rfl)

/-- Slots and release pointer apart, the carriers are the same. -/
theorem Carrier.SameCounts.of_frame {k j : Carrier} (h :
      { j with slots := [], releasePtr := 0 } = { k with slots := [], releasePtr := 0 }) : k.SameCounts j := by
  have hcfg := congrArg Carrier.cfg h
  have hcsp := congrArg Carrier.csp h
  have hres := congrArg Carrier.res h
  have hctr := congrArg Carrier.resCtr h
  have hrng := congrArg Carrier.rng h
  exact ⟨hcfg, congrArg CspCounters.expiredCells hcsp, congrArg ResCounters.quietOffers hctr, congrArg ResCounters.storms hctr,
    congrArg Scheduler.window hres, congrArg Scheduler.exponent hres, congrArg RngCounters.outcomes hrng,
    congrArg RngCounters.staleOutcomes hrng, congrArg RngCounters.unsentOutcomes hrng⟩

theorem Sector.Quiet.sameCounts (h : s.Quiet u) : s.SameCounts u :=
  ⟨fun d => .of_frame (congrArg (fun k : Carrier => { k with slots := [] }) (h.frame d)), by rw [h.events]⟩

theorem Sector.RuledAll.sameCounts {c : CarrierNo} {f : FrameNo} {l : List TermNo} (h : s.RuledAll c f l u) : s.SameCounts u :=
  ⟨fun d => .of_frame (congrArg (fun k : Carrier => { k with releasePtr := 0 }) (h.frame d)), by rw [h.events]⟩

end

/-- Every block but the CSP's. -/
theorem frameBlocks_sameCounts (c : CarrierNo) (f : FrameNo) (l : List Block) (h : Block.csp ∉ l) (s : State) :
    s.sector.SameCounts (l.foldl (State.frameBlock c f) s).sector := by
  induction l generalizing s with
  | nil => exact .rfl' _
  | cons b l ih =>
    rw [List.mem_cons, not_or] at h
    obtain ⟨hb, hl⟩ := h
    refine Sector.SameCounts.trans ?_ (ih hl _)
    by_cases hlsv : b = .lsv
    · subst hlsv
      exact (State.lsvBlock_ruled c f s).sameCounts
    · exact (State.frameBlock_quiet c f s (Ne.symm hb) hlsv).sameCounts

/-! ### Recovery, reclaim and fill -/

section
variable (s : Sector) (c : CarrierNo)

theorem Sector.recoveryFrame_sameCounts : s.SameCounts (s.recoveryFrame c) := by
  have hup (a : Sector) : a.SameCounts (a.setCarrierState c .up) := by
    have hset : a.SameCounts (a.modCar c fun k => { k with state := .up }) := .modCar a c _ ⟨rfl, rfl, rfl, rfl, rfl, rfl, rfl, rfl, rfl⟩
    exact .ite hset (.note hset _ rfl)
  unfold Sector.recoveryFrame
  exact .ite (.trans (.modCar s c _ ⟨rfl, rfl, rfl, rfl, rfl, rfl, rfl, rfl, rfl⟩) (.ite (hup _) (.rfl' _))) (.rfl' s)

theorem Sector.reclaimSlot_sameCounts (slot : SlotNo) : s.SameCounts (Sector.reclaimSlot c s slot) := by
  unfold Sector.reclaimSlot
  split
  · refine .ite ?_ (.rfl' s)
    dsimp only
    unfold Sector.examineAdmission
    dsimp only
    exact .ite (.andTerm (.andTerm (.modCar s c _ ⟨rfl, rfl, rfl, rfl, rfl, rfl, rfl, rfl, rfl⟩)))
      (.andTerm (.modCar s c _ ⟨rfl, rfl, rfl, rfl, rfl, rfl, rfl, rfl, rfl⟩))
  all_goals exact .rfl' s

theorem Sector.Turned.sameCounts {s u : Sector} {t : TermNo} {c : CarrierNo} {r : Terminal} {k : Carrier} {p : PldCounters} {e : EventSets}
    (h : s.Turned t c r k p e u) (hk : (s.car c).SameCounts k) (he : e.storm = s.events.storm) : s.SameCounts u := by
  refine ⟨fun d => ?_, by rw [h.events, he]⟩
  by_cases hd : d = c
  · rw [hd, h.car]; exact hk
  · rw [h.onlyCar d hd]; exact .refl _

theorem Sector.grantTo_sameCounts (r : FrameNo) (t : TermNo) (slot : SlotNo) : s.SameCounts (s.grantTo c r t slot) :=
  ((Sector.Turned.rfl' s t c).grantTo r slot).sameCounts ⟨rfl, rfl, rfl, rfl, rfl, rfl, rfl, rfl, rfl⟩ rfl

theorem Sector.takeHead_sameCounts (r : FrameNo) (t : TermNo) (slot : SlotNo) : s.SameCounts (s.takeHead c r t slot) := by
  refine ((Sector.Turned.rfl' s t c).takeHead r slot).sameCounts ⟨rfl, rfl, rfl, rfl, rfl, rfl, ?_, ?_, ?_⟩ ?_
  case refine_4 => split <;> rfl
  all_goals
    unfold Carrier.grants Carrier.takesHead
    dsimp only
    split <;> rfl

theorem grantMember_sameCounts (r : FrameNo) (a : Sector × Nat) (t : TermNo) : a.1.SameCounts (grantMember c r a t).1 := by
  unfold grantMember
  split
  · exact .rfl' _
  · split
    · split
      · exact .rfl' _
      · dsimp only
        exact .andCar (Sector.grantTo_sameCounts _ c r t _) ⟨rfl, rfl, rfl, rfl, rfl, rfl, rfl, rfl, rfl⟩
    · exact .rfl' _

theorem Sector.takeHeads_sameCounts (r : FrameNo) (pace : Nat) : s.SameCounts (Sector.takeHeads c r pace s) := by
  induction pace generalizing s with
  | zero => exact .rfl' s
  | succ pace ih =>
    unfold Sector.takeHeads
    split
    · exact .ite ((Sector.takeHead_sameCounts s c r _ _).trans (ih _)) (.rfl' s)
    · exact .rfl' s
    · exact .rfl' s

theorem Carrier.foldl_setCell_sameCounts (r : FrameNo) (l : List SlotNo) (k : Carrier) :
    k.SameCounts (l.foldl (fun x slot => x.setCell r slot .offered) k) := by
  induction l generalizing k with
  | nil => exact .refl k
  | cons z l ih =>
    have hset : k.SameCounts (k.setCell r z .offered) := ⟨rfl, rfl, rfl, rfl, rfl, rfl, rfl, rfl, rfl⟩
    exact hset.trans (ih _)

theorem Sector.fillRow_sameCounts (r : FrameNo) : s.SameCounts (s.fillRow c r) := by
  have hmembers (l : List TermNo) (a : Sector × Nat) : a.1.SameCounts (l.foldl (grantMember c r) a).1 := by
    induction l generalizing a with
    | nil => exact .rfl' _
    | cons t l ih => exact (grantMember_sameCounts c r a t).trans (ih _)
  unfold Sector.fillRow Sector.grantArbiter
  refine .andCar ((hmembers _ (s, _)).trans (Sector.takeHeads_sameCounts _ c r _)) ?_
  exact (Carrier.foldl_setCell_sameCounts r _ _).trans ⟨rfl, rfl, rfl, rfl, rfl, rfl, rfl, rfl, rfl⟩

theorem Sector.fillAt_sameCounts (f : FrameNo) : s.SameCounts (s.fillAt c f) := by
  unfold Sector.fillAt
  dsimp only
  refine .ite ?_ (.rfl' s)
  split
  · exact .ite (.rfl' s) (Sector.fillRow_sameCounts s c _)
  · exact .rfl' s

end

end Sys2Proof.Machine
end

section
/-! SUPPORT. The retired cells counted, one by one (R77, R88, R107), and the backoff after them (R89): O37. -/

namespace Sys2Proof.Machine

/-! ### Outcomes taken -/

/-- The outcomes of grants a carrier has counted: current, stale and unsent. -/
def Carrier.taken (k : Carrier) : Counter := k.rng.outcomes + k.rng.staleOutcomes + k.rng.unsentOutcomes

/-- The outcomes of grants the four carriers have counted. -/
def Sector.taken (s : Sector) : Counter := ((List.finRange 4).map fun d => (s.car d).taken).sum

theorem sum_map_set {α : Type} {l : List α} (hl : l.Nodup) {d : α} (hd : d ∈ l) {f g : α → Counter} {x : Counter}
    (h : ∀ z, z ≠ d → g z = f z) (hx : g d = f d + x) : (l.map g).sum = (l.map f).sum + x := by
  induction l with
  | nil => exact absurd hd List.not_mem_nil
  | cons y l ih =>
    obtain ⟨hy, hl⟩ := List.nodup_cons.1 hl
    rw [List.map_cons, List.map_cons, List.sum_cons, List.sum_cons]
    by_cases hyd : y = d
    · subst hyd
      have hsame : l.map g = l.map f := List.map_congr_left fun z hz => h z fun e => hy (e ▸ hz)
      rw [hsame, hx, BitVec.add_assoc, BitVec.add_comm x, ← BitVec.add_assoc]
    · rw [ih hl ((List.mem_cons.1 hd).resolve_left (Ne.symm hyd)), h y hyd, BitVec.add_assoc]

theorem Sector.taken_of_only {s u : Sector} {d : CarrierNo} (h : OnlyCarrier s u d) {x : Counter}
    (hx : (u.car d).taken = (s.car d).taken + x) : u.taken = s.taken + x :=
  sum_map_set (List.nodup_finRange 4) (List.mem_finRange d) (fun z hz => congrArg Carrier.taken (h z hz)) hx

theorem Sector.SameCounts.taken {s u : Sector} (h : s.SameCounts u) : u.taken = s.taken := by
  unfold Sector.taken Carrier.taken
  simp only [(h.car _).outcomes, (h.car _).stale, (h.car _).unsent]

/-! ### Retired cells -/

/-- From `s` to `u` so many offers and grants of carrier `c` were retired unconsumed. -/
structure Sector.Expired (c : CarrierNo) (offers grants : Nat) (s u : Sector) : Prop where
  cfg : ∀ d, (u.car d).cfg = (s.car d).cfg
  state : (u.car c).state = (s.car c).state
  expired : (u.car c).csp.expiredCells = (s.car c).csp.expiredCells + BitVec.ofNat 32 (offers + grants)
  quiet : (u.car c).resCtr.quietOffers = (s.car c).resCtr.quietOffers + BitVec.ofNat 32 offers
  storms : (u.car c).resCtr.storms = (s.car c).resCtr.storms
  window : (u.car c).res.window = (fun w => pushWindow w .empty)^[offers] (s.car c).res.window
  exponent : (u.car c).res.exponent = (s.car c).res.exponent
  taken : u.taken = s.taken + BitVec.ofNat 32 grants
  storm : u.events.storm = s.events.storm

theorem Sector.Expired.rfl' (c : CarrierNo) (s : Sector) : Sector.Expired c 0 0 s s :=
  ⟨fun _ => rfl, rfl, (BitVec.add_zero _).symm, (BitVec.add_zero _).symm, rfl, rfl, rfl, (BitVec.add_zero _).symm, rfl⟩

theorem Sector.Expired.trans {c : CarrierNo} {o g o' g' : Nat} {s a u : Sector} (h : Sector.Expired c o g s a)
    (k : Sector.Expired c o' g' a u) : Sector.Expired c (o' + o) (g' + g) s u where
  cfg d := (k.cfg d).trans (h.cfg d)
  state := k.state.trans h.state
  expired := by rw [k.expired, h.expired, BitVec.add_assoc, ← BitVec.ofNat_add]; congr 2; omega
  quiet := by rw [k.quiet, h.quiet, BitVec.add_assoc, ← BitVec.ofNat_add]; congr 2; omega
  storms := k.storms.trans h.storms
  window := by rw [k.window, h.window, ← Function.iterate_add_apply]
  exponent := k.exponent.trans h.exponent
  taken := by rw [k.taken, h.taken, BitVec.add_assoc, ← BitVec.ofNat_add]; congr 2; omega
  storm := k.storm.trans h.storm

/-- What the outcome of a retired grant leaves of the carrier that takes it, and counts there. -/
structure Carrier.Takes (k j : Carrier) : Prop where
  cfg : j.cfg = k.cfg
  state : j.state = k.state
  expired : j.csp.expiredCells = k.csp.expiredCells
  quiet : j.resCtr.quietOffers = k.resCtr.quietOffers
  storms : j.resCtr.storms = k.resCtr.storms
  window : j.res.window = k.res.window
  exponent : j.res.exponent = k.res.exponent
  taken : j.taken = k.taken + 1

theorem Carrier.missJudged_takes (k : Carrier) : k.Takes k.missJudged := by
  refine ⟨rfl, rfl, rfl, rfl, rfl, rfl, rfl, ?_⟩
  show k.rng.outcomes + 1 + k.rng.staleOutcomes + k.rng.unsentOutcomes = k.rng.outcomes + k.rng.staleOutcomes + k.rng.unsentOutcomes + 1
  ac_rfl

theorem Carrier.missFailed_takes (k : Carrier) (t : TermNo) (r : Terminal) : k.Takes (k.missJudged.rangeFailed t r) := by
  have h := k.missJudged_takes
  have hframe := Carrier.lentIf_frame r.link.lendTaken t r.cfg.homeSlots
    ({ k.missJudged with rng := { k.missJudged.rng with failures := k.missJudged.rng.failures + 1 } }.unranged t)
  have hcfg := congrArg Carrier.cfg hframe
  have hstate := congrArg Carrier.state hframe
  have hcsp := congrArg Carrier.csp hframe
  have hctr := congrArg Carrier.resCtr hframe
  have hres := congrArg Carrier.res hframe
  have hrng := congrArg Carrier.rng hframe
  have htaken := congrArg (fun x : RngCounters => x.outcomes + x.staleOutcomes + x.unsentOutcomes) hrng
  exact ⟨hcfg.trans h.cfg, hstate.trans h.state, (congrArg CspCounters.expiredCells hcsp).trans h.expired,
    (congrArg ResCounters.quietOffers hctr).trans h.quiet, (congrArg ResCounters.storms hctr).trans h.storms,
    (congrArg Scheduler.window hres).trans h.window, (congrArg Scheduler.exponent hres).trans h.exponent, htaken.trans h.taken⟩

section
variable {s u : Sector} {t : TermNo} {d : CarrierNo} {r : Terminal} {k : Carrier} {p : PldCounters} {e : EventSets}

/-- An outcome of a retired grant, its cell counted already. -/
theorem Sector.Turned.expired {x : Sector} {c : CarrierNo} (h : s.Turned t d r k p e u) (hk : (s.car d).Takes k)
    (he : e.storm = s.events.storm) (hs : s = x.countCsp c fun k => { k with expiredCells := k.expiredCells + 1 }) :
    Sector.Expired c 0 1 x u := by
  have hcar : s.car c = { x.car c with csp := { (x.car c).csp with expiredCells := (x.car c).csp.expiredCells + 1 } } := by
    rw [hs]
    exact Sector.car_modCar_self x c _
  have hsettings (i : CarrierNo) : (s.car i).cfg = (x.car i).cfg := by
    rw [hs]
    exact (congrArg Carrier.cfg (Sector.car_modCar x c i _)).trans (by split <;> simp_all)
  have htaken : s.taken = x.taken := by
    rw [hs]
    exact (Sector.taken_of_only (d := c) (x := 0) (Sector.onlyCarrier_modCar x c _) (by
      rw [Sector.car_modCar_self]
      exact (BitVec.add_zero _).symm)).trans (BitVec.add_zero _)
  have hc : (u.car c).cfg = (s.car c).cfg ∧ (u.car c).state = (s.car c).state ∧
      (u.car c).csp.expiredCells = (s.car c).csp.expiredCells ∧ (u.car c).resCtr.quietOffers = (s.car c).resCtr.quietOffers ∧
      (u.car c).resCtr.storms = (s.car c).resCtr.storms ∧ (u.car c).res.window = (s.car c).res.window ∧
      (u.car c).res.exponent = (s.car c).res.exponent := by
    by_cases hd : c = d
    · rw [hd, h.car]
      exact ⟨hk.cfg, hk.state, hk.expired, hk.quiet, hk.storms, hk.window, hk.exponent⟩
    · rw [h.onlyCar c hd]
      exact ⟨rfl, rfl, rfl, rfl, rfl, rfl, rfl⟩
  obtain ⟨-, hstate, hexpired, hquiet, hstorms, hwindow, hexponent⟩ := hc
  refine
    { cfg := fun i => ?_
      state := by rw [hstate, hcar]
      expired := by rw [hexpired, hcar]; rfl
      quiet := by rw [hquiet, hcar]; exact (BitVec.add_zero _).symm
      storms := by rw [hstorms, hcar]
      window := by rw [hwindow, hcar]; rfl
      exponent := by rw [hexponent, hcar]
      taken := ?_
      storm := by rw [h.events, he, hs]; rfl }
  · refine Eq.trans ?_ (hsettings i)
    by_cases hi : i = d
    · rw [hi, h.car, hk.cfg]
    · rw [h.onlyCar i hi]
  · rw [← htaken]
    exact Sector.taken_of_only h.onlyCar (by rw [h.car, hk.taken]; rfl)

theorem Sector.expireGrant_expired (c : CarrierNo) (s : Sector) (u : FrameNo) (slot : SlotNo) (t : TermNo) :
    Sector.Expired c 0 1 s ((s.countCsp c fun k => { k with expiredCells := k.expiredCells + 1 }).rngOutcome c u slot t .miss) := by
  generalize hx : (s.countCsp c fun k => { k with expiredCells := k.expiredCells + 1 }) = x
  by_cases hcur : (x.term t).link.state = .trimming ∧ (x.term t).range.grant = some { frame := u, slot := slot }
  · obtain ⟨hst, hg⟩ := hcur
    cases howed : (x.term t).owed.grant with
    | some g =>
      rw [Sector.rngOutcome_unsent hst hg (by rw [howed]; rfl)]
      refine (Sector.Turned.rfl' x t _).unsentOutcome.expired ⟨rfl, rfl, rfl, rfl, rfl, rfl, rfl, ?_⟩ rfl hx.symm
      exact (BitVec.add_assoc _ _ _).symm
    | none =>
      rw [Sector.rngOutcome_current hst hg howed]
      by_cases hl : (x.car (x.term t).cfg.carrier).cfg.trimLimit ≤ (x.term t).range.attempts
      · exact (Sector.currentMiss_fails hst hl).expired (Carrier.missFailed_takes _ _ _) rfl hx.symm
      · exact (Sector.currentMiss_settles (not_le.1 hl)).expired (Carrier.missJudged_takes _) rfl hx.symm
  · rw [Sector.rngOutcome_stale hcur]
    refine (Sector.Turned.rfl' x t c).staleMiss.expired ⟨rfl, rfl, rfl, rfl, rfl, rfl, rfl, ?_⟩ rfl hx.symm
    show (x.car c).rng.outcomes + ((x.car c).rng.staleOutcomes + 1) + (x.car c).rng.unsentOutcomes =
      (x.car c).rng.outcomes + (x.car c).rng.staleOutcomes + (x.car c).rng.unsentOutcomes + 1
    ac_rfl

/-- The carrier with one more quiet offer expired. -/
def Carrier.offerExpired (k : Carrier) : Carrier :=
  { k with
    csp := { k.csp with expiredCells := k.csp.expiredCells + 1 }
    res := { k.res with window := pushWindow k.res.window .empty }
    resCtr := { k.resCtr with quietOffers := k.resCtr.quietOffers + 1 } }

theorem Sector.expireOffer_eq (c : CarrierNo) (s : Sector) :
    (s.countCsp c fun k => { k with expiredCells := k.expiredCells + 1 }).quietOffer c = s.modCar c Carrier.offerExpired := by
  unfold Sector.quietOffer Sector.offerOutcome Sector.countRes Sector.countCsp Sector.modRes
  rw [Sector.modCar_modCar, Sector.modCar_modCar]
  rfl

theorem Sector.expireOffer_expired (c : CarrierNo) (s : Sector) :
    Sector.Expired c 1 0 s ((s.countCsp c fun k => { k with expiredCells := k.expiredCells + 1 }).quietOffer c) := by
  rw [Sector.expireOffer_eq]
  have hcar : (s.modCar c Carrier.offerExpired).car c = (s.car c).offerExpired := Sector.car_modCar_self s c _
  have honly := Sector.onlyCarrier_modCar s c Carrier.offerExpired
  refine
    { cfg := fun d => ?_
      state := by rw [hcar]; rfl
      expired := by rw [hcar]; rfl
      quiet := by rw [hcar]; rfl
      storms := by rw [hcar]; rfl
      window := by rw [hcar]; rfl
      exponent := by rw [hcar]; rfl
      taken := Sector.taken_of_only honly ?_
      storm := rfl }
  · by_cases hd : d = c
    · rw [hd, hcar]
      rfl
    · rw [honly d hd]
  · rw [hcar]
    exact (BitVec.add_zero _).symm

theorem Sector.expireCell_expired (c : CarrierNo) (s : Sector) (x : FrameNo × SlotNo × Cell) :
    Sector.Expired c (if decide (x.2.2 = .offered) then 1 else 0) (if x.2.2.isGrant then 1 else 0) s (s.expireCell c x) := by
  obtain ⟨u, slot, cell⟩ := x
  cases cell with
  | empty => exact .rfl' c s
  | offered => exact Sector.expireOffer_expired c s
  | granted t n => exact Sector.expireGrant_expired c s u slot t

/-- The cells retired one by one. -/
theorem Sector.expireCells_expired (c : CarrierNo) (l : List (FrameNo × SlotNo × Cell)) (s : Sector) :
    Sector.Expired c (l.countP fun x => decide (x.2.2 = .offered)) (l.countP fun x => x.2.2.isGrant) s
      (l.foldl (Sector.expireCell c) s) := by
  induction l generalizing s with
  | nil => exact .rfl' c s
  | cons x l ih =>
    rw [List.countP_cons, List.countP_cons]
    exact (Sector.expireCell_expired c s x).trans (ih _)

end

/-! ### The window of offers (R88) -/

theorem pushWindow_drop (v : List OfferOutcome) (x : OfferOutcome) :
    pushWindow (v.drop (v.length - 64)) x = (v ++ [x]).drop (v.length + 1 - 64) := by
  unfold pushWindow
  generalize 64 = m
  rw [← List.drop_append_of_le_length (Nat.sub_le v.length m), List.drop_drop, List.length_drop]
  congr 1
  omega

/-- EMPTY outcomes that join a window of at most 64. -/
theorem pushWindow_iterate {w : List OfferOutcome} (hw : w.length ≤ 64) (n : Nat) :
    (fun v => pushWindow v OfferOutcome.empty)^[n] w =
      (w ++ List.replicate n OfferOutcome.empty).drop (w.length + n - 64) := by
  induction n with
  | zero =>
    have hzero : w.length + 0 - 64 = 0 := by omega
    rw [hzero]
    exact (List.append_nil w).symm
  | succ n ih =>
    have hlen : (w ++ List.replicate n OfferOutcome.empty).length = w.length + n := by
      rw [List.length_append, List.length_replicate]
    have hpush := pushWindow_drop (w ++ List.replicate n OfferOutcome.empty) OfferOutcome.empty
    rw [hlen, List.append_assoc, ← List.replicate_succ'] at hpush
    rw [Function.iterate_succ_apply', ih]
    exact hpush

end Sys2Proof.Machine
end

section
/-! SUPPORT. The backoff of a frame start and its counts as a whole (R77, R88, R89): O37. -/

namespace Sys2Proof.Machine

/-! ### The backoff (R89) -/

/-- The exponent the backoff gives a carrier in UP or RECOVERING. -/
def Carrier.nextExponent (k : Carrier) : Nat :=
  Sys2Proof.Machine.nextExponent k.cfg (garbledCount k.cfg.backoffWindow k.res.window) k.res.exponent

/-- The backoff between `s` and `u`: it is the exponent of carrier `c` that moves, with its storm. -/
structure Sector.BackedOff (c : CarrierNo) (s u : Sector) : Prop where
  expired : (u.car c).csp.expiredCells = (s.car c).csp.expiredCells
  quiet : (u.car c).resCtr.quietOffers = (s.car c).resCtr.quietOffers
  window : (u.car c).res.window = (s.car c).res.window
  taken : u.taken = s.taken
  exponent : (s.car c).state = .up ∨ (s.car c).state = .recovering → (u.car c).res.exponent = (s.car c).nextExponent
  storm : (s.car c).state = .up ∨ (s.car c).state = .recovering → (s.car c).res.exponent = 6 → (s.car c).nextExponent = 7 →
    (u.car c).resCtr.storms = (s.car c).resCtr.storms + 1 ∧ u.events.storm = insertNo c s.events.storm
  calm : (s.car c).state = .up ∨ (s.car c).state = .recovering → ¬ ((s.car c).res.exponent = 6 ∧ (s.car c).nextExponent = 7) →
    (u.car c).resCtr.storms = (s.car c).resCtr.storms ∧ u.events.storm = s.events.storm
  idle : ¬ ((s.car c).state = .up ∨ (s.car c).state = .recovering) → (u.car c).res.exponent = (s.car c).res.exponent ∧
    (u.car c).resCtr.storms = (s.car c).resCtr.storms ∧ u.events.storm = s.events.storm

section
variable {s : Sector} {c : CarrierNo}

/-- The carrier with its new exponent. -/
def Carrier.backed (k : Carrier) : Carrier := { k with res := { k.res with exponent := k.nextExponent } }

/-- The carrier with a storm counted. -/
def Carrier.stormed (k : Carrier) : Carrier := { k with resCtr := { k.resCtr with storms := k.resCtr.storms + 1 } }

theorem Sector.backoff_idle (h : ¬ ((s.car c).state = .up ∨ (s.car c).state = .recovering)) : s.backoff c = s := if_neg h

theorem Sector.backoff_moves (h : (s.car c).state = .up ∨ (s.car c).state = .recovering)
    (hn : ¬ ((s.car c).res.exponent = 6 ∧ (s.car c).nextExponent = 7)) : s.backoff c = s.modCar c Carrier.backed :=
  (if_pos h).trans ((if_neg hn).trans rfl)

theorem Sector.backoff_storms (h : (s.car c).state = .up ∨ (s.car c).state = .recovering)
    (hn : (s.car c).res.exponent = 6 ∧ (s.car c).nextExponent = 7) :
    s.backoff c = (s.modCar c fun k => k.backed.stormed).note (·.addStorm c) := by
  rw [← Sector.modCar_modCar]
  exact (if_pos h).trans ((if_pos hn).trans rfl)

theorem Sector.modCar_taken (s : Sector) (c : CarrierNo) (f : Carrier → Carrier) (h : (f (s.car c)).taken = (s.car c).taken) :
    (s.modCar c f).taken = s.taken := by
  have hzero : (s.modCar c f).taken = s.taken + 0 := Sector.taken_of_only (Sector.onlyCarrier_modCar s c f) (by
    rw [Sector.car_modCar_self, h]
    exact (BitVec.add_zero _).symm)
  exact hzero.trans (BitVec.add_zero _)

theorem Sector.backoff_backedOff (s : Sector) (c : CarrierNo) : Sector.BackedOff c s (s.backoff c) := by
  by_cases hup : (s.car c).state = .up ∨ (s.car c).state = .recovering
  · by_cases hn : (s.car c).res.exponent = 6 ∧ (s.car c).nextExponent = 7
    · rw [Sector.backoff_storms hup hn]
      have hcar : (s.modCar c fun k => k.backed.stormed).car c = (s.car c).backed.stormed :=
        Sector.car_modCar_self s c fun k => k.backed.stormed
      have htaken : (s.modCar c fun k => k.backed.stormed).taken = s.taken := Sector.modCar_taken s c _ rfl
      have hevents : (s.modCar c fun k => k.backed.stormed).events = s.events := rfl
      generalize (s.modCar c fun k => k.backed.stormed) = v at hcar htaken hevents ⊢
      have hnote : (v.note (·.addStorm c)).car c = (s.car c).backed.stormed := hcar
      exact
        { expired := by rw [hnote]; rfl
          quiet := by rw [hnote]; rfl
          window := by rw [hnote]; rfl
          taken := htaken
          exponent := fun _ => by rw [hnote]; rfl
          storm := fun _ _ _ => ⟨by rw [hnote]; rfl, by rw [← hevents]; rfl⟩
          calm := fun _ h => absurd hn h
          idle := fun h => absurd hup h }
    · rw [Sector.backoff_moves hup hn]
      have hcar : (s.modCar c Carrier.backed).car c = (s.car c).backed := Sector.car_modCar_self s c _
      have htaken : (s.modCar c Carrier.backed).taken = s.taken := Sector.modCar_taken s c _ rfl
      exact
        { expired := by rw [hcar]; rfl
          quiet := by rw [hcar]; rfl
          window := by rw [hcar]; rfl
          taken := htaken
          exponent := fun _ => by rw [hcar]; rfl
          storm := fun _ h₆ h₇ => absurd ⟨h₆, h₇⟩ hn
          calm := fun _ _ => ⟨by rw [hcar]; rfl, rfl⟩
          idle := fun h => absurd hup h }
  · rw [Sector.backoff_idle hup]
    exact ⟨rfl, rfl, rfl, rfl, fun h => absurd h hup, fun h => absurd h hup, fun h => absurd h hup, fun _ => ⟨rfl, rfl, rfl⟩⟩

end

/-! ### The whole frame start -/

theorem Carrier.expiring_congr {k j : Carrier} (h : j.calendar = k.calendar) (f : FrameNo) : j.expiring f = k.expiring f := by
  unfold Carrier.expiring
  rw [h]

theorem Sector.moveTo_sameCounts (s : Sector) (c : CarrierNo) (f : FrameNo) : s.SameCounts (s.modCar c (Carrier.moveTo f)) :=
  .modCar s c _ ⟨rfl, rfl, rfl, rfl, rfl, rfl, rfl, rfl, rfl⟩

theorem Sector.afterBackoff_sameCounts (s : Sector) (c : CarrierNo) (f : FrameNo) :
    s.SameCounts ((allSlots.foldl (Sector.reclaimSlot c) (s.recoveryFrame c)).fillAt c f) :=
  ((Sector.recoveryFrame_sameCounts s c).trans (.foldl (fun x z => Sector.reclaimSlot_sameCounts x c z) _ _)).trans
    (Sector.fillAt_sameCounts _ c f)

/-- A frame start's counts: `b` has the expired cells counted, `d` the exponent moved, all else leaves the counts. -/
theorem State.frameStart_counts (c : CarrierNo) (f : FrameNo) (order : List Block) (s : State) :
    let l := (s.sector.car c).expiring f
    ∃ a b d : Sector, s.sector.SameCounts a ∧ (a.car c).state = (s.sector.car c).state ∧
      Sector.Expired c (l.countP fun x => decide (x.2.2 = .offered)) (l.countP fun x => x.2.2.isGrant) a b ∧
      Sector.BackedOff c b d ∧ d.SameCounts (s.frameStart c f order).sector := by
  intro l
  obtain ⟨p, q, hpq, hp, hq⟩ := blockOrder_split order .csp
  unfold State.frameStart
  rw [hpq, List.foldl_append, List.foldl_cons]
  have hbefore := frameBlocks_sameCounts c f p hp s
  obtain ⟨hplot, hstate⟩ := frameBlocks_plotted c f p hp s
  generalize p.foldl (State.frameBlock c f) s = x at hbefore hplot hstate ⊢
  have hafter := frameBlocks_sameCounts c f q hq (x.frameBlock c f .csp)
  rw [State.frameBlock_csp] at hafter
  have hexpired := Sector.expireCells_expired c ((x.sector.car c).expiring f) (x.sector.modCar c (Carrier.moveTo f))
  rw [Carrier.expiring_congr (hplot c).1] at hexpired
  refine ⟨x.sector.modCar c (Carrier.moveTo f), _, _, hbefore.trans (Sector.moveTo_sameCounts _ c f), ?_, hexpired,
    Sector.backoff_backedOff _ c, (Sector.afterBackoff_sameCounts _ c f).trans ?_⟩
  · rw [Sector.car_modCar_self]
    exact hstate c
  · have hcsp : x.sector.cspFrame c f = (allSlots.foldl (Sector.reclaimSlot c)
        (((((s.sector.car c).expiring f).foldl (Sector.expireCell c) (x.sector.modCar c (Carrier.moveTo f))).backoff c).recoveryFrame
          c)).fillAt c f := by
      rw [← Carrier.expiring_congr (hplot c).1]
      rfl
    rw [← hcsp]
    exact hafter

end Sys2Proof.Machine
end

section
/-! SUPPORT. A grantee whose cell leaves the calendar unconsumed, through a whole frame start (R77, R111, R115, R117): O37. -/

namespace Sys2Proof.Machine

/-! ### Before the CSP's event: the exchange waits -/

/-- Record `y` waits for the same grant as `x`, its exchange as far. -/
structure Terminal.Waits (x y : Terminal) : Prop where
  cfg : y.cfg = x.cfg
  state : y.link.state = x.link.state
  owed : y.owed = x.owed
  grant : y.range.grant = x.range.grant
  attempts : y.range.attempts = x.range.attempts
  counted : y.ctr.rangingAttempts = x.ctr.rangingAttempts

/-- After the CSP's event: a TRIMMING terminal trims on; one in GUARD or DARK stays out, its cause and stored correction kept. -/
structure Terminal.Later (x y : Terminal) : Prop where
  trims : x.link.state = .trimming → y.link.state = .trimming ∧ y.ctr.rangingAttempts = x.ctr.rangingAttempts
  out : x.link.state = .guard ∨ x.link.state = .dark → (y.link.state = .guard ∨ y.link.state = .dark) ∧
    y.link.cause = x.link.cause ∧ y.range.stored = x.range.stored ∧ y.ctr.rangingAttempts = x.ctr.rangingAttempts

section
variable {x y z : Terminal}

theorem Terminal.Waits.refl (x : Terminal) : x.Waits x := ⟨rfl, rfl, rfl, rfl, rfl, rfl⟩

theorem Terminal.Waits.trans (h : x.Waits y) (g : y.Waits z) : x.Waits z where
  cfg := g.cfg.trans h.cfg
  state := g.state.trans h.state
  owed := g.owed.trans h.owed
  grant := g.grant.trans h.grant
  attempts := g.attempts.trans h.attempts
  counted := g.counted.trans h.counted

theorem Terminal.Later.refl (x : Terminal) : x.Later x := ⟨fun h => ⟨h, rfl⟩, fun h => ⟨h, rfl, rfl, rfl⟩⟩

theorem Terminal.Later.trans (h : x.Later y) (g : y.Later z) : x.Later z where
  trims hx := by
    obtain ⟨hy, hc⟩ := h.trims hx
    obtain ⟨hz, gc⟩ := g.trims hy
    exact ⟨hz, gc.trans hc⟩
  out hx := by
    obtain ⟨hy, hl, hs, hc⟩ := h.out hx
    obtain ⟨hz, gl, gs, gc⟩ := g.out hy
    exact ⟨hz, gl.trans hl, gs.trans hs, gc.trans hc⟩

/-- A change that leaves link state, cause, stored correction and the count of attempts. -/
theorem Terminal.Later.of_same (hst : y.link.state = x.link.state) (hc : y.link.cause = x.link.cause) (hr : y.range.stored = x.range.stored)
    (ha : y.ctr.rangingAttempts = x.ctr.rangingAttempts) : x.Later y :=
  ⟨fun h => ⟨hst.trans h, ha⟩, fun h => ⟨hst ▸ h, hc, hr, ha⟩⟩

theorem Terminal.Quiet.waits (h : x.Quiet y) : x.Waits y :=
  ⟨h.cfg, by rw [h.link], h.owed, by rw [h.range], by rw [h.range], h.attempts⟩

theorem Terminal.Quiet.later (h : x.Quiet y) : x.Later y := .of_same (by rw [h.link]) (by rw [h.link]) (by rw [h.range]) h.attempts

variable (limit : Nat) (f : FrameNo)

theorem Terminal.supervised_waits (h : x.link.state = .trimming) : x.Waits (x.supervised limit f) := by
  rw [Terminal.supervised_absent limit f (by rw [h]; decide) (by rw [h]; decide) (by rw [h]; decide)]
  have hst := x.outageTaken_state
  obtain ⟨taken, closed, heq⟩ := x.outageTaken_eq
  rw [heq] at hst ⊢
  exact ⟨rfl, hst, rfl, rfl, rfl, rfl⟩

theorem Terminal.outageTaken_later (x : Terminal) : x.Later x.outageTaken := by
  have hst := x.outageTaken_state
  obtain ⟨-, -, -, hcause, -⟩ := x.outageTaken_timers
  obtain ⟨taken, closed, heq⟩ := x.outageTaken_eq
  refine .of_same hst hcause ?_ ?_ <;> rw [heq]

theorem Terminal.guardTaken_later (h : x.link.state = .guard) : x.Later x.guardTaken := by
  refine ⟨fun ht => absurd (h.symm.trans ht) (by decide), fun _ => ⟨Terminal.guardTaken_state h, ?_⟩⟩
  have htick : (x.linked LinkFields.guardTick).link.cause = x.link.cause := by
    show (LinkFields.guardTick x.link).cause = x.link.cause
    unfold LinkFields.guardTick
    split <;> rfl
  unfold Terminal.guardTaken Terminal.guardExpired
  split
  · split
    · exact ⟨htick, rfl, rfl⟩
    · exact ⟨htick, rfl, rfl⟩
  · exact ⟨htick, rfl, rfl⟩

theorem Terminal.supervised_later (x : Terminal) : x.Later (x.supervised limit f) := by
  by_cases hg : x.link.state = .guard
  · rw [Terminal.supervised_guard limit f hg]
    exact x.outageTaken_later.trans (Terminal.guardTaken_later (x.outageTaken_state.trans hg))
  · by_cases hw : x.link.state = .trimming ∨ x.link.state = .dark
    · have hfading : x.link.state ≠ .fading := by
        rintro h
        rw [h] at hw
        exact absurd hw (by decide)
      have hadmitting : x.link.state ≠ .admitting := by
        rintro h
        rw [h] at hw
        exact absurd hw (by decide)
      rw [Terminal.supervised_absent limit f hfading hg hadmitting]
      exact x.outageTaken_later
    · rw [not_or] at hw
      exact ⟨fun h => absurd h hw.1, fun h => absurd (h.resolve_left hg) hw.2⟩

end

theorem Terminal.FillStep.later {x y : Terminal} (h : Terminal.FillStep True x y) : x.Later y := by
  cases h with
  | reclaims b => exact .of_same rfl rfl rfl rfl
  | admits _ => exact .of_same rfl rfl rfl rfl
  | grants g => exact .of_same rfl rfl rfl rfl
  | takes warm hst =>
    have hcalled : x.link.state = .called := hst trivial
    refine ⟨fun h => absurd (hcalled.symm.trans h) (by decide), fun h => ?_⟩
    rw [hcalled] at h
    exact absurd h (by decide)

theorem Terminal.Later.of_steps {x y : Terminal} (h : Relation.ReflTransGen (Terminal.FillStep True) x y) : x.Later y := by
  induction h with
  | refl => exact .refl x
  | tail _ hstep ih => exact ih.trans hstep.later

/-! ### The blocks -/

/-- Every block keeps the schedules right. -/
theorem State.frameBlock_scheduled (c : CarrierNo) (f : FrameNo) {s : State} (hs : s.sector.allScheduled) (b : Block) :
    (s.frameBlock c f b).sector.allScheduled := by
  by_cases hb : b = .lsv
  · subst hb
    unfold State.frameBlock
    rw [State.foldl_event_sector (fun t x => x.lsvFrame f t)]
    exact (Sector.Lawful.foldl (fun y v => Sector.lsvFrame_lawful y f v) _ _).scheduled hs
  · exact (State.frameBlock_coasts c f hs hb).2

theorem frameBlocks_scheduled (c : CarrierNo) (f : FrameNo) (l : List Block) {s : State} (hs : s.sector.allScheduled) :
    (l.foldl (State.frameBlock c f) s).sector.allScheduled := by
  induction l generalizing s with
  | nil => exact hs
  | cons b l ih => exact ih (State.frameBlock_scheduled c f hs b)

/-- A block but the CSP's leaves a TRIMMING terminal waiting for its grant. -/
theorem State.frameBlock_waits (c : CarrierNo) (f : FrameNo) (s : State) {b : Block} (hb : b ≠ .csp) {t : TermNo}
    (h : (s.sector.term t).link.state = .trimming) : (s.sector.term t).Waits ((s.frameBlock c f b).sector.term t) := by
  by_cases hl : b = .lsv
  · subst hl
    rw [(State.lsvBlock_ruled c f s).term]
    split
    · exact Terminal.supervised_waits _ f h
    · exact .refl _
  · exact ((State.frameBlock_quiet c f s hb hl).term t).waits

theorem frameBlocks_waits (c : CarrierNo) (f : FrameNo) (l : List Block) (hl : Block.csp ∉ l) (s : State) {t : TermNo}
    (h : (s.sector.term t).link.state = .trimming) :
    (s.sector.term t).Waits ((l.foldl (State.frameBlock c f) s).sector.term t) := by
  induction l generalizing s with
  | nil => exact .refl _
  | cons b l ih =>
    rw [List.mem_cons, not_or] at hl
    obtain ⟨hb, hl⟩ := hl
    have hstep := State.frameBlock_waits c f s (Ne.symm hb) h
    exact hstep.trans (ih hl _ (hstep.state.trans h))

/-- A block but the CSP's, once the CSP's event is over. -/
theorem State.frameBlock_later (c : CarrierNo) (f : FrameNo) (s : State) {b : Block} (hb : b ≠ .csp) :
    (∀ t, (s.sector.term t).Later ((s.frameBlock c f b).sector.term t)) ∧
      (s.frameBlock c f b).sector.events.rangeFail = s.sector.events.rangeFail := by
  by_cases hl : b = .lsv
  · subst hl
    have h := State.lsvBlock_ruled c f s
    refine ⟨fun t => ?_, by rw [h.events]⟩
    rw [h.term]
    split
    · exact Terminal.supervised_later _ f _
    · exact .refl _
  · have h := State.frameBlock_quiet c f s hb hl
    exact ⟨fun t => (h.term t).later, by rw [h.events]⟩

theorem frameBlocks_later (c : CarrierNo) (f : FrameNo) (l : List Block) (hl : Block.csp ∉ l) (s : State) :
    (∀ t, (s.sector.term t).Later ((l.foldl (State.frameBlock c f) s).sector.term t)) ∧
      (l.foldl (State.frameBlock c f) s).sector.events.rangeFail = s.sector.events.rangeFail := by
  induction l generalizing s with
  | nil => exact ⟨fun _ => .refl _, rfl⟩
  | cons b l ih =>
    rw [List.mem_cons, not_or] at hl
    obtain ⟨hb, hl⟩ := hl
    obtain ⟨hterm, hfail⟩ := State.frameBlock_later c f s (Ne.symm hb)
    obtain ⟨ihterm, ihfail⟩ := ih hl (s.frameBlock c f b)
    exact ⟨fun t => (hterm t).trans (ihterm t), ihfail.trans hfail⟩

end Sys2Proof.Machine
end

section
/-! SUPPORT. The cells that leave the calendar, at one grantee (R77, R107, R111, R115, R117): O37. -/

namespace Sys2Proof.Machine

/-- How a waiting exchange is left when its cell is retired: taken back unsent, ended in a miss, or failed at the limit. -/
structure Terminal.Retired (limit : Nat) (x y : Terminal) (failed : Prop) : Prop where
  unsent : x.owed.grant ≠ none → y = x.unsentBack
  settles : x.owed.grant = none → x.range.attempts < limit → ∃ n, y = x.missSettled n
  fails : x.owed.grant = none → limit ≤ x.range.attempts → y = x.missFailed ∧ failed

section
variable {s : Sector} {t v : TermNo} {c : CarrierNo}

/-- A miss handed on at one terminal leaves the others' records. -/
theorem Sector.rngMiss_other (s : Sector) (c : CarrierNo) (u : FrameNo) (slot : SlotNo) (hv : v ≠ t) :
    (s.rngOutcome c u slot t .miss).term v = s.term v := by
  by_cases hcur : (s.term t).link.state = .trimming ∧ (s.term t).range.grant = some { frame := u, slot := slot }
  · obtain ⟨hst, hg⟩ := hcur
    cases howed : (s.term t).owed.grant with
    | some g =>
      rw [Sector.rngOutcome_unsent hst hg (by rw [howed]; rfl)]
      exact (Sector.Turned.rfl' s t _).unsentOutcome.only v hv
    | none =>
      rw [Sector.rngOutcome_current hst hg howed]
      by_cases hl : (s.car (s.term t).cfg.carrier).cfg.trimLimit ≤ (s.term t).range.attempts
      · exact (Sector.currentMiss_fails hst hl).only v hv
      · exact (Sector.currentMiss_settles (not_le.1 hl)).only v hv
  · rw [Sector.rngOutcome_stale hcur]
    exact (Sector.Turned.rfl' s t c).staleMiss.only v hv

/-- A retired cell that is not the one terminal `t` waits for leaves its record. -/
theorem Sector.expireCell_missed (x : FrameNo × SlotNo × Cell)
    (h : ∀ n, x.2.2 = .granted t n → (s.term t).range.grant ≠ some { frame := x.1, slot := x.2.1 }) :
    (s.expireCell c x).term t = s.term t := by
  obtain ⟨u, slot, cell⟩ := x
  cases cell with
  | empty => rfl
  | offered => rfl
  | granted w n =>
    show ((s.countCsp c fun k => { k with expiredCells := k.expiredCells + 1 }).rngOutcome c u slot w .miss).term t = s.term t
    by_cases hw : t = w
    · subst hw
      have hcur : ¬ ((s.term t).link.state = .trimming ∧ (s.term t).range.grant = some { frame := u, slot := slot }) :=
        fun hg => h n rfl hg.2
      have hterm : (s.countCsp c fun k => { k with expiredCells := k.expiredCells + 1 }).term t = s.term t := rfl
      rw [← hterm] at hcur ⊢
      rw [Sector.rngOutcome_stale hcur]
      exact (Sector.Turned.rfl' _ t c).staleMiss.term
    · exact Sector.rngMiss_other _ c u slot hw

/-- A terminal that waits for no grant sees nothing of the cells retired. -/
theorem Sector.expireCells_free (c : CarrierNo) (l : List (FrameNo × SlotNo × Cell)) (h : (s.term t).range.grant = none) :
    (l.foldl (Sector.expireCell c) s).term t = s.term t := by
  induction l generalizing s with
  | nil => rfl
  | cons x l ih =>
    have hstep : (s.expireCell c x).term t = s.term t := Sector.expireCell_missed x fun n _ => by rw [h]; exact nofun
    exact (ih (hstep ▸ h)).trans hstep

/-- The cell a TRIMMING terminal waits for is retired. -/
theorem Sector.expireCell_hit {g : GrantRef} (n : Nat) (hst : (s.term t).link.state = .trimming) (hg : (s.term t).range.grant = some g) :
    Terminal.Retired (s.car (s.term t).cfg.carrier).cfg.trimLimit (s.term t)
      ((s.expireCell c (g.frame, g.slot, .granted t n)).term t)
      (t ∈ (s.expireCell c (g.frame, g.slot, .granted t n)).events.rangeFail) := by
  show Terminal.Retired _ _ (((s.countCsp c fun k => { k with expiredCells := k.expiredCells + 1 }).rngOutcome c g.frame g.slot t
    .miss).term t) (t ∈ ((s.countCsp c fun k => { k with expiredCells := k.expiredCells + 1 }).rngOutcome c g.frame g.slot t
    .miss).events.rangeFail)
  have hcfg (d : CarrierNo) : ((s.countCsp c fun k => { k with expiredCells := k.expiredCells + 1 }).car d).cfg = (s.car d).cfg := by
    refine (congrArg Carrier.cfg (Sector.car_modCar s c d _)).trans ?_
    split
    · next hd => rw [hd]
    · rfl
  have hterm : (s.countCsp c fun k => { k with expiredCells := k.expiredCells + 1 }).term t = s.term t := rfl
  generalize (s.countCsp c fun k => { k with expiredCells := k.expiredCells + 1 }) = x at hcfg hterm ⊢
  rw [← hterm, ← hcfg]
  rw [← hterm] at hst hg
  cases howed : (x.term t).owed.grant with
  | some w =>
    rw [Sector.rngOutcome_unsent hst hg (by rw [howed]; rfl)]
    refine ⟨fun _ => (Sector.Turned.rfl' x t _).unsentOutcome.term, fun h => ?_, fun h => ?_⟩ <;>
    · rw [howed] at h
      cases h
  | none =>
    rw [Sector.rngOutcome_current hst hg howed]
    refine ⟨fun h => absurd howed h, fun _ hl => ⟨_, (Sector.currentMiss_settles hl).term⟩, fun _ hl => ?_⟩
    have hfails := Sector.currentMiss_fails hst hl
    refine ⟨hfails.term, ?_⟩
    rw [hfails.events]
    exact mem_insertNo.2 (.inl rfl)

theorem Terminal.Retired.free {limit : Nat} {x y : Terminal} {p : Prop} (h : Terminal.Retired limit x y p) : y.range.grant = none := by
  by_cases ho : x.owed.grant = none
  · by_cases hl : x.range.attempts < limit
    · obtain ⟨n, rfl⟩ := h.settles ho hl
      show (x.judged.reportBroken).range.grant = none
      rw [x.judged_kept.2.2]
    · rw [(h.fails ho (not_lt.1 hl)).1]
      rfl
  · rw [h.unsent ho]
    rfl

/-- The cells retired one by one, among them the one a TRIMMING terminal waits for. -/
theorem Sector.expireCells_hit {g : GrantRef} {n : Nat} (l : List (FrameNo × SlotNo × Cell)) (hst : (s.term t).link.state = .trimming)
    (hg : (s.term t).range.grant = some g) (hl : (g.frame, g.slot, Cell.granted t n) ∈ l) :
    Terminal.Retired (s.car (s.term t).cfg.carrier).cfg.trimLimit (s.term t) ((l.foldl (Sector.expireCell c) s).term t)
      (t ∈ (l.foldl (Sector.expireCell c) s).events.rangeFail) := by
  induction l generalizing s with
  | nil => exact absurd hl List.not_mem_nil
  | cons x l ih =>
    rw [List.foldl_cons]
    by_cases hx : ∃ m, x = (g.frame, g.slot, Cell.granted t m)
    · obtain ⟨m, rfl⟩ := hx
      have hhit := Sector.expireCell_hit (c := c) m hst hg
      have hrest := Sector.expireCells_free c l hhit.free
      have hfail := (Sector.Stepped.foldl (R := Terminal.CspStep False) (Sector.expireCell_stepped c) l
        (s.expireCell c (g.frame, g.slot, Cell.granted t m))).failed t
      rw [hrest]
      exact ⟨hhit.unsent, hhit.settles, fun ho hle => ⟨(hhit.fails ho hle).1, hfail (hhit.fails ho hle).2⟩⟩
    · have hstep : (s.expireCell c x).term t = s.term t := by
        refine Sector.expireCell_missed x fun m hm hgx => hx ⟨m, ?_⟩
        rw [hg] at hgx
        obtain ⟨u, slot, cell⟩ := x
        cases hgx
        cases hm
        rfl
      have hcfg := (Sector.expireCell_keeps c s x).settings (s.term t).cfg.carrier
      have htail := (List.mem_cons.1 hl).resolve_left fun e => hx ⟨n, e.symm⟩
      have h := ih (s := s.expireCell c x) (by rw [hstep]; exact hst) (by rw [hstep]; exact hg) htail
      rw [hstep, hcfg] at h
      exact h

end

end Sys2Proof.Machine
end

section
/-! SUPPORT. Expired cells and the backoff (R77, R88, R89, R107, R111, R115): O37. -/

namespace Sys2Proof.Machine

/-! ### The grantee -/

/-- What is left, after a whole frame start, of an exchange whose cell it retired. -/
structure Terminal.Expired (limit : Nat) (x y : Terminal) (failed : Prop) : Prop where
  counts : x.owed.grant = none → y.ctr.rangingAttempts = x.ctr.rangingAttempts + 1
  trims : x.owed.grant = none → x.range.attempts < limit → y.link.state = .trimming
  fails : x.owed.grant = none → limit ≤ x.range.attempts →
    y.link.state ≠ .trimming ∧ y.link.cause = .rangeFail ∧ y.range.stored = none ∧ failed
  unsent : x.owed.grant ≠ none → y.ctr.rangingAttempts = x.ctr.rangingAttempts ∧ y.link.state = .trimming

section
variable {x y z : Terminal} {limit : Nat} {p q : Prop}

theorem Terminal.missSettled_counts (n : Nat) (x : Terminal) : (x.missSettled n).link = x.link ∧
    (x.missSettled n).ctr.rangingAttempts = x.ctr.rangingAttempts + 1 := by
  obtain ⟨hlink, -, -, -, -, hctr⟩ := x.judged.reportBroken_kept
  refine ⟨hlink, ?_⟩
  exact congrArg TermCounters.rangingAttempts hctr

theorem Terminal.missFailed_counts (x : Terminal) : x.missFailed.link.state = .guard ∧ x.missFailed.link.cause = .rangeFail ∧
    x.missFailed.range.stored = none ∧ x.missFailed.ctr.rangingAttempts = x.ctr.rangingAttempts + 1 := by
  obtain ⟨-, -, -, -, -, hctr⟩ := x.judged.reportBroken_kept
  refine ⟨rfl, rfl, rfl, ?_⟩
  exact congrArg TermCounters.rangingAttempts hctr

/-- The cell of a waiting exchange retired, and what comes after. -/
theorem Terminal.Retired.expired (h : Terminal.Retired limit x y p) (hst : x.link.state = .trimming) (hl : y.Later z) (hp : p → q) :
    Terminal.Expired limit x z q := by
  have hsettled (ho : x.owed.grant = none) (ha : x.range.attempts < limit) :
      z.link.state = .trimming ∧ z.ctr.rangingAttempts = x.ctr.rangingAttempts + 1 := by
    obtain ⟨n, rfl⟩ := h.settles ho ha
    obtain ⟨hlink, hctr⟩ := x.missSettled_counts n
    obtain ⟨hz, hzc⟩ := hl.trims (by rw [hlink, hst])
    exact ⟨hz, hzc.trans hctr⟩
  have hfailed (ho : x.owed.grant = none) (ha : limit ≤ x.range.attempts) :
      (z.link.state = .guard ∨ z.link.state = .dark) ∧ z.link.cause = .rangeFail ∧ z.range.stored = none ∧
        z.ctr.rangingAttempts = x.ctr.rangingAttempts + 1 := by
    obtain ⟨hguard, hcause, hstored, hctr⟩ := x.missFailed_counts
    obtain ⟨hy, -⟩ := h.fails ho ha
    rw [← hy] at hguard hcause hstored hctr
    obtain ⟨hz, hzl, hzs, hzc⟩ := hl.out (.inl hguard)
    exact ⟨hz, hzl.trans hcause, hzs.trans hstored, hzc.trans hctr⟩
  refine ⟨fun ho => ?counts, fun ho ha => (hsettled ho ha).1, fun ho ha => ?fails, fun ho => ?unsent⟩
  case counts =>
    by_cases ha : x.range.attempts < limit
    · exact (hsettled ho ha).2
    · obtain ⟨-, -, -, hc⟩ := hfailed ho (not_lt.1 ha)
      exact hc
  case fails =>
    obtain ⟨hz, hcause, hstored, -⟩ := hfailed ho ha
    refine ⟨fun e => ?_, hcause, hstored, hp (h.fails ho ha).2⟩
    rw [e] at hz
    exact absurd hz (by decide)
  case unsent =>
    obtain ⟨hz, hzc⟩ := hl.trims (by rw [h.unsent ho]; exact hst)
    exact ⟨by rw [hzc, h.unsent ho]; rfl, hz⟩

/-- The exchange waited unchanged before. -/
theorem Terminal.Expired.waited (h : Terminal.Expired limit y z p) (hw : x.Waits y) : Terminal.Expired limit x z p := by
  obtain ⟨-, -, howed, -, hatt, hctr⟩ := hw
  obtain ⟨hcounts, htrims, hfails, hunsent⟩ := h
  rw [howed, hctr] at hcounts hunsent
  rw [howed, hatt] at htrims hfails
  exact ⟨hcounts, htrims, hfails, hunsent⟩

end

/-- The CSP's event at a grantee whose cell leaves the calendar. -/
theorem Sector.cspFrame_expired {s : Sector} {t : TermNo} {g : GrantRef} {n : Nat} (c : CarrierNo) (f : FrameNo) (hs : s.allScheduled)
    (hst : (s.term t).link.state = .trimming) (hg : (s.term t).range.grant = some g)
    (hl : (g.frame, g.slot, Cell.granted t n) ∈ (s.car c).expiring f) :
    ∃ y p, Terminal.Retired (s.car (s.term t).cfg.carrier).cfg.trimLimit (s.term t) y p ∧ y.Later ((s.cspFrame c f).term t) ∧
      (p → t ∈ (s.cspFrame c f).events.rangeFail) := by
  have hcfg : ((s.modCar c (Carrier.moveTo f)).car (s.term t).cfg.carrier).cfg = (s.car (s.term t).cfg.carrier).cfg := by
    rw [Sector.car_modCar]
    split
    · next hd => rw [hd]; rfl
    · rfl
  have hterm : (s.modCar c (Carrier.moveTo f)).term t = s.term t := rfl
  have hhit := Sector.expireCells_hit (s := s.modCar c (Carrier.moveTo f)) (c := c) ((s.car c).expiring f) hst hg hl
  have hmoved : ((s.car c).expiring f).foldl (Sector.expireCell c) (s.modCar c (Carrier.moveTo f)) = s.moveWindow c f := rfl
  rw [hterm, hcfg, hmoved] at hhit
  have hsched : (s.moveWindow c f).allScheduled := (Sector.moveWindow_lawful s c f).scheduled hs
  have hafter : (s.moveWindow c f).Stepped (Terminal.FillStep True) (s.cspFrame c f) :=
    Sector.afterWindow_stepped (q := True) c f fun _ => hsched
  exact ⟨_, _, hhit, .of_steps (hafter.term t), hafter.failed t⟩

/-- A frame start at a grantee whose cell leaves the calendar. -/
theorem State.frameStart_expired (c : CarrierNo) (f : FrameNo) (order : List Block) {s : State} {t : TermNo} {g : GrantRef} {n : Nat}
    (hs : s.sector.allScheduled) (hst : (s.sector.term t).link.state = .trimming) (hg : (s.sector.term t).range.grant = some g)
    (hl : (g.frame, g.slot, Cell.granted t n) ∈ (s.sector.car c).expiring f) :
    Terminal.Expired (s.sector.car (s.sector.term t).cfg.carrier).cfg.trimLimit (s.sector.term t)
      ((s.frameStart c f order).sector.term t) (t ∈ (s.frameStart c f order).sector.events.rangeFail) := by
  obtain ⟨p, q, hpq, hp, hq⟩ := blockOrder_split order .csp
  unfold State.frameStart
  rw [hpq, List.foldl_append, List.foldl_cons]
  have hsched := frameBlocks_scheduled c f p hs
  have hwaits := frameBlocks_waits c f p hp s hst
  have hsettings (d : CarrierNo) := (frameBlocks_keeps c f p hp s).settings d
  obtain ⟨hplot, -⟩ := frameBlocks_plotted c f p hp s
  generalize p.foldl (State.frameBlock c f) s = x at hsched hwaits hsettings hplot ⊢
  obtain ⟨hlater, hfail⟩ := frameBlocks_later c f q hq (x.frameBlock c f .csp)
  rw [State.frameBlock_csp] at hlater hfail
  rw [← Carrier.expiring_congr (hplot c).1] at hl
  obtain ⟨y, r, hret, hy, hr⟩ := Sector.cspFrame_expired c f hsched (hwaits.state.trans hst) (hwaits.grant.trans hg) hl
  rw [hwaits.cfg, hsettings] at hret
  refine (hret.expired (hwaits.state.trans hst) (hy.trans (hlater t)) fun hp => ?_).waited hwaits
  rw [hfail]
  exact hr hp

/-! ### The obligation -/

/-- Settles O37: the retired cells counted one by one, then the backoff. -/
theorem expiredCellsAndBackoff : Obligations.ExpiredCellsAndBackoff := by
  intro c f order s hcan _ hlen k gone cells offers grants window garbled e next taken
  obtain ⟨-, -, hcars⟩ := hcan
  obtain ⟨a, b, d, hsa, hstate, hab, hbd, hdu⟩ := s.frameStart_counts c f order
  have hk := hsa.car c
  have hu := hdu.car c
  have hoffers : (k.expiring f).countP (fun x => decide (x.2.2 = .offered)) = offers :=
    Carrier.countP_expiring (p := fun z => decide (z = .offered)) (hcars c) f rfl
  have hgrants : (k.expiring f).countP (fun x => x.2.2.isGrant) = grants := Carrier.countP_expiring (p := Cell.isGrant) (hcars c) f rfl
  rw [hoffers, hgrants] at hab
  have hwindow : (b.car c).res.window = window := by
    rw [hab.window, hk.window]
    exact pushWindow_iterate hlen offers
  have hexponent : (b.car c).res.exponent = e := hab.exponent.trans hk.exponent
  have hstorms : (b.car c).resCtr.storms = k.resCtr.storms := hab.storms.trans hk.storms
  have hstorm : b.events.storm = s.sector.events.storm := hab.storm.trans hsa.storm
  have hbstate : (b.car c).state = k.state := hab.state.trans hstate
  have hcfg : (b.car c).cfg = k.cfg := (hab.cfg c).trans hk.cfg
  have hnext : (b.car c).nextExponent = next := by
    unfold Carrier.nextExponent
    rw [hcfg, hwindow, hexponent, garbledCount_eq]
    rfl
  refine ⟨_, rfl, ⟨?expired, ?quiet, ?window, ?taken, fun hup => ⟨?exponent, fun h₆ h₇ => ?storm, fun hn => ?calm⟩, fun hdown => ?idle⟩,
    fun t g row n hrow hframe hcell hs hst _ hg => ?grantee⟩
  case expired => rw [hu.expired, hbd.expired, hab.expired, hk.expired]
  case quiet => rw [hu.quiet, hbd.quiet, hab.quiet, hk.quiet]
  case window => rw [hu.window, hbd.window, hwindow]
  case taken =>
    have h : (s.frameStart c f order).sector.taken = s.sector.taken + BitVec.ofNat 32 grants := by
      rw [hdu.taken, hbd.taken, hab.taken, hsa.taken]
    exact h
  case exponent => rw [hu.exponent, hbd.exponent (hbstate ▸ hup), hnext]
  case storm =>
    obtain ⟨hs, he⟩ := hbd.storm (hbstate ▸ hup) (hexponent.trans h₆) (hnext.trans h₇)
    rw [hu.storms, hdu.storm, hs, he, hstorms, hstorm]
    exact ⟨rfl, rfl⟩
  case calm =>
    obtain ⟨hs, he⟩ := hbd.calm (hbstate ▸ hup) (by rw [hexponent, hnext]; exact hn)
    rw [hu.storms, hdu.storm, hs, he, hstorms, hstorm]
    exact ⟨rfl, rfl⟩
  case idle =>
    obtain ⟨hx, hs, he⟩ := hbd.idle (by rw [hbstate]; rintro (h | h) <;> rw [h] at hdown <;> exact absurd hdown (by decide))
    rw [hu.exponent, hu.storms, hdu.storm, hx, hs, he, hexponent, hstorms, hstorm]
    exact ⟨rfl, rfl, rfl⟩
  case grantee =>
    have hmem := Carrier.mem_expiring (z := g.slot) hrow (by rw [hcell]; exact nofun)
    rw [hframe, hcell] at hmem
    have h := s.frameStart_expired c f order hs hst hg hmem
    exact ⟨h.counts, h.trims, h.fails, h.unsent⟩

end Sys2Proof.Machine
end

section
/-! SUPPORT. A calendar row that lists one slot twice (no state a run reaches has one): the slot reads empty, and the grant behind the
empty entry expires with the row, so that its exchange fails and leaves the ranging set: O38. -/

namespace Sys2Proof.Machine

/-- Terminal 5, TRIMMING, its GRANT for frame 0, slot 3 sent, at the attempt limit. -/
def hiddenGrantee : Terminal :=
  { cfg := { configured := true }
    link := { state := .trimming }
    range := { attempts := 8, grant := some { frame := 0, slot := 3 } } }

/-- Carrier 0 in DOWN, at frame 0, whose row of frame 0 lists slot 3 as empty and then as granted to terminal 5. -/
def hidingCarrier : Carrier :=
  { state := .down
    calendar := { frame := 0, filled := true, cells := [(3, .empty), (3, .granted 5 8)] } :: (emptyCalendar 0).tail
    res := { ranging := [5] } }

/-- Reset with that terminal and that carrier. -/
def hiddenGrant : State :=
  { State.reset with
    sector := { State.reset.sector with terms := [(5, hiddenGrantee)], cars := State.reset.sector.cars.set 0 hidingCarrier } }

theorem hiddenGrant_scheduled : hiddenGrant.sector.allScheduled := by
  unfold Sector.allScheduled Sector.scheduled
  decide +kernel

/-- No grant can be read of the row that leaves the calendar. -/
theorem hiddenGrant_unread :
    ∀ row ∈ hidingCarrier.calendar, 15 < (row.frame - (1 : FrameNo)).toNat → ∀ z, (row.cell z).isGrant = false := by
  decide +kernel

/-- At the frame start of frame 1 the exchange fails all the same. -/
theorem hiddenGrant_after : ((hiddenGrant.frameStart 0 1 [.csp]).sector.car 0).res.ranging = [] := by decide +kernel

/-- Refutes O38: on `hiddenGrant` a frame start of a carrier in DOWN drops terminal 5 from the ranging set. -/
theorem not_grantArbiterServesItsClaimants : ¬ Obligations.GrantArbiterServesItsClaimants := by
  intro h
  obtain ⟨u, hu, -, hidle⟩ := h 0 1 [.csp] hiddenGrant hiddenGrant_scheduled (by decide +kernel) (by decide) hiddenGrant_unread
  obtain ⟨-, -, -, hranging, -⟩ := hidle (.inl (.inl rfl))
  obtain rfl : hiddenGrant.frameStart 0 1 [.csp] = u := Host.Outcome.next.inj hu
  have hdropped : ((hiddenGrant.frameStart 0 1 [.csp]).sector.car 0).res.ranging = [5] := hranging
  rw [hiddenGrant_after] at hdropped
  exact absurd hdropped (by decide)

end Sys2Proof.Machine
end
